-- ==== Sys2Proof/Word.lean ====
section
/-! DEFINITION. Words of the machine and their plainest arithmetic (R10, R16): bit 0 is the least significant. -/

namespace Sys2Proof

/-- A 64-bit register, address or operand. -/
abbrev Word := BitVec 64

/-- A byte of memory. -/
abbrev Byte := BitVec 8

/-- An instruction, hint or literal word (R176). -/
abbrev W32 := BitVec 32

/-- The bytes of a natural number, least significant first (R10): `n` of them. -/
def natToBytes : Nat → Nat → List Byte
  | 0, _ => []
  | n + 1, x => BitVec.ofNat 8 x :: natToBytes n (x / 256)

/-- The natural number whose bytes, least significant first, are the list (R10). -/
def bytesToNat : List Byte → Nat
  | [] => 0
  | b :: bs => b.toNat + 256 * bytesToNat bs

end Sys2Proof
end

