-- ==== Sys2Proof/Syntax.lean ====
section
/-! DEFINITION. The instruction set: one constructor for each row of spec/opcode_table.json.
The first 157 are the words of R202, with the row's fields under the row's own letters
(`sw` is the switch marker S of R176, `b` the operand of R179 with its literal words).
The other 76 are the machine's own steps (spec/95_what_each_step_holds.md), each with the
numbers that say which agent takes it. -/

namespace Sys2Proof

/-- Element width W (R201). -/
inductive W where
  | w8 | w16 | w32 | w64
  deriving DecidableEq, Repr

/-- Integer type code IT (R201): `n` unsigned, `i` signed. -/
inductive IT where
  | n8 | n16 | n32 | n64 | i8 | i16 | i32 | i64
  deriving DecidableEq, Repr

/-- Float type code FT (R201); code 3 is ILLEGAL and kept as `rsv`. -/
inductive FT where
  | f32 | f16 | bf16 | rsv
  deriving DecidableEq, Repr

/-- The operand codes of R179; `rsv` keeps a code from 0xE6 up, which is ILLEGAL. -/
inductive Opnd where
  | v (r : BitVec 7)
  | c (r : BitVec 6)
  | imm (i : BitVec 5)
  | lit32 (x : BitVec 32)
  | lit64 (x : BitVec 64)
  | lane | tid | zero | grp
  | rsv (k : BitVec 8)
  deriving DecidableEq, Repr

/-- One constructor for each row of the opcode table. -/
inductive Instr where
  | br (sw : Bool) (m : BitVec 3) (p : Bool) (o : BitVec 21)
  | brs (sw : Bool) (m : BitVec 3) (p : Bool) (o : BitVec 21)
  | jmp (sw : Bool) (o : BitVec 25)
  | call (sw : Bool) (o : BitVec 25)
  | jmpr (sw : Bool) (a : BitVec 7)
  | callr (sw : Bool) (a : BitVec 7)
  | ret (sw : Bool)
  | exit (sw : Bool)
  | trap (sw : Bool) (b : Opnd)
  | rtt (sw : Bool)
  | bkpt (sw : Bool)
  | bar (sw : Bool) (i : BitVec 4)
  | cbar (sw : Bool) (i : BitVec 2)
  | sleep (sw : Bool) (b : Opnd)
  | nop (sw : Bool)
  | mfs (sw : Bool) (d : BitVec 7) (r : BitVec 7)
  | mts (sw : Bool) (r : BitVec 7) (b : Opnd)
  | rdfpf (sw : Bool) (d : BitVec 7)
  | clfpf (sw : Bool) (b : Opnd)
  | add (sw : Bool) (w : W) (d : BitVec 7) (a : BitVec 7) (b : Opnd)
  | sub (sw : Bool) (w : W) (d : BitVec 7) (a : BitVec 7) (b : Opnd)
  | addSat (sw : Bool) (t : IT) (d : BitVec 7) (a : BitVec 7) (b : Opnd)
  | subSat (sw : Bool) (t : IT) (d : BitVec 7) (a : BitVec 7) (b : Opnd)
  | mul (sw : Bool) (w : W) (d : BitVec 7) (a : BitVec 7) (b : Opnd)
  | mad (sw : Bool) (w : W) (d : BitVec 7) (a : BitVec 7) (b : Opnd)
  | mulh (sw : Bool) (t : IT) (d : BitVec 7) (a : BitVec 7) (b : Opnd)
  | div (sw : Bool) (t : BitVec 2) (d : BitVec 7) (a : BitVec 7) (b : Opnd)
  | rem (sw : Bool) (t : BitVec 2) (d : BitVec 7) (a : BitVec 7) (b : Opnd)
  | and (sw : Bool) (d : BitVec 7) (a : BitVec 7) (b : Opnd)
  | or (sw : Bool) (d : BitVec 7) (a : BitVec 7) (b : Opnd)
  | xor (sw : Bool) (d : BitVec 7) (a : BitVec 7) (b : Opnd)
  | andn (sw : Bool) (d : BitVec 7) (a : BitVec 7) (b : Opnd)
  | orn (sw : Bool) (d : BitVec 7) (a : BitVec 7) (b : Opnd)
  | xnor (sw : Bool) (d : BitVec 7) (a : BitVec 7) (b : Opnd)
  | not (sw : Bool) (d : BitVec 7) (b : Opnd)
  | mov (sw : Bool) (d : BitVec 7) (b : Opnd)
  | shl (sw : Bool) (w : W) (d : BitVec 7) (a : BitVec 7) (b : Opnd)
  | shr (sw : Bool) (w : W) (d : BitVec 7) (a : BitVec 7) (b : Opnd)
  | sar (sw : Bool) (w : W) (d : BitVec 7) (a : BitVec 7) (b : Opnd)
  | rol (sw : Bool) (w : W) (d : BitVec 7) (a : BitVec 7) (b : Opnd)
  | min (sw : Bool) (t : IT) (d : BitVec 7) (a : BitVec 7) (b : Opnd)
  | max (sw : Bool) (t : IT) (d : BitVec 7) (a : BitVec 7) (b : Opnd)
  | cmp (sw : Bool) (t : IT) (c : BitVec 3) (m : BitVec 3) (a : BitVec 7) (b : Opnd)
  | abs (sw : Bool) (d : BitVec 7) (t : IT) (b : Opnd)
  | neg (sw : Bool) (d : BitVec 7) (t : IT) (b : Opnd)
  | clz (sw : Bool) (d : BitVec 7) (t : IT) (b : Opnd)
  | popc (sw : Bool) (d : BitVec 7) (t : IT) (b : Opnd)
  | cvtInt (sw : Bool) (d : BitVec 7) (u : Bool) (y : IT) (z : IT) (b : Opnd)
  | sel (sw : Bool) (m : BitVec 3) (d : BitVec 7) (a : BitVec 7) (b : Opnd)
  | bfe (sw : Bool) (d : BitVec 7) (a : BitVec 7) (b : Opnd)
  | bfeI (sw : Bool) (d : BitVec 7) (a : BitVec 7) (b : Opnd)
  | bfi (sw : Bool) (d : BitVec 7) (a : BitVec 7) (b : Opnd)
  | setc (sw : Bool) (c : BitVec 6) (b : Opnd)
  | movk (sw : Bool) (d : BitVec 7) (k : BitVec 3)
  | movm (sw : Bool) (d : BitVec 7) (m : BitVec 3)
  | setm (sw : Bool) (m : BitVec 3) (b : Opnd)
  | movq (sw : Bool) (d : BitVec 7) (q : BitVec 3)
  | setq (sw : Bool) (q : BitVec 3) (b : Opnd)
  | shuf (sw : Bool) (w : W) (d : BitVec 7) (a : BitVec 7) (b : Opnd)
  | voteAny (sw : Bool) (d : BitVec 7) (b : Opnd)
  | voteAll (sw : Bool) (d : BitVec 7) (b : Opnd)
  | voteBallot (sw : Bool) (d : BitVec 7) (b : Opnd)
  | elect (sw : Bool) (d : BitVec 7)
  | matchAny (sw : Bool) (d : BitVec 7) (b : Opnd)
  | redux (sw : Bool) (d : BitVec 7) (o : BitVec 3) (e : BitVec 4) (b : Opnd)
  | scanIncl (sw : Bool) (d : BitVec 7) (o : BitVec 3) (e : BitVec 4) (b : Opnd)
  | scanExcl (sw : Bool) (d : BitVec 7) (o : BitVec 3) (e : BitVec 4) (b : Opnd)
  | pack6 (sw : Bool) (d : BitVec 7) (u : Bool) (f : BitVec 5) (b : Opnd)
  | unpack6 (sw : Bool) (d : BitVec 7) (f : BitVec 5) (b : Opnd)
  | addF (sw : Bool) (f : FT) (d : BitVec 7) (a : BitVec 7) (b : Opnd)
  | subF (sw : Bool) (f : FT) (d : BitVec 7) (a : BitVec 7) (b : Opnd)
  | mulF (sw : Bool) (f : FT) (d : BitVec 7) (a : BitVec 7) (b : Opnd)
  | scale (sw : Bool) (f : FT) (d : BitVec 7) (a : BitVec 7) (b : Opnd)
  | fma (sw : Bool) (f : FT) (d : BitVec 7) (a : BitVec 7) (b : Opnd)
  | fms (sw : Bool) (f : FT) (d : BitVec 7) (a : BitVec 7) (b : Opnd)
  | minF (sw : Bool) (f : FT) (d : BitVec 7) (a : BitVec 7) (b : Opnd)
  | minnum (sw : Bool) (f : FT) (d : BitVec 7) (a : BitVec 7) (b : Opnd)
  | maxF (sw : Bool) (f : FT) (d : BitVec 7) (a : BitVec 7) (b : Opnd)
  | maxnum (sw : Bool) (f : FT) (d : BitVec 7) (a : BitVec 7) (b : Opnd)
  | negF (sw : Bool) (f : FT) (d : BitVec 7) (b : Opnd)
  | absF (sw : Bool) (f : FT) (d : BitVec 7) (b : Opnd)
  | fclass (sw : Bool) (f : FT) (d : BitVec 7) (b : Opnd)
  | copysign (sw : Bool) (f : FT) (d : BitVec 7) (a : BitVec 7) (b : Opnd)
  | cmpF (sw : Bool) (f : FT) (c : BitVec 3) (m : BitVec 3) (a : BitVec 7) (b : Opnd)
  | fdot2 (sw : Bool) (f : FT) (d : BitVec 7) (a : BitVec 7) (b : Opnd)
  | fdot4 (sw : Bool) (f : FT) (d : BitVec 7) (a : BitVec 7) (b : Opnd)
  | rsum (sw : Bool) (f : FT) (d : BitVec 7) (b : Opnd)
  | rmax (sw : Bool) (f : FT) (d : BitVec 7) (b : Opnd)
  | rcp (sw : Bool) (d : BitVec 7) (f : FT) (b : Opnd)
  | rsqrt (sw : Bool) (d : BitVec 7) (f : FT) (b : Opnd)
  | sqrt (sw : Bool) (d : BitVec 7) (f : FT) (b : Opnd)
  | exp2 (sw : Bool) (d : BitVec 7) (f : FT) (b : Opnd)
  | log2 (sw : Bool) (d : BitVec 7) (f : FT) (b : Opnd)
  | tanh (sw : Bool) (d : BitVec 7) (f : FT) (b : Opnd)
  | cvtFloatFloat (sw : Bool) (d : BitVec 7) (y : FT) (z : FT) (b : Opnd)
  | cvtF32Binary8 (sw : Bool) (d : BitVec 7) (u : Bool) (f : BitVec 5) (b : Opnd)
  | cvtF16Binary8 (sw : Bool) (d : BitVec 7) (u : Bool) (f : BitVec 5) (b : Opnd)
  | cvtBf16Binary8 (sw : Bool) (d : BitVec 7) (u : Bool) (f : BitVec 5) (b : Opnd)
  | cvtBinary8F32 (sw : Bool) (d : BitVec 7) (f : BitVec 5) (b : Opnd)
  | cvtBinary8F16 (sw : Bool) (d : BitVec 7) (f : BitVec 5) (b : Opnd)
  | cvtBinary8Bf16 (sw : Bool) (d : BitVec 7) (f : BitVec 5) (b : Opnd)
  | cvtFloatInteger (sw : Bool) (d : BitVec 7) (y : Bool) (g : FT) (h : Bool) (b : Opnd)
  | topk (sw : Bool) (f : FT) (d : BitVec 7) (a : BitVec 7) (b : Opnd)
  | ld (sw : Bool) (z : IT) (d : BitVec 7) (a : BitVec 7) (o : BitVec 2) (c : BitVec 3) (p : BitVec 3)
  | st (sw : Bool) (z : IT) (d : BitVec 7) (a : BitVec 7) (o : BitVec 2) (c : BitVec 3) (p : BitVec 3)
  | ldb (sw : Bool) (z : IT) (d : BitVec 7) (a : BitVec 7) (o : BitVec 2) (p : BitVec 3)
  | atom (sw : Bool) (z : IT) (d : BitVec 7) (a : BitVec 7) (o : BitVec 2) (c : BitVec 3) (p : BitVec 3)
  | cas (sw : Bool) (z : IT) (d : BitVec 7) (a : BitVec 7) (o : BitVec 2) (c : BitVec 3)
  | wupd (sw : Bool) (o : BitVec 3) (e : BitVec 4) (a : BitVec 7) (b : Opnd)
  | wred (sw : Bool) (o : BitVec 3) (e : BitVec 4) (a : BitVec 7) (b : Opnd)
  | fence (sw : Bool) (k : BitVec 2)
  | ink (sw : Bool) (a : BitVec 7) (b : Opnd)
  | inkq (sw : Bool) (d : BitVec 7) (a : BitVec 7)
  | inkwait (sw : Bool) (a : BitVec 7) (b : Opnd)
  | inksig (sw : Bool) (b : Opnd)
  | pref (sw : Bool) (f : Bool) (a : BitVec 7)
  | ldround (sw : Bool) (d : BitVec 7) (b : Opnd)
  | ldroundAcq (sw : Bool) (d : BitVec 7) (b : Opnd)
  | round (sw : Bool) (d : BitVec 7) (b : Opnd)
  | cpy (sw : Bool) (e : Bool) (h : BitVec 4) (a : BitVec 7)
  | cpyt (sw : Bool) (e : Bool) (h : BitVec 4) (a : BitVec 7)
  | snap (sw : Bool) (e : Bool) (h : BitVec 4) (a : BitVec 7)
  | gath (sw : Bool) (e : Bool) (h : BitVec 4) (a : BitVec 7)
  | scatadd (sw : Bool) (e : Bool) (h : BitVec 4) (a : BitVec 7)
  | waitc (sw : Bool) (c : BitVec 2) (b : Opnd)
  | waith (sw : Bool) (h : BitVec 4)
  | testh (sw : Bool) (d : BitVec 7) (h : BitVec 4)
  | cancelh (sw : Bool) (h : BitVec 4)
  | movhToV (sw : Bool) (d : BitVec 7) (h : BitVec 4)
  | movhToH (sw : Bool) (h : BitVec 4) (b : Opnd)
  | rgive (sw : Bool) (r : BitVec 3) (b : Opnd)
  | rtake (sw : Bool) (r : BitVec 3) (b : Opnd)
  | rfree (sw : Bool) (r : BitVec 3) (b : Opnd)
  | emit (sw : Bool) (a : BitVec 7) (b : Opnd)
  | mma (sw : Bool) (e : Bool) (h : BitVec 4) (a : BitVec 7)
  | mmas (sw : Bool) (e : Bool) (h : BitVec 4) (a : BitVec 7)
  | azero (sw : Bool) (e : Bool) (h : BitVec 4) (t : BitVec 3)
  | ald (sw : Bool) (e : Bool) (h : BitVec 4) (a : BitVec 7) (b : Opnd)
  | ast (sw : Bool) (e : Bool) (h : BitVec 4) (a : BitVec 7) (b : Opnd)
  | palres (sw : Bool) (r : BitVec 6) (a : BitVec 7)
  | palrel (sw : Bool) (r : BitVec 6)
  | mgld (sw : Bool) (e : Bool) (h : BitVec 4) (a : BitVec 7) (b : Opnd)
  | kstore (sw : Bool) (e : Bool) (h : BitVec 4) (a : BitVec 7)
  | lgather (sw : Bool) (e : Bool) (h : BitVec 4) (a : BitVec 7)
  | lgsig (sw : Bool) (e : Bool) (h : BitVec 4) (a : BitVec 7)
  | lgproj (sw : Bool) (e : Bool) (h : BitVec 4) (a : BitVec 7) (b : Opnd)
  | lgpool (sw : Bool) (e : Bool) (h : BitVec 4) (a : BitVec 7)
  | lgcfg (sw : Bool) (a : BitVec 7) (b : Opnd)
  | lgclr (sw : Bool) (b : Opnd)
  | lgstat (sw : Bool) (d : BitVec 7) (b : Opnd)
  | movi (sw : Bool) (d : BitVec 7) (i : BitVec 18)
  | lea (sw : Bool) (d : BitVec 7) (i : BitVec 18)
  | pre (sw : Bool) (m : BitVec 3) (z : Bool) (r : BitVec 3) (f : Bool) (b : BitVec 8)
  | live (sw : Bool) (l : BitVec 7) (h : BitVec 7)
  | yield (sw : Bool) (n : BitVec 8)
  | off (sw : Bool) (o : BitVec 22)
  | scope (sw : Bool) (c : BitVec 3)
  | longResultReturn (team tid id : Nat)
  | shortInterlockEnd (team tid : Nat)
  | pageWalk (core ctx : Nat) (va : Word)
  | faultRecordPost (ctx : Nat)
  | frespResolve (ctx id : Nat)
  | frespRefuse (ctx id : Nat)
  | shootdown (ctx : Nat) (v : Word)
  | shootdownComplete (ctx : Nat)
  | collectorSend (core n : Nat)
  | collectorReply (core n evict : Nat)
  | homeAccess (n : Nat)
  | promote (core : Nat)
  | carveOutComplete
  | inkTicket (team tid : Nat)
  | inkGrant (team tid : Nat)
  | inkRelease (team tid : Nat)
  | inkTimeout (team tid : Nat)
  | inkwaitWake (team tid : Nat)
  | beacon (die ctx rgn : Nat)
  | roundWake (core : Nat)
  | roundTmo (team tid : Nat)
  | watchdog (core nib : Nat)
  | yieldHoldEnd (team tid : Nat)
  | sleepEnd (team tid : Nat)
  | quireForm (core : Nat)
  | quirePartialRelease (core : Nat)
  | collTimeout (team group csn : Nat)
  | copyRun (core seq : Nat)
  | snapCopy (core seq : Nat)
  | gatherRun (core seq : Nat)
  | scataddAppendRun (core seq : Nat)
  | scataddDrainRun (core seq : Nat)
  | mmaRun (core steps : Nat)
  | mmaStop (core : Nat)
  | tileCommandRun (core : Nat)
  | leaveGrant (die : Nat)
  | kstoreRun (core seq : Nat)
  | lgatherRun (core seq : Nat)
  | lgsigRun (core seq : Nat)
  | lgprojRun (core seq : Nat)
  | lgpoolRun (core seq : Nat)
  | eventRecordPost (ctx : Nat)
  | lqtailWrite (ctx q : Nat) (v : Word)
  | launchRecordFetch (ctx q : Nat)
  | teamPlacement (launch die row col : Nat)
  | gangAged (launch : Nat)
  | nodeLaunch (ctx node : Nat)
  | coalesceTimeout (ctx node : Nat)
  | launchComplete (launch : Nat)
  | sliceExpiry (core : Nat)
  | contextSwap (core : Nat)
  | spillRestore (core block : Nat)
  | shadowEvict (core : Nat)
  | trapEntry (team slot : Nat)
  | timer (team : Nat)
  | ckreq (ctx : Nat) (v : Word)
  | ckpt (team : Nat)
  | halt (ctx : Nat) (v : Word)
  | haltRecord (ctx : Nat)
  | resume (ctx : Nat) (v : Word)
  | debugGrant (ctx : Nat)
  | debugRevoke (ctx : Nat)
  | editApply (ctx : Nat)
  | breakpointMatch (team slot : Nat)
  | sampleRecord (core : Nat)
  | hostMemRead (pa len : Nat)
  | hostMemWrite (pa : Nat) (bytes : List Byte)
  | wellApertureAccess (off : Nat) (wr : Bool) (v : Word)
  | peerRequest (peer pa : Nat) (wr : Bool) (v : Word)
  | linkDown (link : Nat)
  | moduleReset
  | bringUp (fail : Nat) (code : BitVec 8)
  | registerWrite (off : Nat) (v : Word)
  | contextBecomesResident (core ctx : Nat)
  | instructionFetch (team tid : Nat)
  | softError (unit addr : Nat) (hard : Bool)
  deriving DecidableEq, Repr

end Sys2Proof
end

