-- ==== Sys2Proof/Decode.lean ====
section
/-! DEFINITION. The decoder of instruction words (R176 to R182, R202, R203), total on any bytes, and the
encoder written from the same tables. A word is identified by its fixed bits; a field keeps whatever code stands in
it, and WellFormed.lean says which codes the form allows. -/

namespace Sys2Proof

/-- Why bytes do not decode (R178): an unassigned op, an x-code the op does not list, a nonzero field the form does
not use, or fewer bytes than the instruction and its literal words take (`short` says how many words are missing). -/
inductive DecodeError where
  | unassignedOp | unassignedX | reservedField | short (words : Nat)
  deriving DecidableEq, Repr

/-- `len` bits of a word from bit `lo` up. -/
def W32.bits (w : W32) (lo len : Nat) : BitVec len := BitVec.extractLsb' lo len w

/-- One bit of a word. -/
def W32.flag (w : W32) (i : Nat) : Bool := w.bits i 1 == 1#1

/-- W codes of R201. -/
def W.ofBits (b : BitVec 2) : W :=
  if b = 0#2 then .w8 else if b = 1#2 then .w16 else if b = 2#2 then .w32 else .w64

/-- The code of a W. -/
def W.toBits : W → BitVec 2
  | .w8 => 0#2 | .w16 => 1#2 | .w32 => 2#2 | .w64 => 3#2

/-- IT codes of R201. -/
def IT.ofBits (b : BitVec 3) : IT :=
  if b = 0#3 then .n8 else if b = 1#3 then .n16 else if b = 2#3 then .n32 else if b = 3#3 then .n64
  else if b = 4#3 then .i8 else if b = 5#3 then .i16 else if b = 6#3 then .i32 else .i64

/-- The code of an IT. -/
def IT.toBits : IT → BitVec 3
  | .n8 => 0#3 | .n16 => 1#3 | .n32 => 2#3 | .n64 => 3#3
  | .i8 => 4#3 | .i16 => 5#3 | .i32 => 6#3 | .i64 => 7#3

/-- FT codes of R201; 3 is no type. -/
def FT.ofBits (b : BitVec 2) : FT :=
  if b = 0#2 then .f32 else if b = 1#2 then .f16 else if b = 2#2 then .bf16 else .rsv

/-- The code of an FT. -/
def FT.toBits : FT → BitVec 2
  | .f32 => 0#2 | .f16 => 1#2 | .bf16 => 2#2 | .rsv => 3#2

/-- The bit of a Bool. -/
def bitOf (b : Bool) : BitVec 1 := if b then 1#1 else 0#1

/-- The operand of a code and the words after its own (R179, R181). -/
def Opnd.read (k : BitVec 8) (ws : List W32) : Except DecodeError (Opnd × List W32) :=
  if k.extractLsb' 7 1 = 0#1 then .ok (.v (k.extractLsb' 0 7), ws)
  else if k.extractLsb' 6 2 = 2#2 then .ok (.c (k.extractLsb' 0 6), ws)
  else if k.extractLsb' 5 3 = 6#3 then .ok (.imm (k.extractLsb' 0 5), ws)
  else if k = 0xE0#8 then
    match ws with
    | x :: ws => .ok (.lit32 x, ws)
    | [] => .error (.short 1)
  else if k = 0xE1#8 then
    match ws with
    | lo :: hi :: ws => .ok (.lit64 (hi ++ lo), ws)
    | [_] => .error (.short 1)
    | [] => .error (.short 2)
  else if k = 0xE2#8 then .ok (.lane, ws)
  else if k = 0xE3#8 then .ok (.tid, ws)
  else if k = 0xE4#8 then .ok (.zero, ws)
  else if k = 0xE5#8 then .ok (.grp, ws)
  else .ok (.rsv k, ws)

/-- The code of an operand (R179). -/
def Opnd.code : Opnd → BitVec 8
  | .v r => 0#1 ++ r
  | .c r => 2#2 ++ r
  | .imm i => 6#3 ++ i
  | .lit32 _ => 0xE0#8
  | .lit64 _ => 0xE1#8
  | .lane => 0xE2#8
  | .tid => 0xE3#8
  | .zero => 0xE4#8
  | .grp => 0xE5#8
  | .rsv k => k

/-- The literal words of an operand, low half first (R181). -/
def Opnd.literals : Opnd → List W32
  | .lit32 x => [x]
  | .lit64 x => [x.extractLsb' 0 32, x.extractLsb' 32 32]
  | _ => []

/-- The codes `rsv` stands for: the ones R179 gives no operand. -/
def Opnd.canonical : Opnd → Bool
  | .rsv k => 0xE6 ≤ k.toNat
  | _ => true

/-- An instruction with no operand b. -/
def plainWord (ws : List W32) (zero : Bool) (i : Instr) : Except DecodeError (Instr × List W32) :=
  if zero then .ok (i, ws) else .error .reservedField

/-- An instruction with an operand b: its literal words follow the word (R181). -/
def opndWord (w : W32) (ws : List W32) (zero : Bool) (f : Opnd → Instr) : Except DecodeError (Instr × List W32) :=
  if zero then
    match Opnd.read (w.bits 0 8) ws with
    | .ok (b, ws) => .ok (f b, ws)
    | .error e => .error e
  else .error .reservedField

/-- Op 0x01 (R202). -/
def decodeOp01 (w : W32) (ws : List W32) : Except DecodeError (Instr × List W32) :=
  plainWord ws (true) (Instr.br (w.flag 31) (w.bits 22 3) (w.flag 21) (w.bits 0 21))

/-- Op 0x02 (R202). -/
def decodeOp02 (w : W32) (ws : List W32) : Except DecodeError (Instr × List W32) :=
  plainWord ws (true) (Instr.brs (w.flag 31) (w.bits 22 3) (w.flag 21) (w.bits 0 21))

/-- Op 0x03 (R202). -/
def decodeOp03 (w : W32) (ws : List W32) : Except DecodeError (Instr × List W32) :=
  plainWord ws (true) (Instr.jmp (w.flag 31) (w.bits 0 25))

/-- Op 0x04 (R202). -/
def decodeOp04 (w : W32) (ws : List W32) : Except DecodeError (Instr × List W32) :=
  plainWord ws (true) (Instr.call (w.flag 31) (w.bits 0 25))

/-- Op 0x05 (R202). -/
def decodeOp05 (w : W32) (ws : List W32) : Except DecodeError (Instr × List W32) :=
  if w.bits 22 3 = 0#3 then
    plainWord ws (w.bits 15 7 == 0#7 && w.bits 0 8 == 0#8) (Instr.jmpr (w.flag 31) (w.bits 8 7))
  else if w.bits 22 3 = 1#3 then
    plainWord ws (w.bits 15 7 == 0#7 && w.bits 0 8 == 0#8) (Instr.callr (w.flag 31) (w.bits 8 7))
  else if w.bits 22 3 = 2#3 then
    plainWord ws (w.bits 0 22 == 0#22) (Instr.ret (w.flag 31))
  else if w.bits 22 3 = 3#3 then
    plainWord ws (w.bits 0 22 == 0#22) (Instr.exit (w.flag 31))
  else if w.bits 22 3 = 4#3 then
    opndWord w ws (w.bits 8 14 == 0#14) (fun b => Instr.trap (w.flag 31) b)
  else if w.bits 22 3 = 5#3 then
    plainWord ws (w.bits 0 22 == 0#22) (Instr.rtt (w.flag 31))
  else if w.bits 22 3 = 6#3 then
    plainWord ws (w.bits 0 22 == 0#22) (Instr.bkpt (w.flag 31))
  else .error .unassignedX

/-- Op 0x06 (R202). -/
def decodeOp06 (w : W32) (ws : List W32) : Except DecodeError (Instr × List W32) :=
  if w.bits 22 3 = 0#3 then
    plainWord ws (w.bits 19 3 == 0#3 && w.bits 0 15 == 0#15) (Instr.bar (w.flag 31) (w.bits 15 4))
  else if w.bits 22 3 = 1#3 then
    plainWord ws (w.bits 17 5 == 0#5 && w.bits 0 15 == 0#15) (Instr.cbar (w.flag 31) (w.bits 15 2))
  else if w.bits 22 3 = 2#3 then
    opndWord w ws (w.bits 8 14 == 0#14) (fun b => Instr.sleep (w.flag 31) b)
  else if w.bits 22 3 = 3#3 then
    plainWord ws (w.bits 0 22 == 0#22) (Instr.nop (w.flag 31))
  else .error .unassignedX

/-- Op 0x07 (R202). -/
def decodeOp07 (w : W32) (ws : List W32) : Except DecodeError (Instr × List W32) :=
  if w.bits 22 3 = 0#3 then
    plainWord ws (w.bits 0 8 == 0#8) (Instr.mfs (w.flag 31) (w.bits 15 7) (w.bits 8 7))
  else if w.bits 22 3 = 1#3 then
    opndWord w ws (w.bits 8 7 == 0#7) (fun b => Instr.mts (w.flag 31) (w.bits 15 7) b)
  else if w.bits 22 3 = 2#3 then
    plainWord ws (w.bits 0 15 == 0#15) (Instr.rdfpf (w.flag 31) (w.bits 15 7))
  else if w.bits 22 3 = 3#3 then
    opndWord w ws (w.bits 8 14 == 0#14) (fun b => Instr.clfpf (w.flag 31) b)
  else .error .unassignedX

/-- Op 0x08 (R202). -/
def decodeOp08 (w : W32) (ws : List W32) : Except DecodeError (Instr × List W32) :=
  if w.bits 24 1 = 0#1 then
    opndWord w ws (true) (fun b => Instr.add (w.flag 31) (W.ofBits (w.bits 22 2)) (w.bits 15 7) (w.bits 8 7) b)
  else if w.bits 24 1 = 1#1 then
    opndWord w ws (true) (fun b => Instr.sub (w.flag 31) (W.ofBits (w.bits 22 2)) (w.bits 15 7) (w.bits 8 7) b)
  else .error .unassignedX

/-- Op 0x09 (R202). -/
def decodeOp09 (w : W32) (ws : List W32) : Except DecodeError (Instr × List W32) :=
  opndWord w ws (true) (fun b => Instr.addSat (w.flag 31) (IT.ofBits (w.bits 22 3)) (w.bits 15 7) (w.bits 8 7) b)

/-- Op 0x0A (R202). -/
def decodeOp0A (w : W32) (ws : List W32) : Except DecodeError (Instr × List W32) :=
  opndWord w ws (true) (fun b => Instr.subSat (w.flag 31) (IT.ofBits (w.bits 22 3)) (w.bits 15 7) (w.bits 8 7) b)

/-- Op 0x0B (R202). -/
def decodeOp0B (w : W32) (ws : List W32) : Except DecodeError (Instr × List W32) :=
  if w.bits 24 1 = 0#1 then
    opndWord w ws (true) (fun b => Instr.mul (w.flag 31) (W.ofBits (w.bits 22 2)) (w.bits 15 7) (w.bits 8 7) b)
  else if w.bits 24 1 = 1#1 then
    opndWord w ws (true) (fun b => Instr.mad (w.flag 31) (W.ofBits (w.bits 22 2)) (w.bits 15 7) (w.bits 8 7) b)
  else .error .unassignedX

/-- Op 0x0C (R202). -/
def decodeOp0C (w : W32) (ws : List W32) : Except DecodeError (Instr × List W32) :=
  opndWord w ws (true) (fun b => Instr.mulh (w.flag 31) (IT.ofBits (w.bits 22 3)) (w.bits 15 7) (w.bits 8 7) b)

/-- Op 0x0D (R202). -/
def decodeOp0D (w : W32) (ws : List W32) : Except DecodeError (Instr × List W32) :=
  if w.bits 24 1 = 0#1 then
    opndWord w ws (true) (fun b => Instr.div (w.flag 31) (w.bits 22 2) (w.bits 15 7) (w.bits 8 7) b)
  else if w.bits 24 1 = 1#1 then
    opndWord w ws (true) (fun b => Instr.rem (w.flag 31) (w.bits 22 2) (w.bits 15 7) (w.bits 8 7) b)
  else .error .unassignedX

/-- Op 0x0E (R202). -/
def decodeOp0E (w : W32) (ws : List W32) : Except DecodeError (Instr × List W32) :=
  if w.bits 22 3 = 0#3 then
    opndWord w ws (true) (fun b => Instr.and (w.flag 31) (w.bits 15 7) (w.bits 8 7) b)
  else if w.bits 22 3 = 1#3 then
    opndWord w ws (true) (fun b => Instr.or (w.flag 31) (w.bits 15 7) (w.bits 8 7) b)
  else if w.bits 22 3 = 2#3 then
    opndWord w ws (true) (fun b => Instr.xor (w.flag 31) (w.bits 15 7) (w.bits 8 7) b)
  else if w.bits 22 3 = 3#3 then
    opndWord w ws (true) (fun b => Instr.andn (w.flag 31) (w.bits 15 7) (w.bits 8 7) b)
  else if w.bits 22 3 = 4#3 then
    opndWord w ws (true) (fun b => Instr.orn (w.flag 31) (w.bits 15 7) (w.bits 8 7) b)
  else if w.bits 22 3 = 5#3 then
    opndWord w ws (true) (fun b => Instr.xnor (w.flag 31) (w.bits 15 7) (w.bits 8 7) b)
  else if w.bits 22 3 = 6#3 then
    opndWord w ws (w.bits 8 7 == 0#7) (fun b => Instr.not (w.flag 31) (w.bits 15 7) b)
  else if w.bits 22 3 = 7#3 then
    opndWord w ws (w.bits 8 7 == 0#7) (fun b => Instr.mov (w.flag 31) (w.bits 15 7) b)
  else .error .unassignedX

/-- Op 0x0F (R202). -/
def decodeOp0F (w : W32) (ws : List W32) : Except DecodeError (Instr × List W32) :=
  if w.bits 24 1 = 0#1 then
    opndWord w ws (true) (fun b => Instr.shl (w.flag 31) (W.ofBits (w.bits 22 2)) (w.bits 15 7) (w.bits 8 7) b)
  else if w.bits 24 1 = 1#1 then
    opndWord w ws (true) (fun b => Instr.shr (w.flag 31) (W.ofBits (w.bits 22 2)) (w.bits 15 7) (w.bits 8 7) b)
  else .error .unassignedX

/-- Op 0x10 (R202). -/
def decodeOp10 (w : W32) (ws : List W32) : Except DecodeError (Instr × List W32) :=
  if w.bits 24 1 = 0#1 then
    opndWord w ws (true) (fun b => Instr.sar (w.flag 31) (W.ofBits (w.bits 22 2)) (w.bits 15 7) (w.bits 8 7) b)
  else if w.bits 24 1 = 1#1 then
    opndWord w ws (true) (fun b => Instr.rol (w.flag 31) (W.ofBits (w.bits 22 2)) (w.bits 15 7) (w.bits 8 7) b)
  else .error .unassignedX

/-- Op 0x11 (R202). -/
def decodeOp11 (w : W32) (ws : List W32) : Except DecodeError (Instr × List W32) :=
  opndWord w ws (true) (fun b => Instr.min (w.flag 31) (IT.ofBits (w.bits 22 3)) (w.bits 15 7) (w.bits 8 7) b)

/-- Op 0x12 (R202). -/
def decodeOp12 (w : W32) (ws : List W32) : Except DecodeError (Instr × List W32) :=
  opndWord w ws (true) (fun b => Instr.max (w.flag 31) (IT.ofBits (w.bits 22 3)) (w.bits 15 7) (w.bits 8 7) b)

/-- Op 0x13 (R202). -/
def decodeOp13 (w : W32) (ws : List W32) : Except DecodeError (Instr × List W32) :=
  opndWord w ws (w.bits 21 1 == 0#1) (fun b => Instr.cmp (w.flag 31) (IT.ofBits (w.bits 22 3)) (w.bits 18 3) (w.bits 15 3) (w.bits 8 7) b)

/-- Op 0x14 (R202). -/
def decodeOp14 (w : W32) (ws : List W32) : Except DecodeError (Instr × List W32) :=
  if w.bits 22 3 = 0#3 then
    opndWord w ws (w.bits 11 4 == 0#4) (fun b => Instr.abs (w.flag 31) (w.bits 15 7) (IT.ofBits (w.bits 8 3)) b)
  else if w.bits 22 3 = 1#3 then
    opndWord w ws (w.bits 11 4 == 0#4) (fun b => Instr.neg (w.flag 31) (w.bits 15 7) (IT.ofBits (w.bits 8 3)) b)
  else if w.bits 22 3 = 2#3 then
    opndWord w ws (w.bits 11 4 == 0#4) (fun b => Instr.clz (w.flag 31) (w.bits 15 7) (IT.ofBits (w.bits 8 3)) b)
  else if w.bits 22 3 = 3#3 then
    opndWord w ws (w.bits 11 4 == 0#4) (fun b => Instr.popc (w.flag 31) (w.bits 15 7) (IT.ofBits (w.bits 8 3)) b)
  else if w.bits 22 3 = 4#3 then
    opndWord w ws (true) (fun b => Instr.cvtInt (w.flag 31) (w.bits 15 7) (w.flag 14) (IT.ofBits (w.bits 11 3)) (IT.ofBits (w.bits 8 3)) b)
  else .error .unassignedX

/-- Op 0x15 (R202). -/
def decodeOp15 (w : W32) (ws : List W32) : Except DecodeError (Instr × List W32) :=
  opndWord w ws (true) (fun b => Instr.sel (w.flag 31) (w.bits 22 3) (w.bits 15 7) (w.bits 8 7) b)

/-- Op 0x16 (R202). -/
def decodeOp16 (w : W32) (ws : List W32) : Except DecodeError (Instr × List W32) :=
  if w.bits 22 3 = 0#3 then
    opndWord w ws (true) (fun b => Instr.bfe (w.flag 31) (w.bits 15 7) (w.bits 8 7) b)
  else if w.bits 22 3 = 1#3 then
    opndWord w ws (true) (fun b => Instr.bfeI (w.flag 31) (w.bits 15 7) (w.bits 8 7) b)
  else if w.bits 22 3 = 2#3 then
    opndWord w ws (true) (fun b => Instr.bfi (w.flag 31) (w.bits 15 7) (w.bits 8 7) b)
  else .error .unassignedX

/-- Op 0x17 (R202). -/
def decodeOp17 (w : W32) (ws : List W32) : Except DecodeError (Instr × List W32) :=
  if w.bits 22 3 = 0#3 then
    opndWord w ws (w.bits 21 1 == 0#1 && w.bits 8 7 == 0#7) (fun b => Instr.setc (w.flag 31) (w.bits 15 6) b)
  else if w.bits 22 3 = 1#3 then
    plainWord ws (w.bits 11 4 == 0#4 && w.bits 0 8 == 0#8) (Instr.movk (w.flag 31) (w.bits 15 7) (w.bits 8 3))
  else if w.bits 22 3 = 2#3 then
    plainWord ws (w.bits 11 4 == 0#4 && w.bits 0 8 == 0#8) (Instr.movm (w.flag 31) (w.bits 15 7) (w.bits 8 3))
  else if w.bits 22 3 = 3#3 then
    opndWord w ws (w.bits 18 4 == 0#4 && w.bits 8 7 == 0#7) (fun b => Instr.setm (w.flag 31) (w.bits 15 3) b)
  else if w.bits 22 3 = 4#3 then
    plainWord ws (w.bits 11 4 == 0#4 && w.bits 0 8 == 0#8) (Instr.movq (w.flag 31) (w.bits 15 7) (w.bits 8 3))
  else if w.bits 22 3 = 5#3 then
    opndWord w ws (w.bits 18 4 == 0#4 && w.bits 8 7 == 0#7) (fun b => Instr.setq (w.flag 31) (w.bits 15 3) b)
  else .error .unassignedX

/-- Op 0x18 (R202). -/
def decodeOp18 (w : W32) (ws : List W32) : Except DecodeError (Instr × List W32) :=
  if w.bits 24 1 = 0#1 then
    opndWord w ws (true) (fun b => Instr.shuf (w.flag 31) (W.ofBits (w.bits 22 2)) (w.bits 15 7) (w.bits 8 7) b)
  else .error .unassignedX

/-- Op 0x19 (R202). -/
def decodeOp19 (w : W32) (ws : List W32) : Except DecodeError (Instr × List W32) :=
  if w.bits 22 3 = 0#3 then
    opndWord w ws (w.bits 8 7 == 0#7) (fun b => Instr.voteAny (w.flag 31) (w.bits 15 7) b)
  else if w.bits 22 3 = 1#3 then
    opndWord w ws (w.bits 8 7 == 0#7) (fun b => Instr.voteAll (w.flag 31) (w.bits 15 7) b)
  else if w.bits 22 3 = 2#3 then
    opndWord w ws (w.bits 8 7 == 0#7) (fun b => Instr.voteBallot (w.flag 31) (w.bits 15 7) b)
  else if w.bits 22 3 = 3#3 then
    plainWord ws (w.bits 0 15 == 0#15) (Instr.elect (w.flag 31) (w.bits 15 7))
  else if w.bits 22 3 = 4#3 then
    opndWord w ws (w.bits 8 7 == 0#7) (fun b => Instr.matchAny (w.flag 31) (w.bits 15 7) b)
  else .error .unassignedX

/-- Op 0x1A (R202). -/
def decodeOp1A (w : W32) (ws : List W32) : Except DecodeError (Instr × List W32) :=
  if w.bits 22 3 = 0#3 then
    opndWord w ws (true) (fun b => Instr.redux (w.flag 31) (w.bits 15 7) (w.bits 12 3) (w.bits 8 4) b)
  else if w.bits 22 3 = 1#3 then
    opndWord w ws (true) (fun b => Instr.scanIncl (w.flag 31) (w.bits 15 7) (w.bits 12 3) (w.bits 8 4) b)
  else if w.bits 22 3 = 2#3 then
    opndWord w ws (true) (fun b => Instr.scanExcl (w.flag 31) (w.bits 15 7) (w.bits 12 3) (w.bits 8 4) b)
  else .error .unassignedX

/-- Op 0x1B (R202). -/
def decodeOp1B (w : W32) (ws : List W32) : Except DecodeError (Instr × List W32) :=
  if w.bits 22 3 = 0#3 then
    opndWord w ws (w.bits 14 1 == 0#1) (fun b => Instr.pack6 (w.flag 31) (w.bits 15 7) (w.flag 13) (w.bits 8 5) b)
  else if w.bits 22 3 = 1#3 then
    opndWord w ws (w.bits 13 2 == 0#2) (fun b => Instr.unpack6 (w.flag 31) (w.bits 15 7) (w.bits 8 5) b)
  else .error .unassignedX

/-- Op 0x1C (R202). -/
def decodeOp1C (w : W32) (ws : List W32) : Except DecodeError (Instr × List W32) :=
  if w.bits 24 1 = 0#1 then
    opndWord w ws (true) (fun b => Instr.addF (w.flag 31) (FT.ofBits (w.bits 22 2)) (w.bits 15 7) (w.bits 8 7) b)
  else if w.bits 24 1 = 1#1 then
    opndWord w ws (true) (fun b => Instr.subF (w.flag 31) (FT.ofBits (w.bits 22 2)) (w.bits 15 7) (w.bits 8 7) b)
  else .error .unassignedX

/-- Op 0x1D (R202). -/
def decodeOp1D (w : W32) (ws : List W32) : Except DecodeError (Instr × List W32) :=
  if w.bits 24 1 = 0#1 then
    opndWord w ws (true) (fun b => Instr.mulF (w.flag 31) (FT.ofBits (w.bits 22 2)) (w.bits 15 7) (w.bits 8 7) b)
  else if w.bits 24 1 = 1#1 then
    opndWord w ws (true) (fun b => Instr.scale (w.flag 31) (FT.ofBits (w.bits 22 2)) (w.bits 15 7) (w.bits 8 7) b)
  else .error .unassignedX

/-- Op 0x1E (R202). -/
def decodeOp1E (w : W32) (ws : List W32) : Except DecodeError (Instr × List W32) :=
  if w.bits 24 1 = 0#1 then
    opndWord w ws (true) (fun b => Instr.fma (w.flag 31) (FT.ofBits (w.bits 22 2)) (w.bits 15 7) (w.bits 8 7) b)
  else if w.bits 24 1 = 1#1 then
    opndWord w ws (true) (fun b => Instr.fms (w.flag 31) (FT.ofBits (w.bits 22 2)) (w.bits 15 7) (w.bits 8 7) b)
  else .error .unassignedX

/-- Op 0x1F (R202). -/
def decodeOp1F (w : W32) (ws : List W32) : Except DecodeError (Instr × List W32) :=
  if w.bits 24 1 = 0#1 then
    opndWord w ws (true) (fun b => Instr.minF (w.flag 31) (FT.ofBits (w.bits 22 2)) (w.bits 15 7) (w.bits 8 7) b)
  else if w.bits 24 1 = 1#1 then
    opndWord w ws (true) (fun b => Instr.minnum (w.flag 31) (FT.ofBits (w.bits 22 2)) (w.bits 15 7) (w.bits 8 7) b)
  else .error .unassignedX

/-- Op 0x20 (R202). -/
def decodeOp20 (w : W32) (ws : List W32) : Except DecodeError (Instr × List W32) :=
  if w.bits 24 1 = 0#1 then
    opndWord w ws (true) (fun b => Instr.maxF (w.flag 31) (FT.ofBits (w.bits 22 2)) (w.bits 15 7) (w.bits 8 7) b)
  else if w.bits 24 1 = 1#1 then
    opndWord w ws (true) (fun b => Instr.maxnum (w.flag 31) (FT.ofBits (w.bits 22 2)) (w.bits 15 7) (w.bits 8 7) b)
  else .error .unassignedX

/-- Op 0x21 (R202). -/
def decodeOp21 (w : W32) (ws : List W32) : Except DecodeError (Instr × List W32) :=
  if w.bits 24 1 = 0#1 ∧ w.bits 8 2 = 0#2 then
    opndWord w ws (w.bits 10 5 == 0#5) (fun b => Instr.negF (w.flag 31) (FT.ofBits (w.bits 22 2)) (w.bits 15 7) b)
  else if w.bits 24 1 = 0#1 ∧ w.bits 8 2 = 1#2 then
    opndWord w ws (w.bits 10 5 == 0#5) (fun b => Instr.absF (w.flag 31) (FT.ofBits (w.bits 22 2)) (w.bits 15 7) b)
  else if w.bits 24 1 = 0#1 ∧ w.bits 8 2 = 2#2 then
    opndWord w ws (w.bits 10 5 == 0#5) (fun b => Instr.fclass (w.flag 31) (FT.ofBits (w.bits 22 2)) (w.bits 15 7) b)
  else if w.bits 24 1 = 1#1 then
    opndWord w ws (true) (fun b => Instr.copysign (w.flag 31) (FT.ofBits (w.bits 22 2)) (w.bits 15 7) (w.bits 8 7) b)
  else .error .unassignedX

/-- Op 0x22 (R202). -/
def decodeOp22 (w : W32) (ws : List W32) : Except DecodeError (Instr × List W32) :=
  if w.bits 24 1 = 0#1 then
    opndWord w ws (w.bits 21 1 == 0#1) (fun b => Instr.cmpF (w.flag 31) (FT.ofBits (w.bits 22 2)) (w.bits 18 3) (w.bits 15 3) (w.bits 8 7) b)
  else .error .unassignedX

/-- Op 0x23 (R202). -/
def decodeOp23 (w : W32) (ws : List W32) : Except DecodeError (Instr × List W32) :=
  if w.bits 24 1 = 0#1 then
    opndWord w ws (true) (fun b => Instr.fdot2 (w.flag 31) (FT.ofBits (w.bits 22 2)) (w.bits 15 7) (w.bits 8 7) b)
  else if w.bits 24 1 = 1#1 then
    opndWord w ws (true) (fun b => Instr.fdot4 (w.flag 31) (FT.ofBits (w.bits 22 2)) (w.bits 15 7) (w.bits 8 7) b)
  else .error .unassignedX

/-- Op 0x24 (R202). -/
def decodeOp24 (w : W32) (ws : List W32) : Except DecodeError (Instr × List W32) :=
  if w.bits 24 1 = 0#1 then
    opndWord w ws (w.bits 8 7 == 0#7) (fun b => Instr.rsum (w.flag 31) (FT.ofBits (w.bits 22 2)) (w.bits 15 7) b)
  else if w.bits 24 1 = 1#1 then
    opndWord w ws (w.bits 8 7 == 0#7) (fun b => Instr.rmax (w.flag 31) (FT.ofBits (w.bits 22 2)) (w.bits 15 7) b)
  else .error .unassignedX

/-- Op 0x25 (R202). -/
def decodeOp25 (w : W32) (ws : List W32) : Except DecodeError (Instr × List W32) :=
  if w.bits 22 3 = 0#3 then
    opndWord w ws (w.bits 10 5 == 0#5) (fun b => Instr.rcp (w.flag 31) (w.bits 15 7) (FT.ofBits (w.bits 8 2)) b)
  else if w.bits 22 3 = 1#3 then
    opndWord w ws (w.bits 10 5 == 0#5) (fun b => Instr.rsqrt (w.flag 31) (w.bits 15 7) (FT.ofBits (w.bits 8 2)) b)
  else if w.bits 22 3 = 2#3 then
    opndWord w ws (w.bits 10 5 == 0#5) (fun b => Instr.sqrt (w.flag 31) (w.bits 15 7) (FT.ofBits (w.bits 8 2)) b)
  else if w.bits 22 3 = 3#3 then
    opndWord w ws (w.bits 10 5 == 0#5) (fun b => Instr.exp2 (w.flag 31) (w.bits 15 7) (FT.ofBits (w.bits 8 2)) b)
  else if w.bits 22 3 = 4#3 then
    opndWord w ws (w.bits 10 5 == 0#5) (fun b => Instr.log2 (w.flag 31) (w.bits 15 7) (FT.ofBits (w.bits 8 2)) b)
  else if w.bits 22 3 = 5#3 then
    opndWord w ws (w.bits 10 5 == 0#5) (fun b => Instr.tanh (w.flag 31) (w.bits 15 7) (FT.ofBits (w.bits 8 2)) b)
  else .error .unassignedX

/-- Op 0x26 (R202). -/
def decodeOp26 (w : W32) (ws : List W32) : Except DecodeError (Instr × List W32) :=
  if w.bits 22 3 = 0#3 then
    opndWord w ws (w.bits 12 3 == 0#3) (fun b => Instr.cvtFloatFloat (w.flag 31) (w.bits 15 7) (FT.ofBits (w.bits 10 2)) (FT.ofBits (w.bits 8 2)) b)
  else if w.bits 22 3 = 1#3 then
    opndWord w ws (w.bits 14 1 == 0#1) (fun b => Instr.cvtF32Binary8 (w.flag 31) (w.bits 15 7) (w.flag 13) (w.bits 8 5) b)
  else if w.bits 22 3 = 2#3 then
    opndWord w ws (w.bits 14 1 == 0#1) (fun b => Instr.cvtF16Binary8 (w.flag 31) (w.bits 15 7) (w.flag 13) (w.bits 8 5) b)
  else if w.bits 22 3 = 3#3 then
    opndWord w ws (w.bits 14 1 == 0#1) (fun b => Instr.cvtBf16Binary8 (w.flag 31) (w.bits 15 7) (w.flag 13) (w.bits 8 5) b)
  else if w.bits 22 3 = 4#3 then
    opndWord w ws (w.bits 13 2 == 0#2) (fun b => Instr.cvtBinary8F32 (w.flag 31) (w.bits 15 7) (w.bits 8 5) b)
  else if w.bits 22 3 = 5#3 then
    opndWord w ws (w.bits 13 2 == 0#2) (fun b => Instr.cvtBinary8F16 (w.flag 31) (w.bits 15 7) (w.bits 8 5) b)
  else if w.bits 22 3 = 6#3 then
    opndWord w ws (w.bits 13 2 == 0#2) (fun b => Instr.cvtBinary8Bf16 (w.flag 31) (w.bits 15 7) (w.bits 8 5) b)
  else if w.bits 22 3 = 7#3 then
    opndWord w ws (w.bits 8 3 == 0#3) (fun b => Instr.cvtFloatInteger (w.flag 31) (w.bits 15 7) (w.flag 14) (FT.ofBits (w.bits 12 2)) (w.flag 11) b)
  else .error .unassignedX

/-- Op 0x27 (R202). -/
def decodeOp27 (w : W32) (ws : List W32) : Except DecodeError (Instr × List W32) :=
  if w.bits 24 1 = 0#1 then
    opndWord w ws (true) (fun b => Instr.topk (w.flag 31) (FT.ofBits (w.bits 22 2)) (w.bits 15 7) (w.bits 8 7) b)
  else .error .unassignedX

/-- Op 0x28 (R202). -/
def decodeOp28 (w : W32) (ws : List W32) : Except DecodeError (Instr × List W32) :=
  plainWord ws (true) (Instr.ld (w.flag 31) (IT.ofBits (w.bits 22 3)) (w.bits 15 7) (w.bits 8 7) (w.bits 6 2) (w.bits 3 3) (w.bits 0 3))

/-- Op 0x29 (R202). -/
def decodeOp29 (w : W32) (ws : List W32) : Except DecodeError (Instr × List W32) :=
  plainWord ws (true) (Instr.st (w.flag 31) (IT.ofBits (w.bits 22 3)) (w.bits 15 7) (w.bits 8 7) (w.bits 6 2) (w.bits 3 3) (w.bits 0 3))

/-- Op 0x2A (R202). -/
def decodeOp2A (w : W32) (ws : List W32) : Except DecodeError (Instr × List W32) :=
  plainWord ws (w.bits 3 3 == 0#3) (Instr.ldb (w.flag 31) (IT.ofBits (w.bits 22 3)) (w.bits 15 7) (w.bits 8 7) (w.bits 6 2) (w.bits 0 3))

/-- Op 0x2B (R202). -/
def decodeOp2B (w : W32) (ws : List W32) : Except DecodeError (Instr × List W32) :=
  plainWord ws (true) (Instr.atom (w.flag 31) (IT.ofBits (w.bits 22 3)) (w.bits 15 7) (w.bits 8 7) (w.bits 6 2) (w.bits 3 3) (w.bits 0 3))

/-- Op 0x2C (R202). -/
def decodeOp2C (w : W32) (ws : List W32) : Except DecodeError (Instr × List W32) :=
  plainWord ws (w.bits 0 3 == 0#3) (Instr.cas (w.flag 31) (IT.ofBits (w.bits 22 3)) (w.bits 15 7) (w.bits 8 7) (w.bits 6 2) (w.bits 3 3))

/-- Op 0x2D (R202). -/
def decodeOp2D (w : W32) (ws : List W32) : Except DecodeError (Instr × List W32) :=
  if w.bits 22 3 = 0#3 then
    opndWord w ws (true) (fun b => Instr.wupd (w.flag 31) (w.bits 19 3) (w.bits 15 4) (w.bits 8 7) b)
  else if w.bits 22 3 = 1#3 then
    opndWord w ws (true) (fun b => Instr.wred (w.flag 31) (w.bits 19 3) (w.bits 15 4) (w.bits 8 7) b)
  else .error .unassignedX

/-- Op 0x2E (R202). -/
def decodeOp2E (w : W32) (ws : List W32) : Except DecodeError (Instr × List W32) :=
  if w.bits 22 3 = 0#3 then
    plainWord ws (w.bits 17 5 == 0#5 && w.bits 0 15 == 0#15) (Instr.fence (w.flag 31) (w.bits 15 2))
  else if w.bits 22 3 = 1#3 then
    opndWord w ws (w.bits 15 7 == 0#7) (fun b => Instr.ink (w.flag 31) (w.bits 8 7) b)
  else if w.bits 22 3 = 2#3 then
    plainWord ws (w.bits 0 8 == 0#8) (Instr.inkq (w.flag 31) (w.bits 15 7) (w.bits 8 7))
  else if w.bits 22 3 = 3#3 then
    opndWord w ws (w.bits 15 7 == 0#7) (fun b => Instr.inkwait (w.flag 31) (w.bits 8 7) b)
  else if w.bits 22 3 = 4#3 then
    opndWord w ws (w.bits 8 14 == 0#14) (fun b => Instr.inksig (w.flag 31) b)
  else if w.bits 22 3 = 5#3 then
    plainWord ws (w.bits 16 6 == 0#6 && w.bits 0 8 == 0#8) (Instr.pref (w.flag 31) (w.flag 15) (w.bits 8 7))
  else .error .unassignedX

/-- Op 0x2F (R202). -/
def decodeOp2F (w : W32) (ws : List W32) : Except DecodeError (Instr × List W32) :=
  if w.bits 22 3 = 0#3 then
    opndWord w ws (w.bits 8 7 == 0#7) (fun b => Instr.ldround (w.flag 31) (w.bits 15 7) b)
  else if w.bits 22 3 = 1#3 then
    opndWord w ws (w.bits 8 7 == 0#7) (fun b => Instr.ldroundAcq (w.flag 31) (w.bits 15 7) b)
  else if w.bits 22 3 = 2#3 then
    opndWord w ws (w.bits 8 7 == 0#7) (fun b => Instr.round (w.flag 31) (w.bits 15 7) b)
  else .error .unassignedX

/-- Op 0x30 (R202). -/
def decodeOp30 (w : W32) (ws : List W32) : Except DecodeError (Instr × List W32) :=
  if w.bits 22 3 = 0#3 then
    plainWord ws (w.bits 20 2 == 0#2 && w.bits 0 8 == 0#8) (Instr.cpy (w.flag 31) (w.flag 19) (w.bits 15 4) (w.bits 8 7))
  else if w.bits 22 3 = 1#3 then
    plainWord ws (w.bits 20 2 == 0#2 && w.bits 0 8 == 0#8) (Instr.cpyt (w.flag 31) (w.flag 19) (w.bits 15 4) (w.bits 8 7))
  else if w.bits 22 3 = 2#3 then
    plainWord ws (w.bits 20 2 == 0#2 && w.bits 0 8 == 0#8) (Instr.snap (w.flag 31) (w.flag 19) (w.bits 15 4) (w.bits 8 7))
  else if w.bits 22 3 = 3#3 then
    plainWord ws (w.bits 20 2 == 0#2 && w.bits 0 8 == 0#8) (Instr.gath (w.flag 31) (w.flag 19) (w.bits 15 4) (w.bits 8 7))
  else if w.bits 22 3 = 4#3 then
    plainWord ws (w.bits 20 2 == 0#2 && w.bits 0 8 == 0#8) (Instr.scatadd (w.flag 31) (w.flag 19) (w.bits 15 4) (w.bits 8 7))
  else .error .unassignedX

/-- Op 0x31 (R202). -/
def decodeOp31 (w : W32) (ws : List W32) : Except DecodeError (Instr × List W32) :=
  if w.bits 22 3 = 0#3 then
    opndWord w ws (w.bits 10 12 == 0#12) (fun b => Instr.waitc (w.flag 31) (w.bits 8 2) b)
  else if w.bits 22 3 = 1#3 then
    plainWord ws (w.bits 12 10 == 0#10 && w.bits 0 8 == 0#8) (Instr.waith (w.flag 31) (w.bits 8 4))
  else if w.bits 22 3 = 2#3 then
    plainWord ws (w.bits 12 3 == 0#3 && w.bits 0 8 == 0#8) (Instr.testh (w.flag 31) (w.bits 15 7) (w.bits 8 4))
  else if w.bits 22 3 = 3#3 then
    plainWord ws (w.bits 12 10 == 0#10 && w.bits 0 8 == 0#8) (Instr.cancelh (w.flag 31) (w.bits 8 4))
  else if w.bits 22 3 = 4#3 then
    plainWord ws (w.bits 12 3 == 0#3 && w.bits 0 8 == 0#8) (Instr.movhToV (w.flag 31) (w.bits 15 7) (w.bits 8 4))
  else if w.bits 22 3 = 5#3 then
    opndWord w ws (w.bits 19 3 == 0#3 && w.bits 8 7 == 0#7) (fun b => Instr.movhToH (w.flag 31) (w.bits 15 4) b)
  else .error .unassignedX

/-- Op 0x32 (R202). -/
def decodeOp32 (w : W32) (ws : List W32) : Except DecodeError (Instr × List W32) :=
  if w.bits 22 3 = 0#3 then
    opndWord w ws (w.bits 11 11 == 0#11) (fun b => Instr.rgive (w.flag 31) (w.bits 8 3) b)
  else if w.bits 22 3 = 1#3 then
    opndWord w ws (w.bits 11 11 == 0#11) (fun b => Instr.rtake (w.flag 31) (w.bits 8 3) b)
  else if w.bits 22 3 = 2#3 then
    opndWord w ws (w.bits 11 11 == 0#11) (fun b => Instr.rfree (w.flag 31) (w.bits 8 3) b)
  else .error .unassignedX

/-- Op 0x33 (R202). -/
def decodeOp33 (w : W32) (ws : List W32) : Except DecodeError (Instr × List W32) :=
  if w.bits 22 3 = 0#3 then
    opndWord w ws (w.bits 15 7 == 0#7) (fun b => Instr.emit (w.flag 31) (w.bits 8 7) b)
  else .error .unassignedX

/-- Op 0x36 (R202). -/
def decodeOp36 (w : W32) (ws : List W32) : Except DecodeError (Instr × List W32) :=
  if w.bits 22 3 = 0#3 then
    plainWord ws (w.bits 20 2 == 0#2 && w.bits 0 8 == 0#8) (Instr.mma (w.flag 31) (w.flag 19) (w.bits 15 4) (w.bits 8 7))
  else if w.bits 22 3 = 1#3 then
    plainWord ws (w.bits 20 2 == 0#2 && w.bits 0 8 == 0#8) (Instr.mmas (w.flag 31) (w.flag 19) (w.bits 15 4) (w.bits 8 7))
  else .error .unassignedX

/-- Op 0x37 (R202). -/
def decodeOp37 (w : W32) (ws : List W32) : Except DecodeError (Instr × List W32) :=
  if w.bits 22 3 = 0#3 then
    plainWord ws (w.bits 20 2 == 0#2 && w.bits 11 4 == 0#4 && w.bits 0 8 == 0#8) (Instr.azero (w.flag 31) (w.flag 19) (w.bits 15 4) (w.bits 8 3))
  else if w.bits 22 3 = 1#3 then
    opndWord w ws (w.bits 20 2 == 0#2) (fun b => Instr.ald (w.flag 31) (w.flag 19) (w.bits 15 4) (w.bits 8 7) b)
  else if w.bits 22 3 = 2#3 then
    opndWord w ws (w.bits 20 2 == 0#2) (fun b => Instr.ast (w.flag 31) (w.flag 19) (w.bits 15 4) (w.bits 8 7) b)
  else .error .unassignedX

/-- Op 0x38 (R202). -/
def decodeOp38 (w : W32) (ws : List W32) : Except DecodeError (Instr × List W32) :=
  if w.bits 22 3 = 0#3 then
    plainWord ws (w.bits 21 1 == 0#1 && w.bits 0 8 == 0#8) (Instr.palres (w.flag 31) (w.bits 15 6) (w.bits 8 7))
  else if w.bits 22 3 = 1#3 then
    plainWord ws (w.bits 21 1 == 0#1 && w.bits 0 15 == 0#15) (Instr.palrel (w.flag 31) (w.bits 15 6))
  else if w.bits 22 3 = 2#3 then
    opndWord w ws (w.bits 20 2 == 0#2) (fun b => Instr.mgld (w.flag 31) (w.flag 19) (w.bits 15 4) (w.bits 8 7) b)
  else .error .unassignedX

/-- Op 0x3A (R202). -/
def decodeOp3A (w : W32) (ws : List W32) : Except DecodeError (Instr × List W32) :=
  if w.bits 22 3 = 0#3 then
    plainWord ws (w.bits 20 2 == 0#2 && w.bits 0 8 == 0#8) (Instr.kstore (w.flag 31) (w.flag 19) (w.bits 15 4) (w.bits 8 7))
  else if w.bits 22 3 = 1#3 then
    plainWord ws (w.bits 20 2 == 0#2 && w.bits 0 8 == 0#8) (Instr.lgather (w.flag 31) (w.flag 19) (w.bits 15 4) (w.bits 8 7))
  else if w.bits 22 3 = 2#3 then
    plainWord ws (w.bits 20 2 == 0#2 && w.bits 0 8 == 0#8) (Instr.lgsig (w.flag 31) (w.flag 19) (w.bits 15 4) (w.bits 8 7))
  else if w.bits 22 3 = 3#3 then
    opndWord w ws (w.bits 20 2 == 0#2) (fun b => Instr.lgproj (w.flag 31) (w.flag 19) (w.bits 15 4) (w.bits 8 7) b)
  else if w.bits 22 3 = 4#3 then
    plainWord ws (w.bits 20 2 == 0#2 && w.bits 0 8 == 0#8) (Instr.lgpool (w.flag 31) (w.flag 19) (w.bits 15 4) (w.bits 8 7))
  else .error .unassignedX

/-- Op 0x3B (R202). -/
def decodeOp3B (w : W32) (ws : List W32) : Except DecodeError (Instr × List W32) :=
  if w.bits 22 3 = 0#3 then
    opndWord w ws (w.bits 15 7 == 0#7) (fun b => Instr.lgcfg (w.flag 31) (w.bits 8 7) b)
  else if w.bits 22 3 = 1#3 then
    opndWord w ws (w.bits 8 14 == 0#14) (fun b => Instr.lgclr (w.flag 31) b)
  else if w.bits 22 3 = 2#3 then
    opndWord w ws (w.bits 8 7 == 0#7) (fun b => Instr.lgstat (w.flag 31) (w.bits 15 7) b)
  else .error .unassignedX

/-- Op 0x3C (R202). -/
def decodeOp3C (w : W32) (ws : List W32) : Except DecodeError (Instr × List W32) :=
  plainWord ws (true) (Instr.movi (w.flag 31) (w.bits 18 7) (w.bits 0 18))

/-- Op 0x3D (R202). -/
def decodeOp3D (w : W32) (ws : List W32) : Except DecodeError (Instr × List W32) :=
  plainWord ws (true) (Instr.lea (w.flag 31) (w.bits 18 7) (w.bits 0 18))

/-- Op 0x3E (R202). -/
def decodeOp3E (w : W32) (ws : List W32) : Except DecodeError (Instr × List W32) :=
  if w.bits 22 3 = 0#3 then
    plainWord ws (w.bits 9 6 == 0#6) (Instr.pre (w.flag 31) (w.bits 19 3) (w.flag 18) (w.bits 15 3) (w.flag 8) (w.bits 0 8))
  else if w.bits 22 3 = 1#3 then
    plainWord ws (w.bits 0 8 == 0#8) (Instr.live (w.flag 31) (w.bits 15 7) (w.bits 8 7))
  else if w.bits 22 3 = 2#3 then
    plainWord ws (w.bits 8 14 == 0#14) (Instr.yield (w.flag 31) (w.bits 0 8))
  else if w.bits 22 3 = 3#3 then
    plainWord ws (true) (Instr.off (w.flag 31) (w.bits 0 22))
  else if w.bits 22 3 = 4#3 then
    plainWord ws (w.bits 3 19 == 0#19) (Instr.scope (w.flag 31) (w.bits 0 3))
  else .error .unassignedX

/-- The instruction a word stands for; the words after it give its literals (R176, R181, R202). -/
def decodeWord (w : W32) (ws : List W32) : Except DecodeError (Instr × List W32) :=
  match (w.bits 25 6).toNat with
  | 0x01 => decodeOp01 w ws
  | 0x02 => decodeOp02 w ws
  | 0x03 => decodeOp03 w ws
  | 0x04 => decodeOp04 w ws
  | 0x05 => decodeOp05 w ws
  | 0x06 => decodeOp06 w ws
  | 0x07 => decodeOp07 w ws
  | 0x08 => decodeOp08 w ws
  | 0x09 => decodeOp09 w ws
  | 0x0A => decodeOp0A w ws
  | 0x0B => decodeOp0B w ws
  | 0x0C => decodeOp0C w ws
  | 0x0D => decodeOp0D w ws
  | 0x0E => decodeOp0E w ws
  | 0x0F => decodeOp0F w ws
  | 0x10 => decodeOp10 w ws
  | 0x11 => decodeOp11 w ws
  | 0x12 => decodeOp12 w ws
  | 0x13 => decodeOp13 w ws
  | 0x14 => decodeOp14 w ws
  | 0x15 => decodeOp15 w ws
  | 0x16 => decodeOp16 w ws
  | 0x17 => decodeOp17 w ws
  | 0x18 => decodeOp18 w ws
  | 0x19 => decodeOp19 w ws
  | 0x1A => decodeOp1A w ws
  | 0x1B => decodeOp1B w ws
  | 0x1C => decodeOp1C w ws
  | 0x1D => decodeOp1D w ws
  | 0x1E => decodeOp1E w ws
  | 0x1F => decodeOp1F w ws
  | 0x20 => decodeOp20 w ws
  | 0x21 => decodeOp21 w ws
  | 0x22 => decodeOp22 w ws
  | 0x23 => decodeOp23 w ws
  | 0x24 => decodeOp24 w ws
  | 0x25 => decodeOp25 w ws
  | 0x26 => decodeOp26 w ws
  | 0x27 => decodeOp27 w ws
  | 0x28 => decodeOp28 w ws
  | 0x29 => decodeOp29 w ws
  | 0x2A => decodeOp2A w ws
  | 0x2B => decodeOp2B w ws
  | 0x2C => decodeOp2C w ws
  | 0x2D => decodeOp2D w ws
  | 0x2E => decodeOp2E w ws
  | 0x2F => decodeOp2F w ws
  | 0x30 => decodeOp30 w ws
  | 0x31 => decodeOp31 w ws
  | 0x32 => decodeOp32 w ws
  | 0x33 => decodeOp33 w ws
  | 0x36 => decodeOp36 w ws
  | 0x37 => decodeOp37 w ws
  | 0x38 => decodeOp38 w ws
  | 0x3A => decodeOp3A w ws
  | 0x3B => decodeOp3B w ws
  | 0x3C => decodeOp3C w ws
  | 0x3D => decodeOp3D w ws
  | 0x3E => decodeOp3E w ws
  | _ => .error .unassignedOp

/-- Decoding a stream of words. -/
def decodeWords : List W32 → Except DecodeError (Instr × List W32)
  | [] => .error (.short 1)
  | w :: ws => decodeWord w ws

/-- The word of four bytes, least significant first (R176). -/
def wordOfBytes (b0 b1 b2 b3 : Byte) : W32 := b3 ++ b2 ++ b1 ++ b0

/-- The whole words at the front of a list of bytes. -/
def wordsOfBytes : List Byte → List W32
  | b0 :: b1 :: b2 :: b3 :: bs => wordOfBytes b0 b1 b2 b3 :: wordsOfBytes bs
  | _ => []

/-- The bytes of words as memory holds them (R176). -/
def bytesOfWords : List W32 → List Byte
  | [] => []
  | w :: ws =>
    w.extractLsb' 0 8 :: w.extractLsb' 8 8 :: w.extractLsb' 16 8 :: w.extractLsb' 24 8 :: bytesOfWords ws

/-- Decoding bytes. -/
def decodeBytes (bs : List Byte) : Except DecodeError (Instr × List W32) := decodeWords (wordsOfBytes bs)

/-- The host's probe: a table word, its bits above `nbits` zero, and two literal words of zeros. -/
def decodeTableWord (nbits w : Nat) : Option Instr :=
  match decodeBytes (natToBytes 12 (w % 2 ^ nbits)) with
  | .ok (i, _) => some i
  | .error _ => none

/-- The word of an encoded row, its literal words not included; the machine's own steps have none. -/
def encodeWord : Instr → Option W32
  | .br sw m p o => some ((bitOf sw) ++ 1#6 ++ m ++ (bitOf p) ++ o)
  | .brs sw m p o => some ((bitOf sw) ++ 2#6 ++ m ++ (bitOf p) ++ o)
  | .jmp sw o => some ((bitOf sw) ++ 3#6 ++ o)
  | .call sw o => some ((bitOf sw) ++ 4#6 ++ o)
  | .jmpr sw a => some ((bitOf sw) ++ 5#6 ++ 0#3 ++ 0#7 ++ a ++ 0#8)
  | .callr sw a => some ((bitOf sw) ++ 5#6 ++ 1#3 ++ 0#7 ++ a ++ 0#8)
  | .ret sw => some ((bitOf sw) ++ 5#6 ++ 2#3 ++ 0#22)
  | .exit sw => some ((bitOf sw) ++ 5#6 ++ 3#3 ++ 0#22)
  | .trap sw b => some ((bitOf sw) ++ 5#6 ++ 4#3 ++ 0#14 ++ b.code)
  | .rtt sw => some ((bitOf sw) ++ 5#6 ++ 5#3 ++ 0#22)
  | .bkpt sw => some ((bitOf sw) ++ 5#6 ++ 6#3 ++ 0#22)
  | .bar sw i => some ((bitOf sw) ++ 6#6 ++ 0#3 ++ 0#3 ++ i ++ 0#15)
  | .cbar sw i => some ((bitOf sw) ++ 6#6 ++ 1#3 ++ 0#5 ++ i ++ 0#15)
  | .sleep sw b => some ((bitOf sw) ++ 6#6 ++ 2#3 ++ 0#14 ++ b.code)
  | .nop sw => some ((bitOf sw) ++ 6#6 ++ 3#3 ++ 0#22)
  | .mfs sw d r => some ((bitOf sw) ++ 7#6 ++ 0#3 ++ d ++ r ++ 0#8)
  | .mts sw r b => some ((bitOf sw) ++ 7#6 ++ 1#3 ++ r ++ 0#7 ++ b.code)
  | .rdfpf sw d => some ((bitOf sw) ++ 7#6 ++ 2#3 ++ d ++ 0#15)
  | .clfpf sw b => some ((bitOf sw) ++ 7#6 ++ 3#3 ++ 0#14 ++ b.code)
  | .add sw w d a b => some ((bitOf sw) ++ 8#6 ++ 0#1 ++ w.toBits ++ d ++ a ++ b.code)
  | .sub sw w d a b => some ((bitOf sw) ++ 8#6 ++ 1#1 ++ w.toBits ++ d ++ a ++ b.code)
  | .addSat sw t d a b => some ((bitOf sw) ++ 9#6 ++ t.toBits ++ d ++ a ++ b.code)
  | .subSat sw t d a b => some ((bitOf sw) ++ 10#6 ++ t.toBits ++ d ++ a ++ b.code)
  | .mul sw w d a b => some ((bitOf sw) ++ 11#6 ++ 0#1 ++ w.toBits ++ d ++ a ++ b.code)
  | .mad sw w d a b => some ((bitOf sw) ++ 11#6 ++ 1#1 ++ w.toBits ++ d ++ a ++ b.code)
  | .mulh sw t d a b => some ((bitOf sw) ++ 12#6 ++ t.toBits ++ d ++ a ++ b.code)
  | .div sw t d a b => some ((bitOf sw) ++ 13#6 ++ 0#1 ++ t ++ d ++ a ++ b.code)
  | .rem sw t d a b => some ((bitOf sw) ++ 13#6 ++ 1#1 ++ t ++ d ++ a ++ b.code)
  | .and sw d a b => some ((bitOf sw) ++ 14#6 ++ 0#3 ++ d ++ a ++ b.code)
  | .or sw d a b => some ((bitOf sw) ++ 14#6 ++ 1#3 ++ d ++ a ++ b.code)
  | .xor sw d a b => some ((bitOf sw) ++ 14#6 ++ 2#3 ++ d ++ a ++ b.code)
  | .andn sw d a b => some ((bitOf sw) ++ 14#6 ++ 3#3 ++ d ++ a ++ b.code)
  | .orn sw d a b => some ((bitOf sw) ++ 14#6 ++ 4#3 ++ d ++ a ++ b.code)
  | .xnor sw d a b => some ((bitOf sw) ++ 14#6 ++ 5#3 ++ d ++ a ++ b.code)
  | .not sw d b => some ((bitOf sw) ++ 14#6 ++ 6#3 ++ d ++ 0#7 ++ b.code)
  | .mov sw d b => some ((bitOf sw) ++ 14#6 ++ 7#3 ++ d ++ 0#7 ++ b.code)
  | .shl sw w d a b => some ((bitOf sw) ++ 15#6 ++ 0#1 ++ w.toBits ++ d ++ a ++ b.code)
  | .shr sw w d a b => some ((bitOf sw) ++ 15#6 ++ 1#1 ++ w.toBits ++ d ++ a ++ b.code)
  | .sar sw w d a b => some ((bitOf sw) ++ 16#6 ++ 0#1 ++ w.toBits ++ d ++ a ++ b.code)
  | .rol sw w d a b => some ((bitOf sw) ++ 16#6 ++ 1#1 ++ w.toBits ++ d ++ a ++ b.code)
  | .min sw t d a b => some ((bitOf sw) ++ 17#6 ++ t.toBits ++ d ++ a ++ b.code)
  | .max sw t d a b => some ((bitOf sw) ++ 18#6 ++ t.toBits ++ d ++ a ++ b.code)
  | .cmp sw t c m a b => some ((bitOf sw) ++ 19#6 ++ t.toBits ++ 0#1 ++ c ++ m ++ a ++ b.code)
  | .abs sw d t b => some ((bitOf sw) ++ 20#6 ++ 0#3 ++ d ++ 0#4 ++ t.toBits ++ b.code)
  | .neg sw d t b => some ((bitOf sw) ++ 20#6 ++ 1#3 ++ d ++ 0#4 ++ t.toBits ++ b.code)
  | .clz sw d t b => some ((bitOf sw) ++ 20#6 ++ 2#3 ++ d ++ 0#4 ++ t.toBits ++ b.code)
  | .popc sw d t b => some ((bitOf sw) ++ 20#6 ++ 3#3 ++ d ++ 0#4 ++ t.toBits ++ b.code)
  | .cvtInt sw d u y z b => some ((bitOf sw) ++ 20#6 ++ 4#3 ++ d ++ (bitOf u) ++ y.toBits ++ z.toBits ++ b.code)
  | .sel sw m d a b => some ((bitOf sw) ++ 21#6 ++ m ++ d ++ a ++ b.code)
  | .bfe sw d a b => some ((bitOf sw) ++ 22#6 ++ 0#3 ++ d ++ a ++ b.code)
  | .bfeI sw d a b => some ((bitOf sw) ++ 22#6 ++ 1#3 ++ d ++ a ++ b.code)
  | .bfi sw d a b => some ((bitOf sw) ++ 22#6 ++ 2#3 ++ d ++ a ++ b.code)
  | .setc sw c b => some ((bitOf sw) ++ 23#6 ++ 0#3 ++ 0#1 ++ c ++ 0#7 ++ b.code)
  | .movk sw d k => some ((bitOf sw) ++ 23#6 ++ 1#3 ++ d ++ 0#4 ++ k ++ 0#8)
  | .movm sw d m => some ((bitOf sw) ++ 23#6 ++ 2#3 ++ d ++ 0#4 ++ m ++ 0#8)
  | .setm sw m b => some ((bitOf sw) ++ 23#6 ++ 3#3 ++ 0#4 ++ m ++ 0#7 ++ b.code)
  | .movq sw d q => some ((bitOf sw) ++ 23#6 ++ 4#3 ++ d ++ 0#4 ++ q ++ 0#8)
  | .setq sw q b => some ((bitOf sw) ++ 23#6 ++ 5#3 ++ 0#4 ++ q ++ 0#7 ++ b.code)
  | .shuf sw w d a b => some ((bitOf sw) ++ 24#6 ++ 0#1 ++ w.toBits ++ d ++ a ++ b.code)
  | .voteAny sw d b => some ((bitOf sw) ++ 25#6 ++ 0#3 ++ d ++ 0#7 ++ b.code)
  | .voteAll sw d b => some ((bitOf sw) ++ 25#6 ++ 1#3 ++ d ++ 0#7 ++ b.code)
  | .voteBallot sw d b => some ((bitOf sw) ++ 25#6 ++ 2#3 ++ d ++ 0#7 ++ b.code)
  | .elect sw d => some ((bitOf sw) ++ 25#6 ++ 3#3 ++ d ++ 0#15)
  | .matchAny sw d b => some ((bitOf sw) ++ 25#6 ++ 4#3 ++ d ++ 0#7 ++ b.code)
  | .redux sw d o e b => some ((bitOf sw) ++ 26#6 ++ 0#3 ++ d ++ o ++ e ++ b.code)
  | .scanIncl sw d o e b => some ((bitOf sw) ++ 26#6 ++ 1#3 ++ d ++ o ++ e ++ b.code)
  | .scanExcl sw d o e b => some ((bitOf sw) ++ 26#6 ++ 2#3 ++ d ++ o ++ e ++ b.code)
  | .pack6 sw d u f b => some ((bitOf sw) ++ 27#6 ++ 0#3 ++ d ++ 0#1 ++ (bitOf u) ++ f ++ b.code)
  | .unpack6 sw d f b => some ((bitOf sw) ++ 27#6 ++ 1#3 ++ d ++ 0#2 ++ f ++ b.code)
  | .addF sw f d a b => some ((bitOf sw) ++ 28#6 ++ 0#1 ++ f.toBits ++ d ++ a ++ b.code)
  | .subF sw f d a b => some ((bitOf sw) ++ 28#6 ++ 1#1 ++ f.toBits ++ d ++ a ++ b.code)
  | .mulF sw f d a b => some ((bitOf sw) ++ 29#6 ++ 0#1 ++ f.toBits ++ d ++ a ++ b.code)
  | .scale sw f d a b => some ((bitOf sw) ++ 29#6 ++ 1#1 ++ f.toBits ++ d ++ a ++ b.code)
  | .fma sw f d a b => some ((bitOf sw) ++ 30#6 ++ 0#1 ++ f.toBits ++ d ++ a ++ b.code)
  | .fms sw f d a b => some ((bitOf sw) ++ 30#6 ++ 1#1 ++ f.toBits ++ d ++ a ++ b.code)
  | .minF sw f d a b => some ((bitOf sw) ++ 31#6 ++ 0#1 ++ f.toBits ++ d ++ a ++ b.code)
  | .minnum sw f d a b => some ((bitOf sw) ++ 31#6 ++ 1#1 ++ f.toBits ++ d ++ a ++ b.code)
  | .maxF sw f d a b => some ((bitOf sw) ++ 32#6 ++ 0#1 ++ f.toBits ++ d ++ a ++ b.code)
  | .maxnum sw f d a b => some ((bitOf sw) ++ 32#6 ++ 1#1 ++ f.toBits ++ d ++ a ++ b.code)
  | .negF sw f d b => some ((bitOf sw) ++ 33#6 ++ 0#1 ++ f.toBits ++ d ++ 0#5 ++ 0#2 ++ b.code)
  | .absF sw f d b => some ((bitOf sw) ++ 33#6 ++ 0#1 ++ f.toBits ++ d ++ 0#5 ++ 1#2 ++ b.code)
  | .fclass sw f d b => some ((bitOf sw) ++ 33#6 ++ 0#1 ++ f.toBits ++ d ++ 0#5 ++ 2#2 ++ b.code)
  | .copysign sw f d a b => some ((bitOf sw) ++ 33#6 ++ 1#1 ++ f.toBits ++ d ++ a ++ b.code)
  | .cmpF sw f c m a b => some ((bitOf sw) ++ 34#6 ++ 0#1 ++ f.toBits ++ 0#1 ++ c ++ m ++ a ++ b.code)
  | .fdot2 sw f d a b => some ((bitOf sw) ++ 35#6 ++ 0#1 ++ f.toBits ++ d ++ a ++ b.code)
  | .fdot4 sw f d a b => some ((bitOf sw) ++ 35#6 ++ 1#1 ++ f.toBits ++ d ++ a ++ b.code)
  | .rsum sw f d b => some ((bitOf sw) ++ 36#6 ++ 0#1 ++ f.toBits ++ d ++ 0#7 ++ b.code)
  | .rmax sw f d b => some ((bitOf sw) ++ 36#6 ++ 1#1 ++ f.toBits ++ d ++ 0#7 ++ b.code)
  | .rcp sw d f b => some ((bitOf sw) ++ 37#6 ++ 0#3 ++ d ++ 0#5 ++ f.toBits ++ b.code)
  | .rsqrt sw d f b => some ((bitOf sw) ++ 37#6 ++ 1#3 ++ d ++ 0#5 ++ f.toBits ++ b.code)
  | .sqrt sw d f b => some ((bitOf sw) ++ 37#6 ++ 2#3 ++ d ++ 0#5 ++ f.toBits ++ b.code)
  | .exp2 sw d f b => some ((bitOf sw) ++ 37#6 ++ 3#3 ++ d ++ 0#5 ++ f.toBits ++ b.code)
  | .log2 sw d f b => some ((bitOf sw) ++ 37#6 ++ 4#3 ++ d ++ 0#5 ++ f.toBits ++ b.code)
  | .tanh sw d f b => some ((bitOf sw) ++ 37#6 ++ 5#3 ++ d ++ 0#5 ++ f.toBits ++ b.code)
  | .cvtFloatFloat sw d y z b => some ((bitOf sw) ++ 38#6 ++ 0#3 ++ d ++ 0#3 ++ y.toBits ++ z.toBits ++ b.code)
  | .cvtF32Binary8 sw d u f b => some ((bitOf sw) ++ 38#6 ++ 1#3 ++ d ++ 0#1 ++ (bitOf u) ++ f ++ b.code)
  | .cvtF16Binary8 sw d u f b => some ((bitOf sw) ++ 38#6 ++ 2#3 ++ d ++ 0#1 ++ (bitOf u) ++ f ++ b.code)
  | .cvtBf16Binary8 sw d u f b => some ((bitOf sw) ++ 38#6 ++ 3#3 ++ d ++ 0#1 ++ (bitOf u) ++ f ++ b.code)
  | .cvtBinary8F32 sw d f b => some ((bitOf sw) ++ 38#6 ++ 4#3 ++ d ++ 0#2 ++ f ++ b.code)
  | .cvtBinary8F16 sw d f b => some ((bitOf sw) ++ 38#6 ++ 5#3 ++ d ++ 0#2 ++ f ++ b.code)
  | .cvtBinary8Bf16 sw d f b => some ((bitOf sw) ++ 38#6 ++ 6#3 ++ d ++ 0#2 ++ f ++ b.code)
  | .cvtFloatInteger sw d y g h b => some ((bitOf sw) ++ 38#6 ++ 7#3 ++ d ++ (bitOf y) ++ g.toBits ++ (bitOf h) ++ 0#3 ++ b.code)
  | .topk sw f d a b => some ((bitOf sw) ++ 39#6 ++ 0#1 ++ f.toBits ++ d ++ a ++ b.code)
  | .ld sw z d a o c p => some ((bitOf sw) ++ 40#6 ++ z.toBits ++ d ++ a ++ o ++ c ++ p)
  | .st sw z d a o c p => some ((bitOf sw) ++ 41#6 ++ z.toBits ++ d ++ a ++ o ++ c ++ p)
  | .ldb sw z d a o p => some ((bitOf sw) ++ 42#6 ++ z.toBits ++ d ++ a ++ o ++ 0#3 ++ p)
  | .atom sw z d a o c p => some ((bitOf sw) ++ 43#6 ++ z.toBits ++ d ++ a ++ o ++ c ++ p)
  | .cas sw z d a o c => some ((bitOf sw) ++ 44#6 ++ z.toBits ++ d ++ a ++ o ++ c ++ 0#3)
  | .wupd sw o e a b => some ((bitOf sw) ++ 45#6 ++ 0#3 ++ o ++ e ++ a ++ b.code)
  | .wred sw o e a b => some ((bitOf sw) ++ 45#6 ++ 1#3 ++ o ++ e ++ a ++ b.code)
  | .fence sw k => some ((bitOf sw) ++ 46#6 ++ 0#3 ++ 0#5 ++ k ++ 0#15)
  | .ink sw a b => some ((bitOf sw) ++ 46#6 ++ 1#3 ++ 0#7 ++ a ++ b.code)
  | .inkq sw d a => some ((bitOf sw) ++ 46#6 ++ 2#3 ++ d ++ a ++ 0#8)
  | .inkwait sw a b => some ((bitOf sw) ++ 46#6 ++ 3#3 ++ 0#7 ++ a ++ b.code)
  | .inksig sw b => some ((bitOf sw) ++ 46#6 ++ 4#3 ++ 0#14 ++ b.code)
  | .pref sw f a => some ((bitOf sw) ++ 46#6 ++ 5#3 ++ 0#6 ++ (bitOf f) ++ a ++ 0#8)
  | .ldround sw d b => some ((bitOf sw) ++ 47#6 ++ 0#3 ++ d ++ 0#7 ++ b.code)
  | .ldroundAcq sw d b => some ((bitOf sw) ++ 47#6 ++ 1#3 ++ d ++ 0#7 ++ b.code)
  | .round sw d b => some ((bitOf sw) ++ 47#6 ++ 2#3 ++ d ++ 0#7 ++ b.code)
  | .cpy sw e h a => some ((bitOf sw) ++ 48#6 ++ 0#3 ++ 0#2 ++ (bitOf e) ++ h ++ a ++ 0#8)
  | .cpyt sw e h a => some ((bitOf sw) ++ 48#6 ++ 1#3 ++ 0#2 ++ (bitOf e) ++ h ++ a ++ 0#8)
  | .snap sw e h a => some ((bitOf sw) ++ 48#6 ++ 2#3 ++ 0#2 ++ (bitOf e) ++ h ++ a ++ 0#8)
  | .gath sw e h a => some ((bitOf sw) ++ 48#6 ++ 3#3 ++ 0#2 ++ (bitOf e) ++ h ++ a ++ 0#8)
  | .scatadd sw e h a => some ((bitOf sw) ++ 48#6 ++ 4#3 ++ 0#2 ++ (bitOf e) ++ h ++ a ++ 0#8)
  | .waitc sw c b => some ((bitOf sw) ++ 49#6 ++ 0#3 ++ 0#12 ++ c ++ b.code)
  | .waith sw h => some ((bitOf sw) ++ 49#6 ++ 1#3 ++ 0#10 ++ h ++ 0#8)
  | .testh sw d h => some ((bitOf sw) ++ 49#6 ++ 2#3 ++ d ++ 0#3 ++ h ++ 0#8)
  | .cancelh sw h => some ((bitOf sw) ++ 49#6 ++ 3#3 ++ 0#10 ++ h ++ 0#8)
  | .movhToV sw d h => some ((bitOf sw) ++ 49#6 ++ 4#3 ++ d ++ 0#3 ++ h ++ 0#8)
  | .movhToH sw h b => some ((bitOf sw) ++ 49#6 ++ 5#3 ++ 0#3 ++ h ++ 0#7 ++ b.code)
  | .rgive sw r b => some ((bitOf sw) ++ 50#6 ++ 0#3 ++ 0#11 ++ r ++ b.code)
  | .rtake sw r b => some ((bitOf sw) ++ 50#6 ++ 1#3 ++ 0#11 ++ r ++ b.code)
  | .rfree sw r b => some ((bitOf sw) ++ 50#6 ++ 2#3 ++ 0#11 ++ r ++ b.code)
  | .emit sw a b => some ((bitOf sw) ++ 51#6 ++ 0#3 ++ 0#7 ++ a ++ b.code)
  | .mma sw e h a => some ((bitOf sw) ++ 54#6 ++ 0#3 ++ 0#2 ++ (bitOf e) ++ h ++ a ++ 0#8)
  | .mmas sw e h a => some ((bitOf sw) ++ 54#6 ++ 1#3 ++ 0#2 ++ (bitOf e) ++ h ++ a ++ 0#8)
  | .azero sw e h t => some ((bitOf sw) ++ 55#6 ++ 0#3 ++ 0#2 ++ (bitOf e) ++ h ++ 0#4 ++ t ++ 0#8)
  | .ald sw e h a b => some ((bitOf sw) ++ 55#6 ++ 1#3 ++ 0#2 ++ (bitOf e) ++ h ++ a ++ b.code)
  | .ast sw e h a b => some ((bitOf sw) ++ 55#6 ++ 2#3 ++ 0#2 ++ (bitOf e) ++ h ++ a ++ b.code)
  | .palres sw r a => some ((bitOf sw) ++ 56#6 ++ 0#3 ++ 0#1 ++ r ++ a ++ 0#8)
  | .palrel sw r => some ((bitOf sw) ++ 56#6 ++ 1#3 ++ 0#1 ++ r ++ 0#15)
  | .mgld sw e h a b => some ((bitOf sw) ++ 56#6 ++ 2#3 ++ 0#2 ++ (bitOf e) ++ h ++ a ++ b.code)
  | .kstore sw e h a => some ((bitOf sw) ++ 58#6 ++ 0#3 ++ 0#2 ++ (bitOf e) ++ h ++ a ++ 0#8)
  | .lgather sw e h a => some ((bitOf sw) ++ 58#6 ++ 1#3 ++ 0#2 ++ (bitOf e) ++ h ++ a ++ 0#8)
  | .lgsig sw e h a => some ((bitOf sw) ++ 58#6 ++ 2#3 ++ 0#2 ++ (bitOf e) ++ h ++ a ++ 0#8)
  | .lgproj sw e h a b => some ((bitOf sw) ++ 58#6 ++ 3#3 ++ 0#2 ++ (bitOf e) ++ h ++ a ++ b.code)
  | .lgpool sw e h a => some ((bitOf sw) ++ 58#6 ++ 4#3 ++ 0#2 ++ (bitOf e) ++ h ++ a ++ 0#8)
  | .lgcfg sw a b => some ((bitOf sw) ++ 59#6 ++ 0#3 ++ 0#7 ++ a ++ b.code)
  | .lgclr sw b => some ((bitOf sw) ++ 59#6 ++ 1#3 ++ 0#14 ++ b.code)
  | .lgstat sw d b => some ((bitOf sw) ++ 59#6 ++ 2#3 ++ d ++ 0#7 ++ b.code)
  | .movi sw d i => some ((bitOf sw) ++ 60#6 ++ d ++ i)
  | .lea sw d i => some ((bitOf sw) ++ 61#6 ++ d ++ i)
  | .pre sw m z r f b => some ((bitOf sw) ++ 62#6 ++ 0#3 ++ m ++ (bitOf z) ++ r ++ 0#6 ++ (bitOf f) ++ b)
  | .live sw l h => some ((bitOf sw) ++ 62#6 ++ 1#3 ++ l ++ h ++ 0#8)
  | .yield sw n => some ((bitOf sw) ++ 62#6 ++ 2#3 ++ 0#14 ++ n)
  | .off sw o => some ((bitOf sw) ++ 62#6 ++ 3#3 ++ o)
  | .scope sw c => some ((bitOf sw) ++ 62#6 ++ 4#3 ++ 0#19 ++ c)
  | .longResultReturn _ _ _ => none
  | .shortInterlockEnd _ _ => none
  | .pageWalk _ _ _ => none
  | .faultRecordPost _ => none
  | .frespResolve _ _ => none
  | .frespRefuse _ _ => none
  | .shootdown _ _ => none
  | .shootdownComplete _ => none
  | .collectorSend _ _ => none
  | .collectorReply _ _ _ => none
  | .homeAccess _ => none
  | .promote _ => none
  | .carveOutComplete => none
  | .inkTicket _ _ => none
  | .inkGrant _ _ => none
  | .inkRelease _ _ => none
  | .inkTimeout _ _ => none
  | .inkwaitWake _ _ => none
  | .beacon _ _ _ => none
  | .roundWake _ => none
  | .roundTmo _ _ => none
  | .watchdog _ _ => none
  | .yieldHoldEnd _ _ => none
  | .sleepEnd _ _ => none
  | .quireForm _ => none
  | .quirePartialRelease _ => none
  | .collTimeout _ _ _ => none
  | .copyRun _ _ => none
  | .snapCopy _ _ => none
  | .gatherRun _ _ => none
  | .scataddAppendRun _ _ => none
  | .scataddDrainRun _ _ => none
  | .mmaRun _ _ => none
  | .mmaStop _ => none
  | .tileCommandRun _ => none
  | .leaveGrant _ => none
  | .kstoreRun _ _ => none
  | .lgatherRun _ _ => none
  | .lgsigRun _ _ => none
  | .lgprojRun _ _ => none
  | .lgpoolRun _ _ => none
  | .eventRecordPost _ => none
  | .lqtailWrite _ _ _ => none
  | .launchRecordFetch _ _ => none
  | .teamPlacement _ _ _ _ => none
  | .gangAged _ => none
  | .nodeLaunch _ _ => none
  | .coalesceTimeout _ _ => none
  | .launchComplete _ => none
  | .sliceExpiry _ => none
  | .contextSwap _ => none
  | .spillRestore _ _ => none
  | .shadowEvict _ => none
  | .trapEntry _ _ => none
  | .timer _ => none
  | .ckreq _ _ => none
  | .ckpt _ => none
  | .halt _ _ => none
  | .haltRecord _ => none
  | .resume _ _ => none
  | .debugGrant _ => none
  | .debugRevoke _ => none
  | .editApply _ => none
  | .breakpointMatch _ _ => none
  | .sampleRecord _ => none
  | .hostMemRead _ _ => none
  | .hostMemWrite _ _ => none
  | .wellApertureAccess _ _ _ => none
  | .peerRequest _ _ _ _ => none
  | .linkDown _ => none
  | .moduleReset => none
  | .bringUp _ _ => none
  | .registerWrite _ _ => none
  | .contextBecomesResident _ _ => none
  | .instructionFetch _ _ => none
  | .softError _ _ _ => none

/-- The operand b of a word that has one (R179). -/
def Instr.opnd : Instr → Option Opnd
  | .trap _ b => some b
  | .sleep _ b => some b
  | .mts _ _ b => some b
  | .clfpf _ b => some b
  | .add _ _ _ _ b => some b
  | .sub _ _ _ _ b => some b
  | .addSat _ _ _ _ b => some b
  | .subSat _ _ _ _ b => some b
  | .mul _ _ _ _ b => some b
  | .mad _ _ _ _ b => some b
  | .mulh _ _ _ _ b => some b
  | .div _ _ _ _ b => some b
  | .rem _ _ _ _ b => some b
  | .and _ _ _ b => some b
  | .or _ _ _ b => some b
  | .xor _ _ _ b => some b
  | .andn _ _ _ b => some b
  | .orn _ _ _ b => some b
  | .xnor _ _ _ b => some b
  | .not _ _ b => some b
  | .mov _ _ b => some b
  | .shl _ _ _ _ b => some b
  | .shr _ _ _ _ b => some b
  | .sar _ _ _ _ b => some b
  | .rol _ _ _ _ b => some b
  | .min _ _ _ _ b => some b
  | .max _ _ _ _ b => some b
  | .cmp _ _ _ _ _ b => some b
  | .abs _ _ _ b => some b
  | .neg _ _ _ b => some b
  | .clz _ _ _ b => some b
  | .popc _ _ _ b => some b
  | .cvtInt _ _ _ _ _ b => some b
  | .sel _ _ _ _ b => some b
  | .bfe _ _ _ b => some b
  | .bfeI _ _ _ b => some b
  | .bfi _ _ _ b => some b
  | .setc _ _ b => some b
  | .setm _ _ b => some b
  | .setq _ _ b => some b
  | .shuf _ _ _ _ b => some b
  | .voteAny _ _ b => some b
  | .voteAll _ _ b => some b
  | .voteBallot _ _ b => some b
  | .matchAny _ _ b => some b
  | .redux _ _ _ _ b => some b
  | .scanIncl _ _ _ _ b => some b
  | .scanExcl _ _ _ _ b => some b
  | .pack6 _ _ _ _ b => some b
  | .unpack6 _ _ _ b => some b
  | .addF _ _ _ _ b => some b
  | .subF _ _ _ _ b => some b
  | .mulF _ _ _ _ b => some b
  | .scale _ _ _ _ b => some b
  | .fma _ _ _ _ b => some b
  | .fms _ _ _ _ b => some b
  | .minF _ _ _ _ b => some b
  | .minnum _ _ _ _ b => some b
  | .maxF _ _ _ _ b => some b
  | .maxnum _ _ _ _ b => some b
  | .negF _ _ _ b => some b
  | .absF _ _ _ b => some b
  | .fclass _ _ _ b => some b
  | .copysign _ _ _ _ b => some b
  | .cmpF _ _ _ _ _ b => some b
  | .fdot2 _ _ _ _ b => some b
  | .fdot4 _ _ _ _ b => some b
  | .rsum _ _ _ b => some b
  | .rmax _ _ _ b => some b
  | .rcp _ _ _ b => some b
  | .rsqrt _ _ _ b => some b
  | .sqrt _ _ _ b => some b
  | .exp2 _ _ _ b => some b
  | .log2 _ _ _ b => some b
  | .tanh _ _ _ b => some b
  | .cvtFloatFloat _ _ _ _ b => some b
  | .cvtF32Binary8 _ _ _ _ b => some b
  | .cvtF16Binary8 _ _ _ _ b => some b
  | .cvtBf16Binary8 _ _ _ _ b => some b
  | .cvtBinary8F32 _ _ _ b => some b
  | .cvtBinary8F16 _ _ _ b => some b
  | .cvtBinary8Bf16 _ _ _ b => some b
  | .cvtFloatInteger _ _ _ _ _ b => some b
  | .topk _ _ _ _ b => some b
  | .wupd _ _ _ _ b => some b
  | .wred _ _ _ _ b => some b
  | .ink _ _ b => some b
  | .inkwait _ _ b => some b
  | .inksig _ b => some b
  | .ldround _ _ b => some b
  | .ldroundAcq _ _ b => some b
  | .round _ _ b => some b
  | .waitc _ _ b => some b
  | .movhToH _ _ b => some b
  | .rgive _ _ b => some b
  | .rtake _ _ b => some b
  | .rfree _ _ b => some b
  | .emit _ _ b => some b
  | .ald _ _ _ _ b => some b
  | .ast _ _ _ _ b => some b
  | .mgld _ _ _ _ b => some b
  | .lgproj _ _ _ _ b => some b
  | .lgcfg _ _ b => some b
  | .lgclr _ b => some b
  | .lgstat _ _ b => some b
  | _ => none

/-- The words of an instruction: its word and its literal words (R176, R181). -/
def encode (i : Instr) : List W32 :=
  match encodeWord i with
  | some w =>
    match i.opnd with
    | some b => w :: b.literals
    | none => [w]
  | none => []

/-- An instruction whose every field is a code of its own: no `rsv` operand stands for a code R179 assigns. -/
def Instr.canonical (i : Instr) : Bool :=
  match i.opnd with
  | some b => b.canonical
  | none => true

/-- How many words an instruction takes in memory. -/
def Instr.size (i : Instr) : Nat := (encode i).length

end Sys2Proof
end

