-- ==== Sys2Proof/Machine/Form.lean ====
section
/-! DEFINITION. What the form of an instruction fixes: the registers it names, the hints it accepts, its latency, its
element type, and the checks of R178 that depend on the words of its unit alone. -/

namespace Sys2Proof

/-- The payload of a PRE word (R191). -/
structure PreHint where
  mask : BitVec 3
  z : Bool
  rm : BitVec 3
  f : Bool
  opnd : BitVec 8
  deriving DecidableEq, Repr

/-- The hints of a unit met so far (R190). -/
structure Hints where
  pre : Option PreHint
  /-- Live ranges, in the order of their words (R192). -/
  live : List (BitVec 7 × BitVec 7)
  off : Option (BitVec 22)
  scope : Option (BitVec 3)
  deriving DecidableEq, Repr

/-- No hint. -/
def Hints.empty : Hints := ⟨none, [], none, none⟩

/-- The fourth operand of a unit (R191): no literal may stand there. -/
def Hints.fourth (h : Hints) : Option Opnd :=
  match h.pre with
  | some p =>
    if p.f then
      match Opnd.read p.opnd [] with
      | .ok (b, _) => some b
      | .error _ => none
    else none
  | none => none

/-- The mask register that governs the unit, and whether it zeroes (R191); m0 merges when there is no PRE. -/
def Hints.mask (h : Hints) : BitVec 3 × Bool :=
  match h.pre with
  | some p => (p.mask, p.z)
  | none => (0#3, false)

/-- The RM field of the unit's PRE (R191). -/
def Hints.rm (h : Hints) : BitVec 3 :=
  match h.pre with
  | some p => p.rm
  | none => 0#3

/-- The roles of R173. -/
inductive Role where
  | copy | matrix | vector
  deriving DecidableEq, Repr

/-- How an operand's value is formed (R179, R180). -/
inductive Elem where
  | int (bits : Nat)
  | flt (f : FT)
  deriving DecidableEq, Repr

/-- Bits of a W. -/
def W.bits : W → Nat
  | .w8 => 8 | .w16 => 16 | .w32 => 32 | .w64 => 64

/-- Bits of an integer type. -/
def IT.bits : IT → Nat
  | .n8 | .i8 => 8 | .n16 | .i16 => 16 | .n32 | .i32 => 32 | .n64 | .i64 => 64

/-- Whether an integer type is signed. -/
def IT.signed : IT → Bool
  | .i8 | .i16 | .i32 | .i64 => true
  | _ => false

/-- Bits of a float type (R291). -/
def FT.bits : FT → Nat
  | .f32 => 32 | _ => 16

/-- Bits of a DV code's low two bits (R201): .n32, .n64, .i32, .i64. -/
def dvBits (t : BitVec 2) : Nat := if t.getLsbD 0 then 64 else 32

/-- Signedness of a DV code. -/
def dvSigned (t : BitVec 2) : Bool := t.getLsbD 1

/-- The element codes of R220. -/
def elemOfCode (e : BitVec 4) : Elem :=
  if e.toNat < 8 then .int (IT.ofBits (e.extractLsb' 0 3)).bits
  else if e = 8#4 then .flt .f32
  else if e = 9#4 then .flt .f16
  else .flt .bf16

/-- Bits of an element. -/
def Elem.bits : Elem → Nat
  | .int w => w
  | .flt f => f.bits

/-- Forms that accept MASK or Z of PRE: column m of R202. -/
def Instr.acceptsMask : Instr → Bool
  | .add .. | .sub .. | .addSat .. | .subSat .. | .mul .. | .mad .. | .mulh .. | .div .. | .rem .. | .and ..
  | .or .. | .xor .. | .andn .. | .orn .. | .xnor .. | .not .. | .mov .. | .shl .. | .shr .. | .sar .. | .rol ..
  | .min .. | .max .. | .abs .. | .neg .. | .clz .. | .popc .. | .cvtInt .. | .bfe .. | .bfeI .. | .bfi ..
  | .minF .. | .minnum .. | .maxF .. | .maxnum .. | .negF .. | .absF .. | .fclass .. | .copysign .. | .rcp ..
  | .rsqrt .. | .sqrt .. | .exp2 .. | .log2 .. | .tanh .. | .addF .. | .subF .. | .mulF .. | .scale .. | .fma ..
  | .fms .. | .fdot2 .. | .fdot4 .. | .rsum .. | .rmax .. | .cvtFloatFloat .. | .cvtF32Binary8 ..
  | .cvtF16Binary8 .. | .cvtBf16Binary8 .. | .cvtBinary8F32 .. | .cvtBinary8F16 .. | .cvtBinary8Bf16 ..
  | .cvtFloatInteger .. => true
  | _ => false

/-- Forms that accept RM of PRE: column r of R202. -/
def Instr.acceptsRm : Instr → Bool
  | .addF .. | .subF .. | .mulF .. | .scale .. | .fma .. | .fms .. | .fdot2 .. | .fdot4 .. | .rsum .. | .rmax ..
  | .cvtFloatFloat .. | .cvtF32Binary8 .. | .cvtF16Binary8 .. | .cvtBf16Binary8 .. | .cvtBinary8F32 ..
  | .cvtBinary8F16 .. | .cvtBinary8Bf16 .. | .cvtFloatInteger .. => true
  | _ => false

/-- Forms that accept a fourth operand of PRE: column 4 of R202. -/
def Instr.acceptsFourth : Instr → Bool
  | .shuf .. | .voteAny .. | .voteAll .. | .voteBallot .. | .elect .. | .matchAny .. | .redux .. | .scanIncl ..
  | .scanExcl .. | .pack6 .. | .unpack6 .. | .topk .. | .ldb .. => true
  | _ => false

/-- Forms that accept OFF (R194). -/
def Instr.acceptsOff : Instr → Bool
  | .ld .. | .st .. | .ldb .. | .atom .. | .cas .. | .wupd .. | .wred .. | .ink .. | .inkq .. | .inkwait ..
  | .pref .. => true
  | _ => false

/-- Forms that accept SCOPE (R195); ld and st by their order, in `formCheck`. -/
def Instr.acceptsScope : Instr → Bool
  | .ld .. | .st .. | .atom .. | .cas .. | .wupd .. | .wred .. | .fence .. | .ldroundAcq .. | .round ..
  | .inksig .. => true
  | _ => false

/-- The long instructions (R185); mfs of CYCLE and GTIME among them. -/
def Instr.isLong : Instr → Bool
  | .ld .. | .ldb .. | .inkq .. | .ldround .. | .ldroundAcq .. | .round .. | .atom .. | .cas .. | .rcp ..
  | .rsqrt .. | .sqrt .. | .exp2 .. | .log2 .. | .tanh .. | .shuf .. | .voteAny .. | .voteAll .. | .voteBallot ..
  | .elect .. | .matchAny .. | .redux .. | .scanIncl .. | .scanExcl .. | .pack6 .. | .unpack6 .. | .topk ..
  | .lgstat .. => true
  | .mfs _ _ r => r == 0x20#7 || r == 0x21#7
  | _ => false

/-- The lists of R173: which role may issue a form; `none` is on neither list. -/
def Instr.role : Instr → Option Role
  | .cpy .. | .cpyt .. | .snap .. | .gath .. | .scatadd .. => some .copy
  | .mma .. | .mmas .. | .azero .. | .ald .. | .ast .. | .palres .. | .palrel .. | .mgld .. => some .matrix
  | _ => none

/-- The v register that field d names (R182). -/
def Instr.dReg : Instr → Option (BitVec 7)
  | .mfs _ d _ => some d
  | .rdfpf _ d => some d
  | .add _ _ d _ _ => some d
  | .sub _ _ d _ _ => some d
  | .addSat _ _ d _ _ => some d
  | .subSat _ _ d _ _ => some d
  | .mul _ _ d _ _ => some d
  | .mad _ _ d _ _ => some d
  | .mulh _ _ d _ _ => some d
  | .div _ _ d _ _ => some d
  | .rem _ _ d _ _ => some d
  | .and _ d _ _ => some d
  | .or _ d _ _ => some d
  | .xor _ d _ _ => some d
  | .andn _ d _ _ => some d
  | .orn _ d _ _ => some d
  | .xnor _ d _ _ => some d
  | .not _ d _ => some d
  | .mov _ d _ => some d
  | .shl _ _ d _ _ => some d
  | .shr _ _ d _ _ => some d
  | .sar _ _ d _ _ => some d
  | .rol _ _ d _ _ => some d
  | .min _ _ d _ _ => some d
  | .max _ _ d _ _ => some d
  | .abs _ d _ _ => some d
  | .neg _ d _ _ => some d
  | .clz _ d _ _ => some d
  | .popc _ d _ _ => some d
  | .cvtInt _ d _ _ _ _ => some d
  | .sel _ _ d _ _ => some d
  | .bfe _ d _ _ => some d
  | .bfeI _ d _ _ => some d
  | .bfi _ d _ _ => some d
  | .movk _ d _ => some d
  | .movm _ d _ => some d
  | .movq _ d _ => some d
  | .shuf _ _ d _ _ => some d
  | .voteAny _ d _ => some d
  | .voteAll _ d _ => some d
  | .voteBallot _ d _ => some d
  | .elect _ d => some d
  | .matchAny _ d _ => some d
  | .redux _ d _ _ _ => some d
  | .scanIncl _ d _ _ _ => some d
  | .scanExcl _ d _ _ _ => some d
  | .pack6 _ d _ _ _ => some d
  | .unpack6 _ d _ _ => some d
  | .addF _ _ d _ _ => some d
  | .subF _ _ d _ _ => some d
  | .mulF _ _ d _ _ => some d
  | .scale _ _ d _ _ => some d
  | .fma _ _ d _ _ => some d
  | .fms _ _ d _ _ => some d
  | .minF _ _ d _ _ => some d
  | .minnum _ _ d _ _ => some d
  | .maxF _ _ d _ _ => some d
  | .maxnum _ _ d _ _ => some d
  | .negF _ _ d _ => some d
  | .absF _ _ d _ => some d
  | .fclass _ _ d _ => some d
  | .copysign _ _ d _ _ => some d
  | .fdot2 _ _ d _ _ => some d
  | .fdot4 _ _ d _ _ => some d
  | .rsum _ _ d _ => some d
  | .rmax _ _ d _ => some d
  | .rcp _ d _ _ => some d
  | .rsqrt _ d _ _ => some d
  | .sqrt _ d _ _ => some d
  | .exp2 _ d _ _ => some d
  | .log2 _ d _ _ => some d
  | .tanh _ d _ _ => some d
  | .cvtFloatFloat _ d _ _ _ => some d
  | .cvtF32Binary8 _ d _ _ _ => some d
  | .cvtF16Binary8 _ d _ _ _ => some d
  | .cvtBf16Binary8 _ d _ _ _ => some d
  | .cvtBinary8F32 _ d _ _ => some d
  | .cvtBinary8F16 _ d _ _ => some d
  | .cvtBinary8Bf16 _ d _ _ => some d
  | .cvtFloatInteger _ d _ _ _ _ => some d
  | .topk _ _ d _ _ => some d
  | .ld _ _ d _ _ _ _ => some d
  | .st _ _ d _ _ _ _ => some d
  | .ldb _ _ d _ _ _ => some d
  | .atom _ _ d _ _ _ _ => some d
  | .cas _ _ d _ _ _ => some d
  | .inkq _ d _ => some d
  | .ldround _ d _ => some d
  | .ldroundAcq _ d _ => some d
  | .round _ d _ => some d
  | .testh _ d _ => some d
  | .movhToV _ d _ => some d
  | .lgstat _ d _ => some d
  | .movi _ d _ => some d
  | .lea _ d _ => some d
  | _ => none

/-- The v register that field a names (R182). -/
def Instr.aReg : Instr → Option (BitVec 7)
  | .jmpr _ a => some a
  | .callr _ a => some a
  | .add _ _ _ a _ => some a
  | .sub _ _ _ a _ => some a
  | .addSat _ _ _ a _ => some a
  | .subSat _ _ _ a _ => some a
  | .mul _ _ _ a _ => some a
  | .mad _ _ _ a _ => some a
  | .mulh _ _ _ a _ => some a
  | .div _ _ _ a _ => some a
  | .rem _ _ _ a _ => some a
  | .and _ _ a _ => some a
  | .or _ _ a _ => some a
  | .xor _ _ a _ => some a
  | .andn _ _ a _ => some a
  | .orn _ _ a _ => some a
  | .xnor _ _ a _ => some a
  | .shl _ _ _ a _ => some a
  | .shr _ _ _ a _ => some a
  | .sar _ _ _ a _ => some a
  | .rol _ _ _ a _ => some a
  | .min _ _ _ a _ => some a
  | .max _ _ _ a _ => some a
  | .cmp _ _ _ _ a _ => some a
  | .sel _ _ _ a _ => some a
  | .bfe _ _ a _ => some a
  | .bfeI _ _ a _ => some a
  | .bfi _ _ a _ => some a
  | .shuf _ _ _ a _ => some a
  | .addF _ _ _ a _ => some a
  | .subF _ _ _ a _ => some a
  | .mulF _ _ _ a _ => some a
  | .scale _ _ _ a _ => some a
  | .fma _ _ _ a _ => some a
  | .fms _ _ _ a _ => some a
  | .minF _ _ _ a _ => some a
  | .minnum _ _ _ a _ => some a
  | .maxF _ _ _ a _ => some a
  | .maxnum _ _ _ a _ => some a
  | .copysign _ _ _ a _ => some a
  | .cmpF _ _ _ _ a _ => some a
  | .fdot2 _ _ _ a _ => some a
  | .fdot4 _ _ _ a _ => some a
  | .topk _ _ _ a _ => some a
  | .ld _ _ _ a _ _ _ => some a
  | .st _ _ _ a _ _ _ => some a
  | .ldb _ _ _ a _ _ => some a
  | .atom _ _ _ a _ _ _ => some a
  | .cas _ _ _ a _ _ => some a
  | .wupd _ _ _ a _ => some a
  | .wred _ _ _ a _ => some a
  | .ink _ a _ => some a
  | .inkq _ _ a => some a
  | .inkwait _ a _ => some a
  | .pref _ _ a => some a
  | .cpy _ _ _ a => some a
  | .cpyt _ _ _ a => some a
  | .snap _ _ _ a => some a
  | .gath _ _ _ a => some a
  | .scatadd _ _ _ a => some a
  | .emit _ a _ => some a
  | .mma _ _ _ a => some a
  | .mmas _ _ _ a => some a
  | .ald _ _ _ a _ => some a
  | .ast _ _ _ a _ => some a
  | .palres _ _ a => some a
  | .mgld _ _ _ a _ => some a
  | .kstore _ _ _ a => some a
  | .lgather _ _ _ a => some a
  | .lgsig _ _ _ a => some a
  | .lgproj _ _ _ a _ => some a
  | .lgpool _ _ _ a => some a
  | .lgcfg _ a _ => some a
  | _ => none

/-- Forms that read v(d) as an operand (R187): the addend forms, bfi, the data of st, atom and cas. -/
def Instr.readsD : Instr → Bool
  | .mad .. | .bfi .. | .fma .. | .fms .. | .fdot2 .. | .fdot4 .. | .st .. | .atom .. | .cas .. => true
  | _ => false

/-- Forms that write v(d): every form with a d register but st. -/
def Instr.writesD : Instr → Bool
  | .st .. => false
  | i => i.dReg.isSome

/-- The latency L of a short result (R184), in cycles. Of rdfpf, which the table does not list, it is 4 (DESIGN CHOICE, log
entry 46). -/
def Instr.latency : Instr → Nat
  | .addF .. | .subF .. | .mulF .. | .scale .. | .fma .. | .fms .. | .cvtFloatFloat .. | .cvtF32Binary8 ..
  | .cvtF16Binary8 .. | .cvtBf16Binary8 .. | .cvtBinary8F32 .. | .cvtBinary8F16 .. | .cvtBinary8Bf16 ..
  | .cvtFloatInteger .. | .minF .. | .minnum .. | .maxF .. | .maxnum .. | .negF .. | .absF .. | .fclass ..
  | .copysign .. | .cmpF .. | .mul .. | .mad .. | .mulh .. => 6
  | .fdot2 .. | .fdot4 .. | .rsum .. | .rmax .. => 8
  | .div .. | .rem .. => 20
  | _ => 4

/-- The mask register a form reads by its own fields (R182). -/
def Instr.mReads : Instr → Option (BitVec 3)
  | .br _ m _ _ | .brs _ m _ _ | .sel _ m _ _ _ | .movm _ _ m => some m
  | _ => none

/-- The mask register a form writes (R182). -/
def Instr.mWrites : Instr → Option (BitVec 3)
  | .cmp _ _ _ m _ _ | .cmpF _ _ _ m _ _ | .setm _ m _ => some m
  | _ => none

/-- How the operand b is formed: an integer in each w-bit sub-element, or a float type (R179, R180, R291). An
instruction that reads no element width takes 64 bits, pack6 and unpack6 among them (R449). -/
def Instr.elemB : Instr → Elem
  | .add _ w _ _ _ => .int w.bits
  | .sub _ w _ _ _ => .int w.bits
  | .addSat _ t _ _ _ => .int t.bits
  | .subSat _ t _ _ _ => .int t.bits
  | .mul _ w _ _ _ => .int w.bits
  | .mad _ w _ _ _ => .int w.bits
  | .mulh _ t _ _ _ => .int t.bits
  | .div _ t _ _ _ => .int (dvBits t)
  | .rem _ t _ _ _ => .int (dvBits t)
  | .shl _ w _ _ _ => .int w.bits
  | .shr _ w _ _ _ => .int w.bits
  | .sar _ w _ _ _ => .int w.bits
  | .rol _ w _ _ _ => .int w.bits
  | .min _ t _ _ _ => .int t.bits
  | .max _ t _ _ _ => .int t.bits
  | .cmp _ t _ _ _ _ => .int t.bits
  | .abs _ _ t _ => .int t.bits
  | .neg _ _ t _ => .int t.bits
  | .clz _ _ t _ => .int t.bits
  | .popc _ _ t _ => .int t.bits
  | .cvtInt _ _ _ _ z _ => .int z.bits
  | .shuf _ w _ _ _ => .int w.bits
  | .redux _ _ _ e _ => .int (elemOfCode e).bits
  | .scanIncl _ _ _ e _ => .int (elemOfCode e).bits
  | .scanExcl _ _ _ e _ => .int (elemOfCode e).bits
  | .addF _ f _ _ _ => .flt f
  | .subF _ f _ _ _ => .flt f
  | .mulF _ f _ _ _ => .flt f
  | .scale _ f _ _ _ => .int f.bits
  | .fma _ f _ _ _ => .flt f
  | .fms _ f _ _ _ => .flt f
  | .minF _ f _ _ _ => .flt f
  | .minnum _ f _ _ _ => .flt f
  | .maxF _ f _ _ _ => .flt f
  | .maxnum _ f _ _ _ => .flt f
  | .negF _ f _ _ => .flt f
  | .absF _ f _ _ => .flt f
  | .fclass _ f _ _ => .flt f
  | .copysign _ f _ _ _ => .flt f
  | .cmpF _ f _ _ _ _ => .flt f
  | .fdot2 _ f _ _ _ => .flt f
  | .fdot4 _ f _ _ _ => .flt f
  | .rsum _ f _ _ => .flt f
  | .rmax _ f _ _ => .flt f
  | .rcp _ _ f _ => .flt f
  | .rsqrt _ _ f _ => .flt f
  | .sqrt _ _ f _ => .flt f
  | .exp2 _ _ f _ => .flt f
  | .log2 _ _ f _ => .flt f
  | .tanh _ _ f _ => .flt f
  | .cvtFloatFloat _ _ y _ _ => .flt y
  | .cvtF32Binary8 .. => .flt .f32
  | .cvtF16Binary8 .. => .flt .f16
  | .cvtBf16Binary8 .. => .flt .bf16
  | .cvtBinary8F32 .. => .int 8
  | .cvtBinary8F16 .. => .int 8
  | .cvtBinary8Bf16 .. => .int 8
  | .cvtFloatInteger _ _ y g h _ => if y then .int (if h then 32 else 8) else .flt g
  | .topk _ f _ _ _ => .int f.bits
  | .wupd _ _ e _ _ => .int (elemOfCode e).bits
  | .wred _ _ e _ _ => .int (elemOfCode e).bits
  | _ => .int 64

/-- Forms with a nonempty PRE column (R202): on any other a PRE in the unit is not accepted (R190). -/
def Instr.acceptsPre : Instr → Bool
  | .add .. | .sub .. | .addSat .. | .subSat .. | .mul .. | .mad .. | .mulh .. | .div .. | .rem .. | .and ..
  | .or .. | .xor .. | .andn .. | .orn .. | .xnor .. | .not .. | .mov .. | .shl .. | .shr .. | .sar .. | .rol ..
  | .min .. | .max .. | .abs .. | .neg .. | .clz .. | .popc .. | .cvtInt .. | .bfe .. | .bfeI .. | .bfi ..
  | .minF .. | .minnum .. | .maxF .. | .maxnum .. | .negF .. | .absF .. | .fclass .. | .copysign .. | .rcp ..
  | .rsqrt .. | .sqrt .. | .exp2 .. | .log2 .. | .tanh .. | .addF .. | .subF .. | .mulF .. | .scale .. | .fma ..
  | .fms .. | .fdot2 .. | .fdot4 .. | .rsum .. | .rmax .. | .cvtFloatFloat .. | .cvtF32Binary8 ..
  | .cvtF16Binary8 .. | .cvtBf16Binary8 .. | .cvtBinary8F32 .. | .cvtBinary8F16 .. | .cvtBinary8Bf16 ..
  | .cvtFloatInteger .. | .shuf .. | .voteAny .. | .voteAll .. | .voteBallot .. | .elect .. | .matchAny ..
  | .redux .. | .scanIncl .. | .scanExcl .. | .pack6 .. | .unpack6 .. | .topk .. | .ldb .. => true
  | _ => false

/-- The hint words (R190). -/
def Instr.isHint : Instr → Bool
  | .pre .. | .live .. | .yield .. | .off .. | .scope .. => true
  | _ => false

/-- The switch marker S of a word (R176). -/
def Instr.sw : Instr → Bool
  | .br sw .. => sw
  | .brs sw .. => sw
  | .jmp sw .. => sw
  | .call sw .. => sw
  | .jmpr sw .. => sw
  | .callr sw .. => sw
  | .ret sw .. => sw
  | .exit sw .. => sw
  | .trap sw .. => sw
  | .rtt sw .. => sw
  | .bkpt sw .. => sw
  | .bar sw .. => sw
  | .cbar sw .. => sw
  | .sleep sw .. => sw
  | .nop sw => sw
  | .mfs sw .. => sw
  | .mts sw .. => sw
  | .rdfpf sw .. => sw
  | .clfpf sw .. => sw
  | .add sw .. => sw
  | .sub sw .. => sw
  | .addSat sw .. => sw
  | .subSat sw .. => sw
  | .mul sw .. => sw
  | .mad sw .. => sw
  | .mulh sw .. => sw
  | .div sw .. => sw
  | .rem sw .. => sw
  | .and sw .. => sw
  | .or sw .. => sw
  | .xor sw .. => sw
  | .andn sw .. => sw
  | .orn sw .. => sw
  | .xnor sw .. => sw
  | .not sw .. => sw
  | .mov sw .. => sw
  | .shl sw .. => sw
  | .shr sw .. => sw
  | .sar sw .. => sw
  | .rol sw .. => sw
  | .min sw .. => sw
  | .max sw .. => sw
  | .cmp sw .. => sw
  | .abs sw .. => sw
  | .neg sw .. => sw
  | .clz sw .. => sw
  | .popc sw .. => sw
  | .cvtInt sw .. => sw
  | .sel sw .. => sw
  | .bfe sw .. => sw
  | .bfeI sw .. => sw
  | .bfi sw .. => sw
  | .setc sw .. => sw
  | .movk sw .. => sw
  | .movm sw .. => sw
  | .setm sw .. => sw
  | .movq sw .. => sw
  | .setq sw .. => sw
  | .shuf sw .. => sw
  | .voteAny sw .. => sw
  | .voteAll sw .. => sw
  | .voteBallot sw .. => sw
  | .elect sw .. => sw
  | .matchAny sw .. => sw
  | .redux sw .. => sw
  | .scanIncl sw .. => sw
  | .scanExcl sw .. => sw
  | .pack6 sw .. => sw
  | .unpack6 sw .. => sw
  | .addF sw .. => sw
  | .subF sw .. => sw
  | .mulF sw .. => sw
  | .scale sw .. => sw
  | .fma sw .. => sw
  | .fms sw .. => sw
  | .minF sw .. => sw
  | .minnum sw .. => sw
  | .maxF sw .. => sw
  | .maxnum sw .. => sw
  | .negF sw .. => sw
  | .absF sw .. => sw
  | .fclass sw .. => sw
  | .copysign sw .. => sw
  | .cmpF sw .. => sw
  | .fdot2 sw .. => sw
  | .fdot4 sw .. => sw
  | .rsum sw .. => sw
  | .rmax sw .. => sw
  | .rcp sw .. => sw
  | .rsqrt sw .. => sw
  | .sqrt sw .. => sw
  | .exp2 sw .. => sw
  | .log2 sw .. => sw
  | .tanh sw .. => sw
  | .cvtFloatFloat sw .. => sw
  | .cvtF32Binary8 sw .. => sw
  | .cvtF16Binary8 sw .. => sw
  | .cvtBf16Binary8 sw .. => sw
  | .cvtBinary8F32 sw .. => sw
  | .cvtBinary8F16 sw .. => sw
  | .cvtBinary8Bf16 sw .. => sw
  | .cvtFloatInteger sw .. => sw
  | .topk sw .. => sw
  | .ld sw .. => sw
  | .st sw .. => sw
  | .ldb sw .. => sw
  | .atom sw .. => sw
  | .cas sw .. => sw
  | .wupd sw .. => sw
  | .wred sw .. => sw
  | .fence sw .. => sw
  | .ink sw .. => sw
  | .inkq sw .. => sw
  | .inkwait sw .. => sw
  | .inksig sw .. => sw
  | .pref sw .. => sw
  | .ldround sw .. => sw
  | .ldroundAcq sw .. => sw
  | .round sw .. => sw
  | .cpy sw .. => sw
  | .cpyt sw .. => sw
  | .snap sw .. => sw
  | .gath sw .. => sw
  | .scatadd sw .. => sw
  | .waitc sw .. => sw
  | .waith sw .. => sw
  | .testh sw .. => sw
  | .cancelh sw .. => sw
  | .movhToV sw .. => sw
  | .movhToH sw .. => sw
  | .rgive sw .. => sw
  | .rtake sw .. => sw
  | .rfree sw .. => sw
  | .emit sw .. => sw
  | .mma sw .. => sw
  | .mmas sw .. => sw
  | .azero sw .. => sw
  | .ald sw .. => sw
  | .ast sw .. => sw
  | .palres sw .. => sw
  | .palrel sw .. => sw
  | .mgld sw .. => sw
  | .kstore sw .. => sw
  | .lgather sw .. => sw
  | .lgsig sw .. => sw
  | .lgproj sw .. => sw
  | .lgpool sw .. => sw
  | .lgcfg sw .. => sw
  | .lgclr sw .. => sw
  | .lgstat sw .. => sw
  | .movi sw .. => sw
  | .lea sw .. => sw
  | .pre sw .. => sw
  | .live sw .. => sw
  | .yield sw .. => sw
  | .off sw .. => sw
  | .scope sw .. => sw
  | _ => false

/-- Forms whose meaning sets the PC itself. -/
def Instr.setsPc : Instr → Bool
  | .br .. | .brs .. | .jmp .. | .jmpr .. | .call .. | .callr .. | .ret .. | .exit .. | .rtt .. => true
  | _ => false

/-- The numbers of R183. -/
def sysRegs : List (BitVec 7) :=
  [0x00, 0x01, 0x02, 0x03, 0x08, 0x09, 0x0A, 0x0C, 0x0D, 0x0E, 0x0F, 0x10, 0x11, 0x12, 0x13, 0x18, 0x19, 0x1A,
   0x20, 0x21, 0x22, 0x28, 0x29]

/-- Why a unit is ILLEGAL by its words alone (R178). -/
inductive IllForm where
  | floatType | operandCode | writesM0 | condition | f8Code | absUnsigned | opType | memForm | casPair | systemReg
  | fenceKind | scopeCode | preUnaccepted | preMask | preRound | preFourth | fourthMissing | ldbOperand
  | offUnaccepted | scopeUnaccepted | liveUnaccepted | preWord | liveRange | yieldCount
  deriving DecidableEq, Repr

/-- An F8 code names a format when P is not 0 (R203). -/
def f8Ok (f : BitVec 5) : Bool := f.extractLsb' 0 3 != 0#3

/-- A 6-bit format has P = 2 or 3 (R271). -/
def f6Ok (f : BitVec 5) : Bool := f.extractLsb' 0 3 == 2#3 || f.extractLsb' 0 3 == 3#3

/-- The pairs of operation and element code that R220 allows. -/
def opElemOk (o : BitVec 3) (e : BitVec 4) : Bool :=
  if e.toNat < 8 then o != 7#3
  else if e.toNat ≤ 10 then o == 0#3 || o == 2#3 || o == 3#3
  else false

/-- The scope in force: the SCOPE hint's code if there is one, else the field (R195). -/
def Hints.scopeOr (h : Hints) (c : BitVec 3) : BitVec 3 :=
  match h.scope with
  | some s => s
  | none => c

/-- A scope 1 to 5 (R197). -/
def scopeOk (c : BitVec 3) : Bool := 1 ≤ c.toNat && c.toNat ≤ 5

/-- The combinations R197 allows for ld, st, ldb, atom and cas; a scope hint on a plain ld or st, or on ldb, is
ILLEGAL whatever its code (R195). -/
def memFormOk (h : Hints) : Instr → Bool
  | .ld _ _ _ _ o c p =>
    (p.toNat ≤ 3) && ((o == 0#2 && c == 0#3 && h.scope.isNone) || (o == 1#2 && scopeOk (h.scopeOr c)))
  | .st _ z _ _ o c p =>
    !z.signed && (p.toNat ≤ 3)
      && ((o == 0#2 && c == 0#3 && h.scope.isNone) || (o == 2#2 && scopeOk (h.scopeOr c)))
  | .ldb _ _ _ _ o p => (p.toNat ≤ 3) && (o.toNat ≤ 1) && h.scope.isNone
  | .atom _ z _ _ _ c p =>
    (z.bits == 32 || z.bits == 64) && scopeOk (h.scopeOr c) && (p != 7#3 || z == .n32)
  | .cas _ z _ _ _ c => (z.bits == 32 || z.bits == 64) && scopeOk (h.scopeOr c)
  | _ => true

/-- The float types a form allows (R201, R298). -/
def floatTypeOk : Instr → Bool
  | .fdot2 _ f _ _ _ | .fdot4 _ f _ _ _ => f == .f16 || f == .bf16
  | .addF _ f _ _ _ | .subF _ f _ _ _ | .mulF _ f _ _ _ | .scale _ f _ _ _ | .fma _ f _ _ _ | .fms _ f _ _ _
  | .minF _ f _ _ _ | .minnum _ f _ _ _ | .maxF _ f _ _ _ | .maxnum _ f _ _ _ | .negF _ f _ _ | .absF _ f _ _
  | .fclass _ f _ _ | .copysign _ f _ _ _ | .cmpF _ f _ _ _ _ | .rsum _ f _ _ | .rmax _ f _ _
  | .rcp _ _ f _ | .rsqrt _ _ f _ | .sqrt _ _ f _ | .exp2 _ _ f _ | .log2 _ _ f _ | .tanh _ _ f _
  | .topk _ f _ _ _ => f != .rsv
  | .cvtFloatFloat _ _ y z _ => y != .rsv && z != .rsv
  | .cvtFloatInteger _ _ _ g _ _ => g != .rsv
  | _ => true

/-- Codes whose fields the form limits (R201, R203, R220, R224, R258, R260, R271). -/
def fieldCheck : Instr → Option IllForm
  | .cmp _ _ c _ _ _ => if c.toNat ≤ 5 then none else some .condition
  | .abs _ _ t _ => if t.signed then none else some .absUnsigned
  | .redux _ _ o e _ | .scanIncl _ _ o e _ | .scanExcl _ _ o e _ | .wupd _ o e _ _ | .wred _ o e _ _ =>
    if opElemOk o e then none else some .opType
  | .pack6 _ _ _ f _ | .unpack6 _ _ f _ => if f6Ok f then none else some .f8Code
  | .cvtF32Binary8 _ _ _ f _ | .cvtF16Binary8 _ _ _ f _ | .cvtBf16Binary8 _ _ _ f _
  | .cvtBinary8F32 _ _ f _ | .cvtBinary8F16 _ _ f _ | .cvtBinary8Bf16 _ _ f _ =>
    if f8Ok f then none else some .f8Code
  | .fence _ k => if k = 0#2 then some .fenceKind else none
  | .mfs _ _ r | .mts _ r _ => if sysRegs.contains r then none else some .systemReg
  | .cas _ _ d _ _ _ => if d = 127#7 then some .casPair else none
  | _ => none

/-- SCOPE codes: 0 is ILLEGAL on the forms whose scope only the hint supplies (R220, R224, R231). -/
def scopeCheck (h : Hints) : Instr → Option IllForm
  | .wupd .. | .wred .. | .fence .. | .ldroundAcq .. | .round .. =>
    match h.scope with
    | some s => if scopeOk s then none else some .scopeCode
    | none => none
  | _ => none

/-- PRE: the parts of it that the form accepts (R191, R202, R214). -/
def preCheck (h : Hints) (i : Instr) : Option IllForm :=
  match h.pre with
  | none => match i with
    | .ldb .. => some .fourthMissing
    | _ => none
  | some p =>
    if !i.acceptsPre then some .preUnaccepted
    else if !i.acceptsMask && (p.mask != 0#3 || p.z) then some .preMask
    else if !i.acceptsRm && p.rm != 0#3 then some .preRound
    else if !i.acceptsFourth && p.f then some .preFourth
    else match i with
      | .ldb _ _ _ _ o _ =>
        if !p.f then some .fourthMissing
        else if o == 1#2 && 0x7E < p.opnd.toNat then some .ldbOperand
        else none
      | _ => none

/-- The checks of the hint words themselves (R191 to R195); which hints a unit already holds decides a repeat. -/
def hintCheck (h : Hints) : Instr → Option IllForm
  | .pre _ _ _ rm f b =>
    if h.pre.isSome || rm == 7#3 || (!f && b != 0#8) || (f && 0xE6 ≤ b.toNat)
      || (f && (b == 0xE0#8 || b == 0xE1#8)) then some .preWord else none
  | .live _ lo hi => if 8 ≤ h.live.length || hi.toNat < lo.toNat then some .liveRange else none
  | .yield _ n => if n = 0#8 || h != Hints.empty then some .yieldCount else none
  | .off _ _ => if h.off.isSome then some .offUnaccepted else none
  | .scope _ c => if h.scope.isSome || 6 ≤ c.toNat then some .scopeCode else none
  | _ => none

/-- The first check of R178 that the words of a unit fail, `h` its hints and `i` the word reached. -/
def formCheck (h : Hints) (i : Instr) : Option IllForm :=
  if i.isHint then hintCheck h i
  else if !floatTypeOk i then some .floatType
  else if (match i.opnd with | some (.rsv _) => true | _ => false) then some .operandCode
  else if (match i.mWrites with | some m => m == 0#3 | none => false) then some .writesM0
  else match fieldCheck i with
  | some e => some e
  | none =>
    if !h.live.isEmpty && (match i with | .brs .. => false | _ => true) then some .liveUnaccepted
    else if h.off.isSome && !i.acceptsOff then some .offUnaccepted
    else if h.scope.isSome && !i.acceptsScope
      && (match i with | .ldb .. => false | _ => true) then some .scopeUnaccepted
    else if !memFormOk h i then some .memForm
    else match scopeCheck h i with
    | some e => some e
    | none => preCheck h i

/-- The v registers of a unit, by the field that names them: a, b, d (two for cas) and the fourth operand (two for an absolute
ldb, R214). -/
def aRegs (i : Instr) : List Nat := match i.aReg with | some r => [r.toNat] | none => []
def bRegs (i : Instr) : List Nat := match i.opnd with | some (.v r) => [r.toNat] | _ => []
def dRegs (i : Instr) : List Nat :=
  match i.dReg with
  | some r => match i with
    | .cas .. => [r.toNat, r.toNat + 1]
    | _ => [r.toNat]
  | none => []
def fourthRegs (h : Hints) (i : Instr) : List Nat :=
  match h.fourth with
  | some (.v r) => match i with
    | .ldb _ _ _ _ o _ => if o == 1#2 then [r.toNat, r.toNat + 1] else [r.toNat]
    | _ => [r.toNat]
  | _ => []

/-- The v registers that a unit reads or writes, in the order of R187: a, b, d, fourth operand. -/
def unitRegs (h : Hints) (i : Instr) : List Nat := aRegs i ++ bRegs i ++ dRegs i ++ fourthRegs h i

/-- The old v(d) is an operand, or its masked elements stay (R187, R191). -/
def keepsD (h : Hints) (i : Instr) : Bool := i.readsD || (i.acceptsMask && h.mask.1 != 0#3 && !h.mask.2)

/-- The v registers that an instruction reads (R81, R184): d only where its old value counts. A hint word reads none: what it names is
captured with the instruction of its unit (R196). -/
def readRegs (h : Hints) (i : Instr) : List Nat :=
  if i.isHint then [] else aRegs i ++ bRegs i ++ (if keepsD h i then dRegs i else []) ++ fourthRegs h i

/-- The registers of a unit that its group's allotment must cover (R182): those of `unitRegs` and the LIVE ranges. -/
def namedRegs (h : Hints) (i : Instr) : List Nat := unitRegs h i ++ h.live.map (fun r => r.2.toNat)

end Sys2Proof
end

