-- ==== Sys2Proof/Machine/Float.lean ====
section
/-! DEFINITION. The number formats, their exact values, rounding and the exact-sum rule (R272 to R286). -/

namespace Sys2Proof

/-! ### Flags (R288) -/

/-- A set of FPF bits. -/
abbrev Flags := BitVec 6
def flagNX : Flags := 1
def flagUF : Flags := 2
def flagOF : Flags := 4
def flagDZ : Flags := 8
def flagNV : Flags := 16
def flagDF : Flags := 32

/-- The rounding modes of R280. -/
inductive RMode where
  | rne | rtz | rup | rdn | rna
  deriving DecidableEq, Repr

/-- Codes 1 to 5 of R280; any other code is RNE here, and reaches this only where R191 or R287 exclude it. -/
def RMode.ofCode (n : Nat) : RMode :=
  if n = 2 then .rtz else if n = 3 then .rup else if n = 4 then .rdn else if n = 5 then .rna else .rne

/-- What a code stands for: a NaN, signalling or quiet, an infinity, or (−1)^neg × m × 2^e. -/
inductive FVal where
  | nan (signalling : Bool)
  | inf (neg : Bool)
  | fin (neg : Bool) (m : Nat) (e : Int)
  deriving DecidableEq, Repr

/-- A result's bits and the flags it raises. -/
structure FRes where
  bits : Nat
  flags : Flags
  deriving DecidableEq, Repr

/-- More flags on a result. -/
def FRes.more (r : FRes) (fl : Flags) : FRes := ⟨r.bits, r.flags ||| fl⟩

/-! ### IEEE formats (R272) -/

/-- Bits of the exponent field. -/
def FT.expBits : FT → Nat
  | .f16 => 5 | _ => 8
/-- Bits of the trailing significand. -/
def FT.trail : FT → Nat
  | .f32 => 23 | .f16 => 10 | _ => 7
def FT.bias (f : FT) : Nat := 2 ^ (FT.expBits f - 1) - 1
/-- Exponent of the smallest normal magnitude. -/
def FT.emin (f : FT) : Int := 1 - (FT.bias f : Int)
/-- Canonical NaN (R272, R273). -/
def FT.qnan (f : FT) : Nat := (2 ^ (FT.expBits f) - 1) * 2 ^ FT.trail f + 2 ^ (FT.trail f - 1)
/-- The infinity of a sign. -/
def FT.infBits (f : FT) (neg : Bool) : Nat :=
  (if neg then 2 ^ (f.bits - 1) else 0) + (2 ^ (FT.expBits f) - 1) * 2 ^ FT.trail f
/-- The largest finite magnitude with a sign. -/
def FT.maxBits (f : FT) (neg : Bool) : Nat := FT.infBits f neg - 1
/-- The zero of a sign. -/
def FT.zeroBits (f : FT) (neg : Bool) : Nat := if neg then 2 ^ (f.bits - 1) else 0

/-- The value of a code (R272). -/
def FT.decode (f : FT) (x : Nat) : FVal :=
  let x := x % 2 ^ f.bits
  let neg := 2 ^ (f.bits - 1) ≤ x
  let e := (x / 2 ^ FT.trail f) % 2 ^ FT.expBits f
  let t := x % 2 ^ FT.trail f
  if e = 2 ^ FT.expBits f - 1 then
    if t = 0 then .inf neg else .nan (decide (t < 2 ^ (FT.trail f - 1)))
  else if e = 0 then .fin neg t (FT.emin f - FT.trail f)
  else .fin neg (2 ^ FT.trail f + t) ((e : Int) - FT.bias f - FT.trail f)

/-- A subnormal code of a format. -/
def FT.subnormal (f : FT) (x : Nat) : Bool :=
  (x / 2 ^ FT.trail f) % 2 ^ FT.expBits f == 0 && x % 2 ^ FT.trail f != 0

/-- A source as an instruction reads it: FTZ turns a subnormal into a zero of its sign and sets DF (R274). -/
def FT.source (f : FT) (ftz : Bool) (x : Nat) : FVal × Flags :=
  let v := f.decode x
  if ftz && f.subnormal x then
    match v with
    | .fin neg _ e => (.fin neg 0 e, flagDF)
    | v => (v, 0)
  else (v, 0)

/-! ### Rounding (R280, R281) -/

/-- Bits of a magnitude. -/
def bitLen (m : Nat) : Nat := if m = 0 then 0 else Nat.log2 m + 1

/-- Whether a discarded part `r` of `2^k` rounds the magnitude `h` up (R280). At precision 1 both neighbours of a tie have the last
significand bit 1, so neither is even: RNE takes the greater magnitude there (DESIGN CHOICE, log entry 49). -/
def roundsUp (mode : RMode) (neg : Bool) (h r k : Nat) : Bool :=
  match mode with
  | .rtz => false
  | .rup => !neg && r != 0
  | .rdn => neg && r != 0
  | .rne => decide (2 ^ k < 2 * r) || (decide (2 * r = 2 ^ k) && decide (h % 2 = 1))
  | .rna => decide (2 ^ k ≤ 2 * r) && r != 0

/-- A magnitude m × 2^e rounded to a multiple of 2^q: the multiple, and whether it is inexact. -/
def roundAt (mode : RMode) (neg : Bool) (m : Nat) (e q : Int) : Nat × Bool :=
  if q ≤ e then (m * 2 ^ (e - q).toNat, false)
  else
    let k := (q - e).toNat
    let h := m / 2 ^ k
    let r := m % 2 ^ k
    (if roundsUp mode neg h r k then h + 1 else h, r != 0)

/-- Comparison of two magnitudes a × 2^ea ≤ b × 2^eb. -/
def magLe (a : Nat) (ea : Int) (b : Nat) (eb : Int) : Bool :=
  if ea ≤ eb then decide (a ≤ b * 2 ^ (eb - ea).toNat) else decide (a * 2 ^ (ea - eb).toNat ≤ b)

/-- A magnitude rounded to `p` bits of precision with the least exponent of a format (R280): the multiple, its
exponent, whether it is inexact, and whether it is tiny (detection after rounding). -/
def roundMag (p : Nat) (emin : Int) (mode : RMode) (neg : Bool) (m : Nat) (e : Int) : Nat × Int × Bool × Bool :=
  let q : Int := e + bitLen m - p
  let q0 : Int := emin - (p - 1 : Nat)
  let qq := if q0 ≤ q then q else q0
  let (d, inexact) := roundAt mode neg m e qq
  let (u, _) := roundAt mode neg m e q
  (d, qq, inexact, m != 0 && !(magLe 1 emin u q))

/-- Modes under which an overflow gives the largest finite magnitude (R281). -/
def towardZero (mode : RMode) (neg : Bool) : Bool :=
  match mode with
  | .rtz => true
  | .rup => neg
  | .rdn => !neg
  | _ => false

/-- The code of a rounded magnitude d × 2^q of an IEEE format that does not overflow. -/
def FT.encode (f : FT) (neg : Bool) (d : Nat) (q : Int) : Nat :=
  let s := FT.zeroBits f neg
  if d = 0 then s
  else
    let top : Int := q + bitLen d - 1
    if top < FT.emin f then s + d
    else
      let t := if FT.trail f + 1 < bitLen d then d / 2 ^ (bitLen d - 1 - FT.trail f)
        else d * 2 ^ (FT.trail f + 1 - bitLen d)
      s + (top + FT.bias f).toNat * 2 ^ FT.trail f + (t - 2 ^ FT.trail f)

/-- An exact nonzero or zero value rounded into an IEEE format (R274, R280, R281). -/
def FT.round (f : FT) (mode : RMode) (ftz : Bool) (neg : Bool) (m : Nat) (e : Int) : FRes :=
  if m = 0 then ⟨FT.zeroBits f neg, 0⟩
  else
    let (d, q, inexact, tiny) := roundMag (FT.trail f + 1) (FT.emin f) mode neg m e
    if tiny && ftz then ⟨FT.zeroBits f neg, flagUF ||| flagNX⟩
    else if FT.bias f < q + bitLen d - 1 then
      ⟨if towardZero mode neg then FT.maxBits f neg else FT.infBits f neg, flagOF ||| flagNX⟩
    else ⟨FT.encode f neg d q, (if inexact then flagNX else 0) ||| (if tiny && inexact then flagUF else 0)⟩

/-- A value delivered in an IEEE format: NaNs are canonical (R273), infinities exact. -/
def FT.deliver (f : FT) (mode : RMode) (ftz : Bool) : FVal → FRes
  | .nan s => ⟨FT.qnan f, if s then flagNV else 0⟩
  | .inf neg => ⟨FT.infBits f neg, 0⟩
  | .fin neg m e => f.round mode ftz neg m e

/-! ### The exact-sum rule (R285) -/

/-- A term of a sum: a value, or an invalid product. -/
inductive Term where
  | val (v : FVal)
  | invalid
  deriving DecidableEq, Repr

/-- The exact product of two values (R285). -/
def FVal.mul : FVal → FVal → Term
  | .nan a, .nan b => .val (.nan (a || b))
  | .nan a, _ => .val (.nan a)
  | _, .nan b => .val (.nan b)
  | .inf a, .inf b => .val (.inf (a != b))
  | .inf a, .fin b m _ => if m = 0 then .invalid else .val (.inf (a != b))
  | .fin a m _, .inf b => if m = 0 then .invalid else .val (.inf (a != b))
  | .fin a m e, .fin b n g => .val (.fin (a != b) (m * n) (e + g))

/-- The product of a term and a value. -/
def Term.mul : Term → FVal → Term
  | .invalid, _ => .invalid
  | .val v, w => FVal.mul v w

/-- The negated value. -/
def FVal.neg : FVal → FVal
  | .nan s => .nan s
  | .inf n => .inf (!n)
  | .fin n m e => .fin (!n) m e

/-- What a sum has met so far: NaN, NV, the infinities, the exact total t × 2^e, and whether every term is −0. -/
structure FSum where
  nan : Bool
  nv : Bool
  pinf : Bool
  ninf : Bool
  t : Int
  e : Int
  negZero : Bool
  deriving DecidableEq, Repr

def FSum.empty : FSum := ⟨false, false, false, false, 0, 0, true⟩

/-- t × 2^e + d × 2^g, exactly. -/
def addScaled (t : Int) (e : Int) (d : Int) (g : Int) : Int × Int :=
  if t = 0 then (d, g) else if d = 0 then (t, e)
  else if e ≤ g then (t + d * 2 ^ (g - e).toNat, e) else (t * 2 ^ (e - g).toNat + d, g)

/-- One more term. -/
def FSum.add (s : FSum) : Term → FSum
  | .invalid => { s with nan := true, nv := true, negZero := false }
  | .val (.nan sig) => { s with nan := true, nv := s.nv || sig, negZero := false }
  | .val (.inf neg) => { s with pinf := s.pinf || !neg, ninf := s.ninf || neg, negZero := false }
  | .val (.fin neg m e) =>
    let (t, g) := addScaled s.t s.e (if neg then -(m : Int) else m) e
    { s with t := t, e := g, negZero := s.negZero && neg && m == 0 }

/-- The sum of terms. -/
def sumTerms (ts : List Term) : FSum := ts.foldl FSum.add FSum.empty

/-- A sum rounded once into an IEEE format (R285). -/
def FSum.round (s : FSum) (f : FT) (mode : RMode) (ftz : Bool) : FRes :=
  if s.nan then ⟨FT.qnan f, if s.nv || (s.pinf && s.ninf) then flagNV else 0⟩
  else if s.pinf && s.ninf then ⟨FT.qnan f, flagNV⟩
  else if s.pinf then ⟨FT.infBits f false, 0⟩
  else if s.ninf then ⟨FT.infBits f true, 0⟩
  else if s.t = 0 then ⟨FT.zeroBits f (s.negZero || mode == .rdn), 0⟩
  else f.round mode ftz (decide (s.t < 0)) s.t.natAbs s.e

/-! ### Order of values (R270, R294) -/

/-- a ≤ b for values that are no NaN, with −0 below +0. -/
def FVal.le : FVal → FVal → Bool
  | .inf true, _ => true
  | _, .inf false => true
  | .inf false, _ => false
  | _, .inf true => false
  | .fin true m e, .fin true n g => magLe n g m e
  | .fin false m e, .fin false n g => magLe m e n g
  | .fin true _ _, .fin false _ _ => true
  | .fin false _ _, .fin true _ _ => false
  | _, _ => false

/-- a < b numerically, neither NaN; −0 and +0 are equal. -/
def FVal.lt (a b : FVal) : Bool :=
  match a, b with
  | .fin _ 0 _, .fin _ 0 _ => false
  | a, b => !FVal.le b a

/-- Numerically equal, neither NaN. -/
def FVal.eq (a b : FVal) : Bool := !FVal.lt a b && !FVal.lt b a

def FVal.isNan : FVal → Bool
  | .nan _ => true
  | _ => false
def FVal.isSnan : FVal → Bool
  | .nan true => true
  | _ => false

/-! ### Binary8 and the 6-bit formats (R276 to R279) -/

/-- A binary8 or 6-bit format: bits, domain, signedness, P (R203, R278, R279). -/
structure Tiny where
  n : Nat
  finite : Bool
  unsigned : Bool
  p : Nat
  deriving DecidableEq, Repr

/-- The format of an F8 code (R203). -/
def Tiny.ofCode (n : Nat) (f : BitVec 5) : Tiny := ⟨n, f.getLsbD 4, f.getLsbD 3, (f.extractLsb' 0 3).toNat⟩

/-- Exponent width (R276, R279). -/
def Tiny.w (t : Tiny) : Nat := if t.unsigned then t.n + 1 - t.p else t.n - t.p
def Tiny.bias (t : Tiny) : Int := 2 ^ (t.w - 1)
/-- Exponent of the smallest normal. -/
def Tiny.emin (t : Tiny) : Int := 1 - t.bias
/-- The NaN code (R277, R279). -/
def Tiny.nanCode (t : Tiny) : Nat := if t.unsigned then 2 ^ t.n - 1 else 2 ^ (t.n - 1)
/-- The codes of the infinities of the extended domain. -/
def Tiny.infCode (t : Tiny) (neg : Bool) : Nat :=
  if t.unsigned then 2 ^ t.n - 2 else if neg then 2 ^ t.n - 1 else 2 ^ (t.n - 1) - 1
/-- The code of ±MF. -/
def Tiny.mfCode (t : Tiny) (neg : Bool) : Nat := if t.finite then t.infCode neg else t.infCode neg - 1

/-- The value of a code by R276 alone. -/
def Tiny.plain (t : Tiny) (x : Nat) : FVal :=
  let neg := !t.unsigned && decide (2 ^ (t.n - 1) ≤ x)
  let e := (x / 2 ^ (t.p - 1)) % 2 ^ t.w
  let m := x % 2 ^ (t.p - 1)
  if e = 0 then .fin neg m (1 - t.bias - (t.p - 1 : Nat))
  else .fin neg (2 ^ (t.p - 1) + m) ((e : Int) - t.bias - (t.p - 1 : Nat))

/-- The value of a code (R276, R277, R279). Its NaN is quiet (R273). -/
def Tiny.decode (t : Tiny) (x : Nat) : FVal :=
  let x := x % 2 ^ t.n
  if x = t.nanCode then .nan false
  else if !t.finite && x = t.infCode false then .inf false
  else if !t.finite && !t.unsigned && x = t.infCode true then .inf true
  else t.plain x

/-- The code of a rounded magnitude that does not pass MF. A zero is +0. -/
def Tiny.encode (t : Tiny) (neg : Bool) (d : Nat) (q : Int) : Nat :=
  if d = 0 then 0
  else
    let s := if neg && !t.unsigned then 2 ^ (t.n - 1) else 0
    let top : Int := q + bitLen d - 1
    if top < t.emin then s + d
    else
      let m := if t.p < bitLen d then d / 2 ^ (bitLen d - t.p) else d * 2 ^ (t.p - bitLen d)
      s + (top + t.bias).toNat * 2 ^ (t.p - 1) + (m - 2 ^ (t.p - 1))

/-- Conversion into a binary8 or 6-bit format (R282). -/
def Tiny.convert (t : Tiny) (mode : RMode) (sat : Bool) : FVal → FRes
  | .nan s => ⟨t.nanCode, if s then flagNV else 0⟩
  | .inf neg =>
    if neg && t.unsigned then ⟨if sat then 0 else t.nanCode, flagNV⟩
    else if sat then ⟨t.mfCode neg, 0⟩
    else if t.finite then ⟨t.nanCode, 0⟩
    else ⟨t.infCode neg, 0⟩
  | .fin neg m e =>
    if m = 0 then ⟨0, 0⟩
    else if neg && t.unsigned then
      let (d, _, _, _) := roundMag t.p t.emin mode false m e
      if d = 0 then ⟨0, flagUF ||| flagNX⟩ else ⟨if sat then 0 else t.nanCode, flagNV⟩
    else
      let (d, q, inexact, tiny) := roundMag t.p t.emin mode neg m e
      if d = 0 then ⟨0, flagUF ||| flagNX⟩
      else
        let big := match t.plain (t.mfCode false) with
          | .fin _ mm me => !magLe d q mm me
          | _ => false
        if big then
          if sat || towardZero mode neg then ⟨t.mfCode neg, flagOF ||| flagNX⟩
          else ⟨if t.finite then t.nanCode else t.infCode neg, flagOF ||| flagNX⟩
        else ⟨t.encode neg d q, (if inexact then flagNX else 0) ||| (if tiny && inexact then flagUF else 0)⟩

/-! ### Integers (R275) -/

/-- A two's complement number of `w` bits. -/
def toSigned (w x : Nat) : Int := if 2 ^ (w - 1) ≤ x % 2 ^ w then (x % 2 ^ w : Nat) - (2 ^ w : Int) else (x % 2 ^ w : Nat)

/-- A `w`-bit pattern of an integer. -/
def toBits (w : Nat) (x : Int) : Nat := (x % (2 ^ w : Int)).toNat

/-- A value rounded to an integer of `w` bits (R275, R303). Out of range it sets NV alone, for INT8 as for INT32 (DEDUCED, log entry 65). -/
def toInteger (w : Nat) (mode : RMode) : FVal → FRes
  | .nan _ => ⟨0, flagNV⟩
  | .inf neg => ⟨if neg then 2 ^ (w - 1) else 2 ^ (w - 1) - 1, flagNV⟩
  | .fin neg m e =>
    let (d, inexact) := roundAt mode neg m e 0
    if neg && decide (2 ^ (w - 1) < d) then ⟨2 ^ (w - 1), flagNV⟩
    else if !neg && decide (2 ^ (w - 1) ≤ d) then ⟨2 ^ (w - 1) - 1, flagNV⟩
    else ⟨toBits w (if neg then -(d : Int) else d), if inexact then flagNX else 0⟩

/-- An integer as a value. -/
def intVal (x : Int) : FVal := .fin (decide (x < 0)) x.natAbs 0

/-- An integer operand in a float element, rounded with RNE and no flag (R180). -/
def intToFloat (f : FT) (x : Int) : Nat := (f.deliver .rne false (intVal x)).bits

end Sys2Proof
end

