-- ==== Sys2Proof/Machine/FloatFn.lean ====
section
/-! DEFINITION. The special functions (R300, R301): each result is the exact real value rounded once with RNE. The
algebraic functions are computed exactly. exp2, log2 and tanh are computed in fixed point with 320 fraction bits and a
sticky bit below them; log entry 10 says why that rounds as the exact value does. -/

namespace Sys2Proof

/-- Integer square root, rounded down, by digits. -/
def isqrtFrom (n : Nat) : Nat → Nat → Nat
  | 0, r => r
  | k + 1, r => isqrtFrom n k (if (r + 2 ^ k) * (r + 2 ^ k) ≤ n then r + 2 ^ k else r)
def isqrt (n : Nat) : Nat := isqrtFrom n (bitLen n / 2 + 1) 0

/-- A magnitude known to lie in [h, h + 1) × 2^e: twice `h`, with a last bit that says whether it is above h. -/
def stickyMag (h : Nat) (above : Bool) : Nat := 2 * h + (if above then 1 else 0)

/-- A special result: a fixed value with its flags, or a magnitude to round. -/
inductive SpecialRes where
  | bits (r : FRes)
  | mag (neg : Bool) (m : Nat) (e : Int)
  deriving DecidableEq, Repr

/-- 1 / (m × 2^e), m not 0. -/
def recipMag (m : Nat) (e : Int) : Nat × Int :=
  let k := 2 * bitLen m + 64
  (stickyMag (2 ^ k / m) (2 ^ k % m != 0), -e - k - 1)

/-- √(m × 2^e). -/
def sqrtMag (m : Nat) (e : Int) : Nat × Int :=
  let m1 := if e % 2 = 0 then m else 2 * m
  let e1 := if e % 2 = 0 then e else e - 1
  let n := m1 * 2 ^ 128
  let r := isqrt n
  (stickyMag r (r * r != n), e1 / 2 - 64 - 1)

/-- 1 / √(m × 2^e), m not 0. -/
def rsqrtMag (m : Nat) (e : Int) : Nat × Int :=
  let m1 := if e % 2 = 0 then m else 2 * m
  let e1 := if e % 2 = 0 then e else e - 1
  let k := 2 * (bitLen m1 + 64)
  let r := isqrt (2 ^ k / m1)
  (stickyMag r (r * r * m1 != 2 ^ k), -(e1 / 2) - (k / 2 : Nat) - 1)

/-- Fraction bits of the fixed-point computations. -/
def fixBits : Nat := 320
def fixOne : Nat := 2 ^ fixBits

/-- Σ 1 / (k 2^k) for k from `k` on, `n` terms: ln 2 in fixed point. -/
def lnTwoFrom : Nat → Nat → Nat
  | 0, _ => 0
  | n + 1, k => fixOne / (k * 2 ^ k) + lnTwoFrom n (k + 1)
def lnTwo : Nat := lnTwoFrom 330 1

/-- e^r for r in [0, 1) in fixed point: the series from the term t = r^k / k!, `n` terms. -/
def expFrom (r : Nat) : Nat → Nat → Nat → Nat
  | 0, _, _ => 0
  | n + 1, k, t => t + expFrom r n (k + 1) (t * r / fixOne / (k + 1))
def fixExp (r : Nat) : Nat := expFrom r 90 0 fixOne

/-- Σ z^(2k+1) / (2k+1): the series of artanh z from the power p = z^(2k+1), `n` terms. -/
def artanhFrom (z2 : Nat) : Nat → Nat → Nat → Nat
  | 0, _, _ => 0
  | n + 1, k, p => p / (2 * k + 1) + artanhFrom z2 n (k + 1) (p * z2 / fixOne)

/-- log2 of y in [1, 2), y in fixed point. -/
def fixLog2 (y : Nat) : Nat :=
  let z := (y - fixOne) * fixOne / (y + fixOne)
  2 * artanhFrom (z * z / fixOne) 110 0 z * fixOne / lnTwo

/-- 2^x for x = ±m × 2^e, x no integer of small size; magnitudes past every format are cut. -/
def exp2Mag (neg : Bool) (m : Nat) (e : Int) : Nat × Int :=
  if magLe 512 0 m e then (1, if neg then -100000 else 100000)
  else if magLe m e 1 (-200) then
    -- within 2^-200 of 1, and not 1 when m is not 0
    if m = 0 then (1, 0) else if neg then (2 ^ 201 - 1, -201) else (2 ^ 200 + 1, -200)
  else
    -- x in fixed point; exact, since e ≥ -320 here
    let x : Int := (if neg then -1 else 1) * (if 0 ≤ e + fixBits then (m * 2 ^ (e + fixBits).toNat : Nat) else
      (m / 2 ^ (-(e + fixBits)).toNat : Nat))
    let i := x / fixOne
    let f := (x % fixOne).toNat
    if f = 0 then (1, i) else (stickyMag (fixExp (f * lnTwo / fixOne)) true, i - fixBits - 1)

/-- log2 (m × 2^e), m not 0: sign, magnitude, exponent. -/
def log2Mag (m : Nat) (e : Int) : Bool × Nat × Int :=
  let k := bitLen m - 1
  let i : Int := e + k
  if m = 2 ^ k then (decide (i < 0), i.natAbs, 0)
  else
    let y := m * 2 ^ (fixBits - k)
    let x : Int := i * fixOne + fixLog2 y
    (decide (x < 0), stickyMag x.natAbs true, -(fixBits : Int) - 1)

/-- tanh of the magnitude m × 2^e, m not 0. -/
def tanhMag (m : Nat) (e : Int) : Nat × Int :=
  if magLe m e 1 (-60) then (m * 2 ^ 100 - 1, e - 100)
  else if magLe 64 0 m e then (2 ^ 200 - 1, -200)
  else
    let x := if 0 ≤ e + fixBits then m * 2 ^ (e + fixBits).toNat else m / 2 ^ (-(e + fixBits)).toNat
    let k := 2 * x / lnTwo
    let r := 2 * x - k * lnTwo
    let t := fixExp r * 2 ^ k
    (stickyMag ((t - fixOne) * 2 ^ fixBits / (t + fixOne)) true, -(fixBits : Int) - 1)

/-- The special functions of op 0x25. -/
inductive SpecialFn where
  | rcp | rsqrt | sqrt | exp2 | log2 | tanh
  deriving DecidableEq, Repr

/-- R301, and R300 for the finite inputs it leaves to it. -/
def special (fn : SpecialFn) (f : FT) (v : FVal) : SpecialRes :=
  let nan (fl : Flags) : SpecialRes := .bits ⟨f.qnan, fl⟩
  let zero (neg : Bool) : SpecialRes := .bits ⟨f.zeroBits neg, 0⟩
  let inf (neg : Bool) (fl : Flags) : SpecialRes := .bits ⟨f.infBits neg, fl⟩
  let pair (neg : Bool) (p : Nat × Int) : SpecialRes := .mag neg p.1 p.2
  match fn, v with
  | _, .nan s => nan (if s then flagNV else 0)
  | .rcp, .inf neg => zero neg
  | .rcp, .fin neg m e => if m = 0 then inf neg flagDZ else pair neg (recipMag m e)
  | .rsqrt, .inf neg => if neg then nan flagNV else zero false
  | .rsqrt, .fin neg m e =>
    if m = 0 then inf neg flagDZ else if neg then nan flagNV else pair false (rsqrtMag m e)
  | .sqrt, .inf neg => if neg then nan flagNV else inf false 0
  | .sqrt, .fin neg m e =>
    if m = 0 then zero neg else if neg then nan flagNV else pair false (sqrtMag m e)
  | .exp2, .inf neg => if neg then zero false else inf false 0
  | .exp2, .fin neg m e => pair false (exp2Mag neg m e)
  | .log2, .inf neg => if neg then nan flagNV else inf false 0
  | .log2, .fin neg m e =>
    if m = 0 then inf true flagDZ else if neg then nan flagNV
    else
      let (n, a, g) := log2Mag m e
      .mag n a g
  | .tanh, .inf neg => .mag neg 1 0
  | .tanh, .fin neg m e => if m = 0 then zero neg else pair neg (tanhMag m e)

/-- A special function of a code, rounded with RNE (R292, R300). -/
def specialBits (fn : SpecialFn) (f : FT) (ftz : Bool) (x : Nat) : FRes :=
  let (v, df) := f.source ftz x
  match special fn f v with
  | .bits r => ⟨r.bits, r.flags ||| df⟩
  | .mag neg m e =>
    let r := f.round .rne ftz neg m e
    ⟨r.bits, r.flags ||| df⟩

end Sys2Proof
end

