-- ==== Sys2Proof/Config.lean ====
section
/-! DEFINITION. What an implementation fixes, and the values the spec leaves free. -/

namespace Sys2Proof

/-- A value the spec leaves undefined (log entry 5): the n-th one the run has met. No body: nothing in Lean knows it. -/
opaque Config.freeValue : Nat → Word

/-- Compute dies of the module (R1). -/
def Config.dies : Nat := 8

/-- Active cores of a die (R5). -/
def Config.coresPerDie : Nat := 40

/-- Lines of an L1 (R55). -/
def Config.l1Lines : Nat := 4096

/-- Entries of a core's TLB (R43). -/
def Config.coreTlb : Nat := 256

/-- Entries of a die's TLB (R43). -/
def Config.dieTlb : Nat := 16384

/-- Lane requests at which the collector sends its oldest entry at once (R72). -/
def Config.collectorRequests : Nat := 256

/-- Products above which a matrix command asks for leave (R320). -/
def Config.leaveThreshold : Nat := 2 ^ 20

/-- Bytes of a core's quire memory (R6). -/
def Config.quireBytes : Nat := 256 * 1024

end Sys2Proof
end

