-- ==== Sys2Proof/Machine/State.lean ====
section
/-! DEFINITION. The state of the module, plain data: every piece of state the spec names (INVENTORY.md lists each with
its rule), the model's own fields (`inbox`, `cursor`, `bundle`, `uid`, `free`, `stop`), and `State.reset` (R426). -/

namespace Sys2Proof.Machine

/-- A table by number, its keys rising; an absent key reads as the table's default. -/
abbrev Tbl (α : Type) := List (Nat × α)

/-- Bytes by address in canonical form: addresses rising, no byte equal to 0, which an unlisted address reads as
(log entry 3). -/
abbrev Memory := List Host.Cell

/-- A stop of the machine itself. -/
inductive Fault where
  /-- A structure of the hardware itself (a walker, a queue, a host access) reached a physical address that R22 calls
  unpopulated, where the spec gives no effect. Raised by `Machine.step` once `State.stop` is set. Safe. -/
  | unpopulated (pa : Nat)
  deriving DecidableEq, Repr

/-- Why an instruction has no meaning here. -/
inductive Refusal where
  /-- The model has no meaning for the instruction. Raised by no arm of `exec` that has its meaning. Safe. -/
  | notModelled (mnemonic : String)
  deriving DecidableEq, Repr

/-- A trap a thread is to take (R385): its cause code, PAGE kind, ADDR, INFO and AUX. -/
structure Trap where
  cause : Nat
  kind : Nat
  addr : Word
  info : Word
  aux : Word
  /-- Where the instruction word that WORD records stands; none for a cause taken between units (R383). -/
  at_ : Option Word
  /-- The trapping instruction stands in the replay queue, and the thread's PC is past it (R38, R290, R387). -/
  keep : Bool
  deriving DecidableEq, Repr

/-- The operands an instruction captured at issue (R185, R384) and where it stands. `opA` to `opD` are a, b, d and the
fourth operand; `opE` is the second register of a pair. -/
structure Env where
  ctx : Nat
  core : Nat
  team : Nat
  tid : Nat
  /-- Number of the bundle's issue, common to its threads (R131). -/
  msg : Nat
  /-- Address of the first word of the unit. -/
  unit : Word
  /-- Address of the instruction's own word. -/
  pc : Word
  /-- Address of the word after the instruction and its literals. -/
  npc : Word
  opA : Word
  opB : Word
  opC : Word
  opD : Word
  opE : Word
  /-- Effective address, OFF applied (R194, R206). -/
  addr : Word
  hints : Hints
  /-- The value of the mask register that its PRE names, as captured (R196). -/
  mask : BitVec 8
  /-- The instruction was re-injected from a replay entry (R387). -/
  replay : Bool
  /-- WATCH of its replay entry (R384). -/
  watch : Bool
  /-- SETTLED of its replay entry, and its FLAGS (R384). -/
  settled : Bool
  flags : BitVec 6
  deriving DecidableEq, Repr

/-- A replay entry (R384). -/
structure Replay where
  word : W32
  valid : Bool
  watch : Bool
  settled : Bool
  flags : BitVec 6
  pcu : Word
  addr : Word
  opA : Word
  opB : Word
  opC : Word
  opD : Word
  /-- The hints of its unit and the mask they name, as captured at issue (R196); the 64 bytes hold neither. -/
  hints : Hints
  mask : BitVec 8
  deriving DecidableEq, Repr

/-- The hints that the entry of a word at a unit was captured with (R196). -/
structure Kept where
  word : W32
  pcu : Word
  hints : Hints
  mask : BitVec 8
  deriving DecidableEq, Repr

/-- What a thread still does once its pending releases are performed (R126, R138). -/
inductive After where
  | ret (ra : Word) | exit | rtt
  deriving DecidableEq, Repr

/-- Why a thread is blocked (R161). -/
inductive Why where
  /-- A request for ink `j`, for data at `va`, that has not reached its monitor block (R121). -/
  | inkReq (j : Nat) (msg : Nat) (va : Word)
  /-- Ticket `tk` of ink `j`, at monitor block `blk` of the Well, is not served (R130). -/
  | inkTicket (j tk blk : Nat) (va : Word)
  /-- INK waits for the old ink `j` of its granule number `i` (R136). -/
  | inkOld (j tk blk i : Nat)
  /-- INK stands at its granule number `i`: for a fault offered to host, with its key (R226), or for a block or a way that is
  not in place yet (R77). -/
  | inkFault (key i : Nat)
  | inkCarve (i : Nat)
  /-- Holds still to be released, highest first (R126, R127). -/
  | releasing (inks : List Nat) (after : After)
  /-- RET, EXIT, RTT or INKWAIT waits for the commands of its holds (R126, R133). -/
  | holdCmds
  /-- INKWAIT's change wait (R133). -/
  | watch (va : Word) (w0 : Word) (j : Nat) (s0 : BitVec 32)
  /-- An absolute bounded load below its minimum round (R149): region, minimum, timeout. -/
  | round (rgn : Nat) (n : Word) (timeout : Nat)
  | bar (id : Nat) | cbar (id : Nat)
  | ringGive (ring stage seq : Nat) | ringTake (ring stage seq : Nat)
  | waith (h : Word) | waitc (cls n : Nat)
  | coll
  | sleep (n : Nat)
  /-- A page fault offered to host (R38), or a snap's copy (R338): its key, and the address at which the thread met it. -/
  | fault (key : Nat) (va : Word)
  /-- An instruction fetch that met a fault offered to host. -/
  | fetch (key : Nat)
  /-- Parked at a switch marker (R186). -/
  | park
  /-- BRS parks before it evaluates its branch (R169); EXIT before its releases (R244). -/
  | parkFirst
  /-- A ninth outstanding instruction (R188). -/
  | outstanding
  /-- A block of a core's scratchpad, tiles or palette is not restored (R390). -/
  | restore (core block : Nat)
  /-- The Well way is not zero-filled (R77). -/
  | carve
  /-- The frame of the group slot is busy (R386). -/
  | frame
  /-- 256 unreported errors of a class stand on the core (R330). -/
  | errors (cls : Nat)
  /-- A node queue is full (R348). -/
  | nodeFull (node : Nat)
  /-- A head-set is closed (R353); lgcfg has read its record (R351). -/
  | ligClosed (set : Nat) (record : List Byte)
  /-- A closing operation waits for the commands of the set that passed issue before it, by core and SEQ (R351, R353, R355); lgcfg keeps
  its record. -/
  | ligDrain (set : Nat) (record : List Byte) (cmds : List (Nat × Nat))
  /-- palres and palrel wait for the commands that named the record when they were issued (R312). -/
  | palette (cmds : List Word)
  /-- A snap waits for the earlier snap of its context (R336). -/
  | snap
  /-- A bucket head is held until the chain block of a link is written (R359). -/
  | bucket
  deriving DecidableEq, Repr

/-- A blocked instruction: it runs again, with the operands it captured, when its wait ends. -/
structure Blocked where
  why : Why
  instr : Instr
  env : Env
  /-- Resident cycles waited (R132, R151, R171, R248). -/
  waited : Nat
  deriving DecidableEq, Repr

/-- The states of R161, and the two in which a thread is in no group. -/
inductive Status where
  | ready
  /-- Held by YIELD for `n` more slots (R164). -/
  | yielding (n : Nat)
  | blocked (b : Blocked)
  /-- The wait of `b` has ended: the instruction runs again in the next step. -/
  | waking (b : Blocked)
  /-- A replay queue is being re-injected (R387). -/
  | reinject
  /-- In quire memory (R167). -/
  | spawned
  | exited
  deriving DecidableEq, Repr

/-- An outstanding instruction of a thread (R188). -/
structure Outst where
  id : Nat
  instr : Instr
  env : Env
  /-- Bytes of a load that have arrived, lowest first. -/
  data : List (Option Byte)
  /-- The result, when it is ready to return, and the flags it raises (R290). -/
  result : Option Word
  flags : BitVec 6
  settled : Bool
  /-- A byte that has arrived was poisoned (R81). -/
  bad : Bool
  /-- It has trapped: it is outstanding no more, and stands in the replay queue (R188, R290). -/
  trapped : Bool
  deriving DecidableEq, Repr

/-- A hold register (R117); P is 1 while `cmds` is not empty. -/
structure Hold where
  ink : Nat
  depth : Nat
  w : Bool
  h : Bool
  /-- Handles of the recorded commands still outstanding (R129). -/
  cmds : List Word
  deriving DecidableEq, Repr

/-- What an instruction has read, or settled on, before it was held: the number of the bundle's issue; of a command the descriptor,
and the index vector or range list once it is read too (R328, R329). -/
structure IssueRead where
  msg : Nat
  desc : List Byte
  list : Option (List Nat)
  /-- GEN and configuration of the command's head-set, once its snapshot is taken (R353, R454). -/
  snap : Option (Nat × List Byte)
  /-- The inks of the access, each with its data address, once one of them is asked for: the access takes these, whatever an ink step
  does to its granules meanwhile (R120, R227). -/
  inks : Option (List (Nat × Word))
  deriving DecidableEq, Repr

/-- A thread. -/
structure Thread where
  ctx : Nat
  core : Nat
  team : Nat
  tid : Nat
  /-- Group slot and slot position where the thread stands (R167). -/
  slot : Nat
  pos : Nat
  tag : Nat
  pc : Word
  fd : Nat
  csn : BitVec 32
  v : Tbl Word
  /-- v registers whose parity fails (R80, R81). -/
  bad : List Nat
  m : Tbl (BitVec 8)
  h : Tbl Word
  holds : List Hold
  fpctl : Word
  fpf : BitVec 6
  age : Nat
  appendOrd : Nat
  status : Status
  pending : List Nat
  outs : List Outst
  hints : Hints
  /-- First word of the unit under way, when hints stand. -/
  unit : Option Word
  handler : Bool
  /-- Cycle from which a short result may be read, by register: v at 0 to 127, m at 128 to 135 (R184). -/
  ilock : Tbl Nat
  /-- A trap the thread waits to take (R386). -/
  trap : Option Trap
  /-- The replay entries that stand before the trapping instruction's followers, still to run (R387). -/
  replay : List Replay
  /-- The captured hints of the entries of its frame (R196). -/
  kept : List Kept
  /-- Its age has reached WDLIM, and WATCHDOG stands pending (R165, R388, R397). -/
  watchdog : Bool
  /-- A TIMER that stands pending: the GTCMP it fired at (R405). -/
  timerPend : Option Word
  ckptPend : Option Nat
  /-- A breakpoint stop has already been taken at this unit (R400). -/
  stepOver : Bool
  /-- What its instruction has read or settled on before it was held (R227, R329). -/
  issueRead : Option IssueRead
  deriving DecidableEq, Repr

/-- A rendezvous under way (R170): the home group, the CSN, the PC, the mask, its members and their operands. -/
structure Rendezvous where
  group : Nat
  csn : BitVec 32
  pc : Word
  mask : BitVec 32
  /-- Team thread indices arrived. -/
  arrived : List Nat
  /-- Resident cycles since the first arrival. -/
  waited : Nat
  deriving DecidableEq, Repr

/-- A barrier (R245). -/
structure Barrier where
  arrived : List Nat
  phase : BitVec 32
  deriving DecidableEq, Repr

/-- The states of a ring stage (R174). -/
inductive Stage where
  | free | full | taken
  deriving DecidableEq, Repr

/-- A group of a team: its slot, its allotment, role and priority (R159, R173). -/
structure Group where
  slot : Nat
  allot : Nat
  role : Option Role
  prio : Nat
  deriving DecidableEq, Repr

/-- A spawn record in quire memory (R167). -/
structure Spawn where
  tid : Nat
  pc : Word
  /-- Registers the record carries. -/
  live : List Nat
  bytes : Nat
  /-- Cycles waited (R168). -/
  waited : Nat
  deriving DecidableEq, Repr

/-- A team. -/
structure Team where
  ctx : Nat
  core : Nat
  launch : Nat
  /-- Ordinal in the launch, cluster number, core-in-cluster index and rank (R374). -/
  ordinal : Nat
  cluster : Nat
  index : Nat
  rank : Nat
  groups : List Group
  /-- Free spawn slots reserved for the team (R168). -/
  spawnSlots : List Nat
  hadSpawn : Bool
  c : Tbl Word
  q : Tbl Word
  mxf : BitVec 6
  gtime : Word
  gtcmp : Word
  bars : Tbl Barrier
  /-- Stage counts of rings 0 to 7; a count of 0 is undeclared. -/
  ringStages : Tbl Nat
  /-- State and phase bit of a stage, keyed ring * 16 + stage. -/
  rings : Tbl (Stage × Bool)
  scrBase : Nat
  scrSize : Nat
  tileBase : Nat
  tiles : Nat
  palKiB : Nat
  margBase : Nat
  margBytes : Nat
  rstack : Word
  rendezvous : List Rendezvous
  spawns : List Spawn
  /-- Counters of R107, keyed group slot * 4 + class. -/
  counters : Tbl Nat
  halted : Bool
  haltReason : Option Nat
  /-- A resume waits for the edit queue to be empty (R402). -/
  resume : Bool
  /-- The queue slots of a node team's records, which free at its exit (R378). -/
  nodeRecs : List Nat
  exited : Bool
  deriving DecidableEq, Repr

/-- An L1 line (R42, R55, R56, R58). The bits of its page that its tag holds are W, X and I, which a return has to know of (R241;
DEDUCED, log entry 57). The round of a round-tagged line is whole here; its tag is the low half, and the
upper half serves only to find a lag of 2^31 or more (DEDUCED, log entry 28). -/
structure Line where
  /-- CTXID. -/
  ctx : Nat
  line : Nat
  w : Bool
  x : Bool
  i : Bool
  ink : Nat
  epoch : BitVec 8
  /-- Region and fill round; none for an epoch-tagged line. -/
  round : Option (Nat × Word)
  bytes : List Byte
  /-- Poisoned 64-byte blocks of the line, 0 and 1 (R81). -/
  bad : List Nat
  /-- Filled by a stream load: at the lowest retention (R50). -/
  stream : Bool
  /-- Its line is homed in host memory, of which an acquire is performed at the host (R22, R410). -/
  host : Bool
  deriving DecidableEq, Repr

/-- A far-way line (R63), by physical line, in one of the die's ways; a round-tagged line has CTXID, region and fill round. -/
structure FarLine where
  line : Nat
  way : Nat
  epoch : BitVec 8
  round : Option (Nat × Nat × Word)
  bytes : List Byte
  bad : List Nat
  /-- Filled by a stream load. -/
  stream : Bool
  deriving DecidableEq, Repr

/-- A line of the home ways (R62), by physical line. Its bytes are those of `State.phys`, the one valid copy; while it is
there its own poison stands in place of the HBM's (DESIGN CHOICE, log entry 29). -/
structure HomeLine where
  line : Nat
  way : Nat
  dirty : Bool
  bad : List Nat
  deriving DecidableEq, Repr

/-- A TLB entry (R43): CTXID, the leaf as read, where it stands, and the page it maps. -/
structure TlbEntry where
  ctx : Nat
  vpage : Nat
  /-- log2 of the page size: 16, 21 or 30. -/
  bits : Nat
  leaf : Word
  addr : Nat
  deriving DecidableEq, Repr

/-- A load that waits for a line: thread key, outstanding id, first byte of the result, offset in the line, length, and
the stores that stood in the entry when it came (R71, R72). -/
structure Waiter where
  thread : Nat
  out : Nat
  pos : Nat
  off : Nat
  len : Nat
  seen : List (Nat × Byte)
  /-- A store has joined the entry since (R85). -/
  late : Bool
  deriving DecidableEq, Repr

/-- A reply on its way: the line's bytes, its poisoned blocks, the fill round, where it comes from, and its place in the
order of sending (R53). -/
structure Reply where
  bytes : List Byte
  bad : List Nat
  round : Word
  /-- 0 the die's own far ways, else a home. -/
  src : Nat
  no : Nat
  deriving DecidableEq, Repr

/-- A request collector entry (R71). -/
structure Entry where
  /-- Slot of the context. -/
  ctx : Nat
  line : Nat
  pline : Nat
  requests : Nat
  since : Nat
  /-- Bytes stored, a later store to a byte in place of the earlier. -/
  stores : List (Nat × Byte)
  /-- The last store is a team-scope release (R90, R103). -/
  rel : Bool
  loads : List Waiter
  w : Bool
  x : Bool
  i : Bool
  ink : Nat
  /-- Region and observed round the request carries (R148). -/
  round : Option (Nat × Word)
  /-- A bypass load is among the loads: the line is read at home (R50). -/
  home : Bool
  /-- A default or stream load is among them: the reply may fill the L1. No later write of the core to the line, and no
  bump of its epoch, has come since the read (R50, R87, R93). -/
  fill : Bool
  /-- Every load that fills it is a stream load. -/
  stream : Bool
  reply : Option Reply
  deriving DecidableEq, Repr

/-- A store accepted by a far-way controller and not yet performed at its home (R92). -/
structure Flight where
  die : Nat
  core : Nat
  ctx : Nat
  pline : Nat
  stores : List (Nat × Byte)
  rel : Bool
  deriving DecidableEq, Repr

/-- The release tag of a home location (R103). -/
structure RelTag where
  core : Nat
  scope : Nat
  deriving DecidableEq, Repr

/-- Engine command forms. -/
inductive Op where
  | cpy | cpyt | snap | gath | scatadd | mma | mmas | azero | ald | ast | mgld
  | kstore | lgather | lgsig | lgproj | lgpool
  deriving DecidableEq, Repr

/-- An asynchronous command (R328 to R331). STATUS codes are those of R331. -/
structure Cmd where
  cls : Nat
  seq : Nat
  op : Op
  ctx : Nat
  core : Nat
  team : Nat
  tid : Nat
  slot : Nat
  /-- The cycle of its issue (R308). -/
  issued : Nat
  /-- Another group has been formed in its slot since it was issued (R169). -/
  past : Bool
  evt : Bool
  /-- Address operand and b operand. -/
  addr : Word
  opnd : Word
  /-- The descriptor or parameter block as read at issue (R329). -/
  desc : List Byte
  /-- The index vector or range list read at issue. -/
  idx : List Nat
  status : Nat
  ekind : Nat
  pkind : Nat
  eaddr : Word
  prog : Nat
  cancel : Bool
  reported : Bool
  /-- The completion is recorded (R107). -/
  recorded : Bool
  /-- A posted record the completion waits for (R346). -/
  held : Bool
  /-- Rows, pages or k already done; the open partial sum starts at `ks` (R315), which for kstore is the signature of the key
  under way (R361). -/
  at_ : Nat
  ks : Nat
  /-- Started, waiting for leave, holding a grant, retired, stop pending (R314, R320, R321). -/
  started : Bool
  leave : Option Bool
  retired : Bool
  /-- A stop is pending: for a swap, or (true) for CKPT. -/
  stop : Option Bool
  /-- The fault that suspends it (R41), and the address at which the command met it. -/
  fault : Option Nat
  faultVa : Word
  /-- Snapshot of GEN and configuration of its set (R353). -/
  gen : Nat
  cfg : List Byte
  setNo : Nat
  /-- The commands of its set that passed issue before an lgproj did, by core and SEQ (R352). -/
  drains : List (Nat × Nat)
  /-- A link that has taken a chain block and has still to write it: the Well key of its head, which it holds, and the block
  (R359). -/
  link : Option (Nat × Nat)
  deriving DecidableEq, Repr

/-- What stands in a group slot of a core: the team it belongs to, and whether its frame is busy (R159, R386). -/
structure SlotInfo where
  team : Nat
  /-- No thread stands in it, but commands issued from it are outstanding (R159). -/
  draining : Bool
  /-- Team thread indices of the frame's LANES still in the handler; empty when the frame is free (R387). -/
  frame : List Nat
  /-- KEEP of the frame (R383). -/
  keep : Bool
  /-- A write of the frame waits for host (R381): the fault's key. -/
  wait : Option Nat
  deriving DecidableEq, Repr

/-- A palette record of a team (R311), keyed team * 64 + id in `State.palette`. -/
structure PalRec where
  fmt : Nat
  blk : Nat
  stride : Nat
  rows : Nat
  scales : List Byte
  /-- Its parity fails (R80). -/
  bad : Bool
  deriving DecidableEq, Repr

/-- A core. -/
structure Core where
  l1 : List Line
  epoch : BitVec 8
  tlb : List TlbEntry
  coll : List Entry
  /-- Observed rounds, keyed ctx * 1024 + region; an absent entry is unknown (R145). -/
  observed : Tbl Word
  active : Option Nat
  shadow : Option Nat
  slice : Nat
  expired : Bool
  /-- Keyed ctx * 32 + slot. -/
  slots : Tbl SlotInfo
  /-- Round-robin pointers of each nib (R162), keyed nib; an absent one is the nib's last slot (DESIGN CHOICE, log entry 4). One pair
  serves both contexts, and a swap leaves it as it is (DESIGN CHOICE, log entry 58). -/
  aged : Tbl Nat
  rr : Tbl Nat
  /-- SEQ last issued in each class (R330). -/
  seqs : Tbl Nat
  /-- Keyed class * 2^32 + SEQ. -/
  cmds : Tbl Cmd
  /-- Blocks of 4 KiB of the active context not yet restored (R390), numbered by their order on the core: 0 to 255 scratchpad,
  256 to 383 tiles (16 each), 384 to 447 palette, 448 to 455 margin. -/
  unrestored : List Nat
  /-- Blocks that an access has met before they were restored, in the order they were demanded, each with the resident slot of the
  context whose block it is (R390). -/
  demands : List (Nat × Nat)
  /-- Blocks of the shadow context not yet written to its spill area (R390). -/
  unspilled : List Nat
  /-- Last owner's CTXID of each 4 KiB scratchpad block (R59). -/
  owner : Tbl Nat
  /-- What was free here and reserved by no gang when the sequencer last acted on the core; what is free beyond it goes to the gangs
  that wait (R375). Keyed as `openKey` says. -/
  opens : Tbl Nat
  /-- Of each context sampled here, by resident slot: the group slot that its next record begins to look at, and the cycles
  since its last record (R406). -/
  sampLast : Tbl Nat
  sampCount : Tbl Nat
  /-- Groups that issued in the present cycle, and the highest priority that issued, by nib (R406). -/
  issued : List Nat
  /-- A store of the core was dropped with its link; a system release that waits for it raises ECC (R415). -/
  dropped : Bool
  /-- Wake messages on their way (R150): context, region, round. -/
  wakes : List (Nat × Nat × Word)
  /-- Cycles of a swap still to pass, in which neither context issues (R389). -/
  swapping : Nat
  /-- The spill waits for host (R381): the fault's key. -/
  spillWait : Option Nat
  deriving DecidableEq, Repr

/-- A die. -/
structure Die where
  gmax : Nat
  /-- Commands that hold a grant, and requests, each core * 2^34 + class-1 SEQ, a request with its
  cycle (R380). -/
  grants : List Nat
  leaveQ : List (Nat × Nat)
  /-- The lines of the home ways, longest held first (R62). -/
  home : List HomeLine
  far : List FarLine
  farEpoch : BitVec 8
  tlb : List TlbEntry
  /-- Corrected errors and poisoned blocks per structure (R82), keyed structure * 2 + (0 corrected, 1 poisoned). -/
  errors : Tbl Nat
  /-- Beacons on their way: context, region, round (R147). -/
  beacons : List (Nat × Nat × Word)
  deriving DecidableEq, Repr

/-- An open fault, or one that waits for room (R421). -/
structure PageFault where
  key : Nat
  ctx : Nat
  /-- The page, and log2 of its size. -/
  page : Nat
  bits : Nat
  va : Word
  kind : Nat
  access : Nat
  die : Nat
  /-- The cores whose lanes have met it, in the order in which they did (R421). -/
  lanes : List Nat
  /-- The number of its record, once written. -/
  id : Option Nat
  deriving DecidableEq, Repr

/-- A head-set (R349). -/
structure HeadSet where
  /-- The 32-byte record, when configured. -/
  cfg : Option (List Byte)
  gen : Nat
  closed : Bool
  /-- Statistics 0 to 6 (R367). -/
  stats : Tbl Word
  deriving DecidableEq, Repr

/-- An event record (R346) that waits to be posted; `cmd` names the command it holds: core, class, SEQ. -/
structure EventRec where
  handle : Word
  status : Nat
  ekind : Nat
  prog : Nat
  cmd : Option (Nat × Nat × Nat)
  deriving DecidableEq, Repr

/-- A graph node (R378). -/
structure Node where
  record : List Byte
  params : List Byte
  /-- The queue and index of its record. -/
  queue : Nat
  index : Nat
  tail : Nat
  /-- Records waiting, oldest first, each the cycle it arrived. -/
  waiting : List Nat
  /-- Ring slots of records whose team has not exited. -/
  busy : List Nat
  head : Nat
  teams : Nat
  deriving DecidableEq, Repr

/-- A shootdown under way (R46, R418): the range in 64 KiB pages, 0 pages for all. -/
structure Shootdown where
  base : Nat
  pages : Nat
  /-- The cycle it started. -/
  since : Nat
  deriving DecidableEq, Repr

/-- A snap under way (R336 to R338): core and SEQ of its command, pages still to copy with their image address. -/
structure Snap where
  core : Nat
  seq : Nat
  /-- Source page, destination page, physical address of the leaf entry, bits. -/
  pages : List (Nat × Nat)
  done : Nat
  /-- Leaf entries whose pages a write waits for, each with the key of the wait: copied ahead of their turn (R338). -/
  ahead : List (Nat × Nat)
  /-- Source pages that had no leaf to set F in at the cut (R337). -/
  unmapped : List Nat
  /-- Pages still to copy whose frame an image has taken, with the bytes that they held (R337; DEDUCED, log entry 54). -/
  saved : List ((Nat × Nat) × List Byte)
  deriving DecidableEq, Repr

/-- A resident context (R417, R420). Registers keep the bits their field map gives. -/
structure Ctx where
  ctxid : Nat
  root : Word
  wb : Tbl Word
  /-- The context is no user context (R15); the model's own, log entry 6. -/
  priv : Bool
  trapbase : Word
  savebase : Word
  dbgctl : Word
  inkmap : Word
  inkdesc : Word
  inktmo : Word
  roundbase : Word
  ligbase : Word
  evqbase : Word
  fairt : Word
  fairdis : Word
  wdlim : Word
  colltmo : Word
  sampcfg : Word
  sampbuf : Word
  slice : Word
  bgshare : Word
  /-- Keyed queue * 4 + (0 LQCFG, 1 LQTAIL, 2 LQHEAD). -/
  lq : Tbl Word
  sdva : Word
  sdctl : Word
  sd : Option Shootdown
  teamsel : Word
  ckreq : Word
  fqcfg : Word
  fqtail : Word
  fqhead : Word
  faultNo : Nat
  faults : List PageFault
  haltreq : Word
  hqcfg : Word
  hqtail : Word
  hqhead : Word
  halts : List (Nat × Nat)
  edqcfg : Word
  edqtail : Word
  edqhead : Word
  bp : Tbl Word
  wp : Tbl Word
  wl : Tbl Word
  edited : Bool
  heads : Tbl HeadSet
  /-- Projection memory (R352), kept as context state. -/
  proj : Memory
  events : List EventRec
  nodes : Tbl Node
  snap : Option Snap
  /-- Stopped (R381, R388). -/
  stopped : Bool
  /-- A cluster's barriers, keyed (launch * 2^24 + cluster) * 4 + id (R245). -/
  cbars : Tbl Barrier
  tagNext : Nat
  /-- A launch queue that waits for host (R373), keyed queue * 2 + (0 its record, 1 the parameter block): the fault's
  key. -/
  lqWait : Tbl Nat
  deriving DecidableEq, Repr

/-- A launch (R371 to R379). -/
structure Launch where
  ctx : Nat
  queue : Nat
  index : Nat
  record : List Byte
  params : List Byte
  /-- Next cluster to place. -/
  next : Nat
  placed : Nat
  exits : Nat
  start : Option Nat
  leave : Nat
  /-- Cycles a gang has waited, and whether it is aged (R375). -/
  waited : Nat
  aged : Bool
  /-- The rectangles a waiting gang has chosen, cluster by cluster: die, row, column; and what it has reserved on their cores, keyed
  core * 8 + resource (R375). -/
  rects : List (Nat × Nat × Nat)
  holds : Tbl Nat
  /-- Ordinal of its first team; a node's teams count on (R423). -/
  first : Nat
  /-- Address and count of the records of a node's team (R378). -/
  batch : Nat × Nat
  /-- A node's team: the node id (R378). -/
  node : Option Nat
  done : Bool
  deriving DecidableEq, Repr

/-- The bundle being issued (R161): a core, a group slot of its active context, the threads and their PC. -/
structure Bundle where
  core : Nat
  ctx : Nat
  slot : Nat
  team : Nat
  tids : List Nat
  pc : Word
  deriving DecidableEq, Repr

/-- A register that the gloss port reads: of a thread, or of its team (R404). -/
inductive GlossReg where
  | v (n : Nat) | m (n : Nat) | h (n : Nat) | k (n : Nat) | c (n : Nat) | q (n : Nat)
  | pc | fd | csn | tag | fpctl | fpf | mxf | gtime | gtcmp
  /-- Its age, its append ordinal, its pending set by halves, whether it is in handler mode, and its state: 0 ready, 1 held by YIELD,
  2 blocked, 3 in quire memory, 4 exited. -/
  | age | appendOrd | pending (hi : Bool) | handler | status
  /-- What stands pending in it: TIMER, CKPT, WATCHDOG, a trap; the ticket with which it waits for an ink; the cycles it has waited. -/
  | pends | ticket | waited
  deriving DecidableEq, Repr

/-- What is read from outside: memory by host or a peer (R411, R413), a word of the window (R417), a register through the
gloss port (R404), and the state that R408 shows without an offset (DESIGN CHOICE, log entry 41). -/
inductive HostRead where
  | mem (pa : Nat)
  | peer (pa : Nat)
  | window (off : Nat)
  | gloss (team tid : Nat) (r : GlossReg)
  /-- Errors of a structure of a die, corrected or poisoned (R82). -/
  | errors (die unit : Nat) (poisoned : Bool)
  /-- A word of a monitor, round, bucket or other block of the Well. -/
  | well (die off : Nat)
  /-- A class counter of a group (R107). -/
  | counter (team slot cls : Nat)
  /-- The status of a handle, as testh reads it. -/
  | handle (h : Word)
  /-- An observed round (R145). -/
  | round (core ctx rgn : Nat)
  /-- Whether it is known. -/
  | known (core ctx rgn : Nat)
  /-- Arrivals and phase of a team's barrier, and of its cluster's. -/
  | bar (team id : Nat)
  | cbar (team id : Nat)
  /-- State and phase of a ring stage (R174). -/
  | stage (team ring stage : Nat)
  /-- Head and tail of the input queue of a node (R378). -/
  | node (ctx node : Nat)
  /-- A word of a team's scratchpad, an element of its tiles, a word of its margin, the image of a palette record (R311), and a
  word of a context's projection memory. -/
  | scratch (team off : Nat)
  | acc (team tile elem : Nat)
  | margin (team off : Nat)
  | palette (team id : Nat)
  | proj (ctx off : Nat)
  /-- A word of the configuration of a head-set, its GEN with CLOSED in bit 63 and CONFIGURED in bit 62, and one of its statistics (R349, R353, R367). -/
  | headCfg (ctx set word : Nat)
  | headGen (ctx set : Nat)
  | headStat (ctx set n : Nat)
  /-- The `n`-th rendezvous under way of a team: its group, CSN and mask, and the home lanes that have arrived (R170). -/
  | rendezvous (team n : Nat) (lanes : Bool)
  deriving DecidableEq, Repr

/-- What comes next from outside, or an order chosen from outside: a step of the machine, a read, a host port that trains or
goes down (R409), a slot of one nib, or the end of the cycle (log entry 1). -/
inductive Move where
  | event (i : Instr)
  | read (r : HostRead)
  | port (p : Nat) (up : Bool)
  | slot (core nib : Nat)
  | tick
  deriving DecidableEq, Repr

/-- The module. -/
structure State where
  cycle : Word
  /-- WELLCFG: STATUS, CUR, WELL and FAR (R75), the far ways in force, and the first new Well way while one fills. -/
  wellStatus : Nat
  wellCur : Nat
  wellReq : Nat
  farReq : Nat
  farCur : Nat
  wellFrom : Option Nat
  failCode : BitVec 8
  steps : BitVec 7
  winsel : Word
  gangage : Word
  mevqbase : Word
  mevents : List EventRec
  peerrt : Tbl (BitVec 5)
  /-- Peers whose route went down with its link (R415). -/
  routesDown : List Nat
  /-- The queue last served, ctx * 32 + queue (R376). -/
  rrq : Nat
  phys : Memory
  /-- Keyed die * 2^28 + offset. -/
  well : Memory
  /-- Keyed (CTXID * 320 + core) * 2^20 + offset (R59). -/
  scratch : Memory
  /-- Keyed by physical line, or 2^50 + Well block (R103). -/
  tags : Tbl RelTag
  /-- Poisoned 64-byte blocks (R81): 0 + PA block, 2^60 + Well block, 2^61 + scratch block. -/
  poison : List Nat
  flights : List Flight
  /-- Void tickets not yet skipped: monitor block, ticket (R131). They stand outside the Well's bytes, since the block of R116 has
  no field for them; a store to the block, or a change of the carve-out, leaves them (DESIGN CHOICE, log entry 44). -/
  voids : List (Nat × Nat)
  /-- Host ports that are trained (R409), by number. -/
  ports : List Nat
  /-- MSI-X messages sent: port and vector (R421). -/
  msix : List (Nat × Nat)
  hostReads : List (HostRead × List Byte)
  cores : Tbl Core
  diesT : Tbl Die
  ctxs : Tbl Ctx
  teams : Tbl Team
  /-- Keyed team * 1024 + team thread index. -/
  threads : Tbl Thread
  launches : Tbl Launch
  /-- Accumulator elements, keyed (team * 8 + tile) * 2^14 + row * 128 + column (R306). -/
  acc : Tbl W32
  /-- Margin bytes, keyed team * 2^15 + offset. -/
  margin : Memory
  palette : Tbl PalRec
  /-- Writes of setc and setq, seen from the next cycle on (R172, R263): nib, team, register (64 + n for q(n)), value. -/
  late : List (Nat × Nat × Nat × Word)
  /-- The model's own: what comes next, the nib whose slot is next, nibs that had their slot before their turn, the bundle
  being issued, the next number of an object, the next free value, the first access to an address that does not exist. -/
  inbox : List Move
  cursor : Nat
  taken : List Nat
  bundle : Option Bundle
  uid : Nat
  free : Nat
  stop : Option Fault
  deriving DecidableEq, Repr

/-- A core no context runs on (R426). -/
def Core.reset : Core where
  l1 := []; epoch := 0; tlb := []; coll := []; observed := []; active := none; shadow := none; slice := 0
  expired := false; slots := []; aged := []; rr := []; seqs := []; cmds := []; unrestored := []; demands := []; unspilled := []
  owner := []; opens := []; sampLast := []; sampCount := []; issued := []; dropped := false; wakes := []
  swapping := 0; spillWait := none

/-- A die (R380, R426). -/
def Die.reset : Die where
  gmax := 40; grants := []; leaveQ := []; home := []; far := []; farEpoch := 0; tlb := []; errors := []; beacons := []

/-- A context block at its reset values (R30, R34, R112, R132, R166, R334, R346, R350, R370, R377, R381, R399, R400,
R406, R418, R420 to R425). -/
def Ctx.reset : Ctx where
  ctxid := 0; root := 0; wb := []; priv := false; trapbase := 0; savebase := 0; dbgctl := 0; inkmap := 0
  inkdesc := 0; inktmo := 0; roundbase := 0x0100_0000_0000_0000#64; ligbase := 0x0100_0000_0000_0000#64
  evqbase := 0; fairt := 0x40; fairdis := 0; wdlim := 0x10_0000; colltmo := 0x1_0000; sampcfg := 0x10_0000
  sampbuf := 0; slice := 0x0100_0100_0100_0100#64; bgshare := 4; lq := []; sdva := 0; sdctl := 0; sd := none
  teamsel := 0; ckreq := 0; fqcfg := 0; fqtail := 0; fqhead := 0; faultNo := 0; faults := []; haltreq := 0
  hqcfg := 0; hqtail := 0; hqhead := 0; halts := []; edqcfg := 0; edqtail := 0; edqhead := 0; bp := []; wp := []
  wl := []; edited := false; heads := []; proj := []; events := []; nodes := []; snap := none; stopped := false
  cbars := []; tagNext := 0; lqWait := []

/-- A thread as a launch creates it (R287, R426); the launch gives the fields that name it. -/
def Thread.reset : Thread where
  ctx := 0; core := 0; team := 0; tid := 0; slot := 0; pos := 0; tag := 0; pc := 0; fd := 0; csn := 0; v := []
  bad := []; m := []; h := []; holds := []; fpctl := 1; fpf := 0; age := 0; appendOrd := 0; status := .ready; pending := []
  outs := []; hints := Hints.empty; unit := none; handler := false; ilock := []; trap := none; replay := []
  kept := []; watchdog := false; timerPend := none; ckptPend := none; stepOver := false
  issueRead := none

/-- A team as a launch creates it (R172, R405, R426). -/
def Team.reset : Team where
  ctx := 0; core := 0; launch := 0; ordinal := 0; cluster := 0; index := 0; rank := 0; groups := []
  spawnSlots := []; hadSpawn := false; c := []; q := []; mxf := 0; gtime := 0; gtcmp := BitVec.allOnes 64; bars := []
  ringStages := []; rings := []; scrBase := 0; scrSize := 0; tileBase := 0; tiles := 0; palKiB := 0; margBase := 0
  margBytes := 0; rstack := 0; rendezvous := []; spawns := []; counters := []; halted := false; haltReason := none; resume := false
  nodeRecs := []; exited := false

/-- The module right after reset (R426): no context runs, no byte is listed, every register at its reset value. -/
def State.reset : State where
  cycle := 0; wellStatus := 0; wellCur := 8; wellReq := 8; farReq := 2; farCur := 2; wellFrom := none; failCode := 0
  steps := 0; winsel := 0; gangage := 0x10_0000; mevqbase := 0; mevents := []; peerrt := []; routesDown := []; rrq := 0
  phys := []; well := []; scratch := []; tags := []; poison := []; flights := []; voids := []; ports := []; msix := []
  hostReads := []; cores := []; diesT := []; ctxs := []; teams := []; threads := []; launches := []; acc := []; margin := []
  palette := []; late := []; inbox := []; cursor := 0; taken := []; bundle := none; uid := 0; free := 0; stop := none

end Sys2Proof.Machine
end

