-- ==== Sys2Proof/Machine/Ops.lean ====
section
/-! DEFINITION. The named operations over tables, bytes, registers and the parts of the state. -/

namespace Sys2Proof.Machine

/-! ### Tables -/

/-- The entry of a key. -/
def Tbl.get? {α : Type} : Tbl α → Nat → Option α
  | [], _ => none
  | (k, a) :: t, n => if k = n then some a else Tbl.get? t n

/-- The entry of a key, or a default. -/
def Tbl.getD {α : Type} (t : Tbl α) (n : Nat) (d : α) : α := (Tbl.get? t n).getD d

/-- Put an entry in its place. -/
def Tbl.set {α : Type} : Tbl α → Nat → α → Tbl α
  | [], n, a => [(n, a)]
  | (k, b) :: t, n, a =>
    if n < k then (n, a) :: (k, b) :: t else if n = k then (n, a) :: t else (k, b) :: Tbl.set t n a

/-- Drop an entry. -/
def Tbl.erase {α : Type} : Tbl α → Nat → Tbl α
  | [], _ => []
  | (k, b) :: t, n => if k = n then Tbl.erase t n else (k, b) :: Tbl.erase t n

/-- Set an entry of a table whose absent keys read as `d`: an entry equal to `d` is not listed. -/
def Tbl.put {α : Type} [DecidableEq α] (d : α) (t : Tbl α) (n : Nat) (a : α) : Tbl α :=
  if a = d then Tbl.erase t n else Tbl.set t n a

/-! ### Memory (R10): one byte, and byte ranges with the lowest address first -/

/-- What an unlisted address reads as (log entry 3). -/
def Memory.unlisted : Byte := 0

/-- Read one byte. -/
def Memory.read : Memory → Nat → Byte
  | [], _ => Memory.unlisted
  | (k, b) :: m, a => if k = a then b else Memory.read m a

/-- Drop the cell of an address. -/
def Memory.drop : Memory → Nat → Memory
  | [], _ => []
  | (k, b) :: m, a => if k = a then m else (k, b) :: Memory.drop m a

/-- Put a cell in its place. -/
def Memory.insert : Memory → Nat → Byte → Memory
  | [], a, x => [(a, x)]
  | (k, b) :: m, a, x =>
    if a < k then (a, x) :: (k, b) :: m else if a = k then (a, x) :: m else (k, b) :: Memory.insert m a x

/-- Write one byte, keeping the canonical form. -/
def Memory.write (m : Memory) (a : Nat) (x : Byte) : Memory :=
  if x = Memory.unlisted then Memory.drop m a else Memory.insert m a x

/-- `n` bytes from `a` up. -/
def Memory.readN (m : Memory) : Nat → Nat → List Byte
  | _, 0 => []
  | a, n + 1 => Memory.read m a :: Memory.readN m (a + 1) n

/-- Write bytes from `a` up. -/
def Memory.writeN (m : Memory) : Nat → List Byte → Memory
  | _, [] => m
  | a, b :: bs => Memory.writeN (Memory.write m a b) (a + 1) bs

/-- Every address above `lo` and rising, every byte listed for a reason. -/
def Memory.wfFrom : Nat → Memory → Bool
  | _, [] => true
  | lo, (k, b) :: m => decide (lo ≤ k) && decide (b ≠ Memory.unlisted) && Memory.wfFrom (k + 1) m

/-- The canonical form. -/
def Memory.wf (m : Memory) : Bool := Memory.wfFrom 0 m

/-- A little-endian number of `n` bytes (R10). -/
def Memory.nat (m : Memory) (a n : Nat) : Nat := bytesToNat (Memory.readN m a n)

/-- The bytes of a word, `n` of them, least significant first (R10). -/
def wordBytes (n : Nat) (w : Word) : List Byte := natToBytes n w.toNat

/-- The word of bytes (R10). -/
def bytesWord (bs : List Byte) : Word := BitVec.ofNat 64 (bytesToNat bs)

/-- A field of a list of bytes: `n` bytes at offset `o` (R10). -/
def fieldAt (bs : List Byte) (o n : Nat) : Nat := bytesToNat ((bs.drop o).take n)

/-- Bits `[hi:lo]` of a word as a number. -/
def bitsOf (w : Word) (hi lo : Nat) : Nat := (w.toNat / 2 ^ lo) % 2 ^ (hi + 1 - lo)

/-- One bit of a word. -/
def bitAt (w : Word) (i : Nat) : Bool := w.getLsbD i

/-- A word with the bits `[hi:lo]` replaced. -/
def setBits (w : Word) (hi lo : Nat) (x : Nat) : Word :=
  BitVec.ofNat 64 (w.toNat - bitsOf w hi lo * 2 ^ lo + (x % 2 ^ (hi + 1 - lo)) * 2 ^ lo)

/-! ### The parts of the state -/

/-- The die of a core (R5). -/
def dieOf (core : Nat) : Nat := core / Config.coresPerDie

def State.core (s : State) (c : Nat) : Core := Tbl.getD s.cores c Core.reset
def State.setCore (s : State) (c : Nat) (x : Core) : State := { s with cores := Tbl.set s.cores c x }
def State.updCore (s : State) (c : Nat) (f : Core → Core) : State := s.setCore c (f (s.core c))

def State.die (s : State) (d : Nat) : Die := Tbl.getD s.diesT d Die.reset
def State.setDie (s : State) (d : Nat) (x : Die) : State := { s with diesT := Tbl.set s.diesT d x }
def State.updDie (s : State) (d : Nat) (f : Die → Die) : State := s.setDie d (f (s.die d))

/-- The context of a resident slot; one no host has written is at its reset values. -/
def State.ctx (s : State) (c : Nat) : Ctx := Tbl.getD s.ctxs c Ctx.reset
def State.setCtx (s : State) (c : Nat) (x : Ctx) : State := { s with ctxs := Tbl.set s.ctxs c x }
def State.updCtx (s : State) (c : Nat) (f : Ctx → Ctx) : State := s.setCtx c (f (s.ctx c))

/-- CTXID of a resident slot: what tags lines and translations (R42, R43, R63). -/
def State.cid (s : State) (c : Nat) : Nat := (s.ctx c).ctxid

def State.team (s : State) (u : Nat) : Team := Tbl.getD s.teams u Team.reset
def State.setTeam (s : State) (u : Nat) (x : Team) : State := { s with teams := Tbl.set s.teams u x }
def State.updTeam (s : State) (u : Nat) (f : Team → Team) : State := s.setTeam u (f (s.team u))

def State.launch (s : State) (l : Nat) : Option Launch := Tbl.get? s.launches l
def State.setLaunch (s : State) (l : Nat) (x : Launch) : State := { s with launches := Tbl.set s.launches l x }

/-- The key of a thread. -/
def threadKey (team tid : Nat) : Nat := team * 1024 + tid

def State.thread? (s : State) (k : Nat) : Option Thread := Tbl.get? s.threads k
def State.thread (s : State) (k : Nat) : Thread := Tbl.getD s.threads k Thread.reset
def State.setThread (s : State) (k : Nat) (x : Thread) : State := { s with threads := Tbl.set s.threads k x }
def State.updThread (s : State) (k : Nat) (f : Thread → Thread) : State := s.setThread k (f (s.thread k))

/-- The key of the thread an operand set belongs to. -/
def Env.key (e : Env) : Nat := threadKey e.team e.tid

/-- The threads of a team, in ascending team thread index, with their keys. -/
def State.threadsOf (s : State) (team : Nat) : List (Nat × Thread) := s.threads.filter (fun p => p.2.team == team)

/-- The teams of a context. -/
def State.teamsOf (s : State) (ctx : Nat) : List (Nat × Team) :=
  s.teams.filter (fun p => p.2.ctx == ctx && !p.2.exited)

/-- Next number of an object of the model. -/
def State.fresh (s : State) : Nat × State := (s.uid, { s with uid := s.uid + 1 })

/-- Next free value (log entry 5). -/
def State.freeWord (s : State) : Word × State := (Config.freeValue s.free, { s with free := s.free + 1 })

/-! ### Registers (R9) -/

def Thread.getV (t : Thread) (r : Nat) : Word := Tbl.getD t.v r 0
/-- A write of a register; it ends a parity error there (R80). -/
def Thread.setV (t : Thread) (r : Nat) (x : Word) : Thread :=
  { t with v := Tbl.put 0 t.v r x, bad := t.bad.filter (fun k => k != r) }

/-- m0 reads all ones (R182). -/
def Thread.getM (t : Thread) (r : Nat) : BitVec 8 := if r = 0 then 0xFF else Tbl.getD t.m r 0

/-- m0 is not written (R182). -/
def Thread.setM (t : Thread) (r : Nat) (x : BitVec 8) : Thread :=
  if r = 0 then t else { t with m := Tbl.put 0 t.m r x }
def Thread.getH (t : Thread) (r : Nat) : Word := Tbl.getD t.h r 0
def Thread.setH (t : Thread) (r : Nat) (x : Word) : Thread := { t with h := Tbl.put 0 t.h r x }
def Team.getC (t : Team) (r : Nat) : Word := Tbl.getD t.c r 0
def Team.setC (t : Team) (r : Nat) (x : Word) : Team := { t with c := Tbl.put 0 t.c r x }
def Team.getQ (t : Team) (r : Nat) : Word := Tbl.getD t.q r 0
def Team.setQ (t : Team) (r : Nat) (x : Word) : Team := { t with q := Tbl.put 0 t.q r x }

/-- The 64 bits of a hold register (R117). -/
def Hold.word (k : Hold) : Word :=
  BitVec.ofNat 64 (2 ^ 63 + (if k.w then 2 ^ 62 else 0) + (if k.h then 2 ^ 61 else 0)
    + (if k.cmds.isEmpty then 0 else 2 ^ 60) + (k.depth % 2 ^ 16) * 2 ^ 32 + k.ink % 2 ^ 12)

/-- k0 to k7: an invalid hold reads 0 (R117, R263). -/
def Thread.getK (t : Thread) (r : Nat) : Word :=
  match t.holds[r]? with
  | some k => k.word
  | none => 0

/-- Whether a thread holds an ink; a suspended hold counts (R133). -/
def Thread.holdsInk (t : Thread) (j : Nat) : Bool := t.holds.any (fun k => k.ink == j)

/-- The highest ink a thread holds, or 0 (R123). -/
def Thread.maxHeld (t : Thread) : Nat := t.holds.foldl (fun m k => max m k.ink) 0

/-- The home group and home lane of a team thread index (R158). -/
def homeGroup (tid : Nat) : Nat := tid / 32
def homeLane (tid : Nat) : Nat := tid % 32

/-- Cycles, for comparisons. -/
def State.now (s : State) : Nat := s.cycle.toNat

/-- A thread stops: it is blocked at an instruction. -/
def Thread.block (t : Thread) (why : Why) (i : Instr) (e : Env) : Thread :=
  { t with status := .blocked ⟨why, i, e, 0⟩, age := 0 }

/-- A blocked thread's wait has ended: its instruction runs again. -/
def Thread.wake (t : Thread) : Thread :=
  match t.status with
  | .blocked b => { t with status := .waking b }
  | _ => t

/-- A blocked thread whose wait has ended and whose instruction is complete: it is ready, or goes on with its replay
queue. -/
def Thread.resume (t : Thread) : Thread :=
  { t with status := if t.replay.isEmpty then .ready else .reinject }

/-- The wait of a blocked thread. -/
def Thread.why? (t : Thread) : Option Why :=
  match t.status with
  | .blocked b => some b.why
  | _ => none

/-- A thread that can still issue or wait (R161): not exited, not in quire memory. -/
def Thread.live (t : Thread) : Bool :=
  match t.status with
  | .exited => false
  | _ => true

/-- Wake every blocked thread whose wait passes a test. -/
def State.wakeAll (s : State) (p : Thread → Why → Bool) : State :=
  { s with threads := s.threads.map (fun (k, t) =>
      match t.why? with
      | some w => if p t w then (k, t.wake) else (k, t)
      | none => (k, t)) }

/-- A wait for a fault offered to host (R38), and for a Well way that is filled (R77). -/
def Why.onFault (w : Why) (key : Nat) : Bool :=
  match w with
  | .fault k _ | .inkFault k _ => k == key
  | _ => false
def Why.onCarve : Why → Bool
  | .carve | .inkCarve _ => true
  | _ => false

/-- What the issue under way has read before it was held (R329). -/
def Thread.hasRead (t : Thread) (msg : Nat) : Option IssueRead := t.issueRead.filter (fun r => r.msg == msg)

/-- An issue that has read nothing. -/
def IssueRead.empty (msg : Nat) : IssueRead where
  msg := msg; desc := []; list := none; snap := none; inks := none

/-- Set the first stop of the machine. -/
def State.stopAt (s : State) (pa : Nat) : State :=
  match s.stop with
  | some _ => s
  | none => { s with stop := some (.unpopulated pa) }

end Sys2Proof.Machine

/-- Put an element in its place in a sorted list, before what is equal to it. -/
def List.insertBy {α : Type} (le : α → α → Bool) (a : α) : List α → List α
  | [] => [a]
  | b :: l => if le a b then a :: b :: l else b :: List.insertBy le a l

/-- A list sorted, equal elements in the order they had. -/
def List.sortBy {α : Type} (l : List α) (le : α → α → Bool) : List α := l.foldr (List.insertBy le) []
end

