-- ==== Sys2Proof/Machine/Operands.lean ====
section
/-! DEFINITION. Sub-elements (R11), every operand form (R179 to R182), masking (R191, R238, R253), effective addresses
(R194, R206) and the capture of a unit's operands (R185). -/

namespace Sys2Proof.Machine

/-! ### Sub-elements -/

/-- Sub-element `i` of width `w` (R11). -/
def elemAt (w : Nat) (x : Word) (i : Nat) : Nat := (x.toNat / 2 ^ (w * i)) % 2 ^ w

/-- The sub-elements of a word, lowest first. -/
def elems (w : Nat) (x : Word) : List Nat := (List.range (64 / w)).map (elemAt w x)

/-- The number whose sub-elements are given, lowest first, each cut to its width. -/
def packNat (w : Nat) : List Nat → Nat
  | [] => 0
  | x :: xs => x % 2 ^ w + 2 ^ w * packNat w xs

/-- The word of sub-elements, lowest first. -/
def pack (w : Nat) (xs : List Nat) : Word := BitVec.ofNat 64 (packNat w xs)

/-- One value in each sub-element. -/
def splat (w : Nat) (x : Nat) : Word := pack w (List.replicate (64 / w) x)

/-! ### Operands (R179 to R181) -/

/-- An integer operand in each sub-element: two's complement, or converted into the float element (R180). -/
def elemInt (e : Elem) (x : Int) : Word :=
  match e with
  | .int w => splat w (toBits w x)
  | .flt f => splat f.bits (intToFloat f x)

/-- A LIT32 (R181): replicated in sub-elements up to 32 bits, sign-extended for 64. -/
def litWord (e : Elem) (x : W32) : Word :=
  if e.bits = 64 then x.signExtend 64 else splat e.bits x.toNat

/-- Operand code 0xBF in handler mode (R386): the address of the thread's save slot (R381). -/
def saveSlot (s : State) (t : Thread) : Word :=
  (s.ctx t.ctx).savebase + BitVec.ofNat 64 ((t.core * 32 + t.slot) * 0x8000)

/-- The value of an operand for a thread. -/
def opndValue (s : State) (t : Thread) (e : Elem) : Opnd → Word
  | .v r => t.getV r.toNat
  | .c r => if r = 63#6 && t.handler then saveSlot s t else (s.team t.team).getC r.toNat
  | .imm i => elemInt e i.toInt
  | .lit32 x => litWord e x
  | .lit64 x => x
  | .lane => elemInt e (homeLane t.tid)
  | .tid => elemInt e t.tid
  | .zero => 0
  | .grp => elemInt e (homeGroup t.tid)
  | .rsv _ => 0

/-- The effective address (R194, R206). -/
def effAddr (h : Hints) (a : Word) : Word :=
  match h.off with
  | some o => a + o.signExtend 64
  | none => a

/-- The handle register that a wait, a test, a cancel or a move names in its a field (R343). -/
def handleRead : Instr → Option (BitVec 4)
  | .waith _ h | .testh _ _ h | .cancelh _ h | .movhToV _ _ h => some h
  | _ => none

/-- The operands of a unit as a thread captures them at issue (R185, R384). An absolute ldb has its N in `opD` and its
timeout in `opC` (R214); the new value of cas stands in `opE`. -/
def capture (s : State) (t : Thread) (i : Instr) (msg : Nat) (unit pc npc : Word) : Env :=
  let h := t.hints
  let a := match i.aReg, handleRead i with
    | some r, _ => t.getV r.toNat
    | none, some r => t.getH r.toNat
    | none, none => 0
  let b := match i.opnd with | some b => opndValue s t i.elemB b | none => 0
  let d := match i.dReg with | some r => if keepsD h i then t.getV r.toNat else 0 | none => 0
  let f := match h.fourth with | some b => opndValue s t (.int 64) b | none => 0
  let e := match i with
    | .cas _ _ d _ _ _ => t.getV (d.toNat + 1)
    | _ => 0
  let d := match i, h.fourth with
    | .ldb _ _ _ _ o _, some (.v r) => if o == 1#2 then (t.getV (r.toNat + 1)) &&& 0xFFFF_FFFF#64 else d
    | _, _ => d
  { ctx := t.ctx, core := t.core, team := t.team, tid := t.tid, msg := msg, unit := unit, pc := pc, npc := npc
    opA := a, opB := b, opC := d, opD := f, opE := e, addr := effAddr h a, hints := h, mask := t.getM h.mask.1.toNat
    replay := false, watch := false, settled := false, flags := 0 }

/-! ### Masking (R11, R191) -/

/-- The mask bit that governs sub-element `i` of width `w`. -/
def governed (m : BitVec 8) (w i : Nat) : Bool := m.getLsbD (i * w / 8)

/-- A result merged under a mask: sub-elements whose bit is 0 keep `old`, or become 0 under Z (R191, R253). -/
def mergeMask (w : Nat) (m : BitVec 8) (z : Bool) (old : Word) (new : List Nat) : Word :=
  pack w (new.mapIdx (fun i x => if governed m w i then x else if z then 0 else elemAt w old i))

/-- The mask and the Z of a unit, as captured (R196). -/
def maskOf (e : Env) : BitVec 8 × Bool := (e.mask, e.hints.mask.2)

/-! ### What a lane can do -/

/-- What becomes of one thread's instruction: it is done, it raises a trap with the state as it then stands, or it
blocks. -/
inductive LaneOut where
  | done (s : State)
  | trap (s : State) (t : Trap)
  | block (s : State) (w : Why)

/-- The meaning of an instruction for one thread, on the operands it captured. -/
abbrev LaneFn := Env → State → LaneOut

/-- A trap with no address and no detail. -/
def trapOf (cause : Nat) : Trap := ⟨cause, 0, 0, 0, 0, none, false⟩

/-- A PAGE trap (R37). -/
def pageTrap (kind : Nat) (addr : Word) : Trap := ⟨5, kind, addr, 0, 0, none, false⟩

/-- The causes of R385. -/
def causeIllegal : Nat := 1
def causeHazard : Nat := 2
def causePriv : Nat := 3
def causeAlign : Nat := 4
def causePage : Nat := 5
def causeWatch : Nat := 6
def causeBkpt : Nat := 7
def causeDiv0 : Nat := 8
def causeFpx : Nat := 9
def causeInkOrder : Nat := 10
def causeInkLimit : Nat := 11
def causeInkScope : Nat := 12
def causeInkTimeout : Nat := 13
def causeInkAsync : Nat := 14
def causeInkPage : Nat := 15
def causeRoundTmo : Nat := 16
def causeRole : Nat := 17
def causeNonuniform : Nat := 18
def causeCollMismatch : Nat := 19
def causeCollTimeout : Nat := 20
def causeMxFault : Nat := 21
def causeLigDense : Nat := 22
def causeLigPool : Nat := 23
def causeLigState : Nat := 24
def causeWatchdog : Nat := 25
def causeTimer : Nat := 26
def causeCkpt : Nat := 27
def causeEcc : Nat := 28

/-- A trap with an address. -/
def trapAt (cause : Nat) (addr : Word) : Trap := ⟨cause, 0, addr, 0, 0, none, false⟩

/-- Write a short result and its interlock (R184). -/
def writeShort (s : State) (i : Instr) (e : Env) (r : Nat) (x : Word) : State :=
  s.updThread e.key (fun t => { t.setV r x with ilock := Tbl.set t.ilock r (s.now + i.latency) })

/-- Write a mask register and its interlock (R184). -/
def writeMask (s : State) (i : Instr) (e : Env) (r : Nat) (x : BitVec 8) : State :=
  s.updThread e.key (fun t => { t.setM r x with ilock := Tbl.set t.ilock (128 + r) (s.now + i.latency) })

/-- A long instruction issues (R185, R186): its destination joins the pending set, and the instruction is outstanding
with the given bytes still to come, or its result. -/
def addOut (s : State) (i : Instr) (e : Env) (data : List (Option Byte)) (result : Option Word) (fl : Flags) :
    Nat × State :=
  let (id, s) := s.fresh
  let o : Outst := ⟨id, i, e, data, result, fl, e.settled, false, false⟩
  (id, s.updThread e.key (fun t =>
    { t with outs := t.outs ++ [o]
             pending := match i.dReg with
               | some r => if t.pending.contains r.toNat then t.pending else t.pending ++ [r.toNat]
               | none => t.pending }))

/-- A long instruction whose result is ready at once. -/
def longResult (s : State) (i : Instr) (e : Env) (x : Word) (fl : Flags) : State :=
  (addOut s i e [] (some x) fl).2

end Sys2Proof.Machine
end

