-- ==== Sys2Proof/Machine/Flags.lean ====
section
/-! DEFINITION. FPCTL and FPF (R287, R288), and the floating-point exception (R290). -/

namespace Sys2Proof.Machine

/-- TE of FPCTL as a set of flags: bit 9 + j enables FPX for flag j, 0 NX to 4 NV (R287). -/
def trapEnables (fpctl : Word) : Flags := BitVec.ofNat 6 (bitsOf fpctl 13 9)

/-- FTZ of FPCTL (R274, R287). -/
def ftzOf (fpctl : Word) : Bool := bitAt fpctl 4

/-- IDZ of FPCTL (R255, R287). -/
def idzOf (fpctl : Word) : Bool := bitAt fpctl 8

/-- Whether a set of flags raises FPX (R290). -/
def raisesFpx (fpctl : Word) (fl : Flags) : Bool := fl &&& trapEnables fpctl != 0

/-- The FPX trap: INFO records the flags that would have been set (R290, R385). -/
def fpxTrap (fl : Flags) : Trap := ⟨causeFpx, 0, 0, fl.zeroExtend 64, 0, none, false⟩

/-- Flags go into FPF (R288). -/
def Thread.addFlags (t : Thread) (fl : Flags) : Thread := { t with fpf := t.fpf ||| fl }

/-- What FPCTL holds after a write (R287): reserved fields read zero, and an RM of 0, 6 or 7 stores 1. -/
def fpctlWrite (x : Word) : Word :=
  let rm := bitsOf x 2 0
  BitVec.ofNat 64 (bitsOf x 13 9 * 2 ^ 9 + bitsOf x 8 8 * 2 ^ 8 + bitsOf x 4 4 * 2 ^ 4
    + (if 1 ≤ rm ∧ rm ≤ 5 then rm else 1))

/-- The rounding mode of a unit (R191, R280, R292): PRE's, FPCTL.RM for code 6, the instruction's own for code 0. -/
def roundOf (own : RMode) (fpctl : Word) (h : Hints) : RMode :=
  if h.rm = 0#3 then own
  else if h.rm = 6#3 then RMode.ofCode (bitsOf fpctl 2 0)
  else RMode.ofCode h.rm.toNat

/-- A short instruction's flags: FPX before any effect, or FPF takes them with the effect `f` (R290). -/
def withFlags (s : State) (e : Env) (fl : Flags) (f : State → State) : LaneOut :=
  if raisesFpx (s.thread e.key).fpctl fl then .trap s (fpxTrap fl)
  else .done (f (s.updThread e.key (fun t => t.addFlags fl)))

/-! ### Results of outstanding instructions (R185, R209, R290) -/

/-- Zero- or sign-extension of a loaded value of `w` bits (R209). -/
def extend (z : IT) (x : Nat) : Word :=
  if z.signed then BitVec.ofInt 64 (toSigned z.bits x) else BitVec.ofNat 64 (x % 2 ^ z.bits)

/-- The value an instruction makes of the bytes it loaded. -/
def loadedWord (i : Instr) (bs : List Byte) : Word :=
  match i with
  | .ld _ z .. | .ldb _ z .. => extend z (bytesToNat bs)
  | _ => bytesWord bs

/-- The result of an outstanding instruction, once it is there. -/
def Outst.value (o : Outst) : Option Word :=
  match o.result with
  | some r => some r
  | none => if o.data.all Option.isSome then some (loadedWord o.instr (o.data.map (fun b => b.getD 0))) else none

/-- A result that is not written: it raises FPX, or it was read from poison (R81, R290). -/
def Outst.raises (o : Outst) (fpctl : Word) : Bool := o.bad || raisesFpx fpctl o.flags

/-- The trap of such a result: the instruction stands in the replay queue (R290). -/
def Outst.trapOf (o : Outst) : Trap :=
  { (if o.bad then trapAt causeEcc o.env.addr else fpxTrap o.flags) with at_ := some o.env.pc, keep := true }

/-- Results of outstanding instructions that are there return before a trap is taken; what raises a trap of its own, and a
load not yet performed, stays outstanding (log entry 12). -/
def Thread.deliverReady (t : Thread) : Thread :=
  let ready (o : Outst) : Bool := o.value.isSome && !o.raises t.fpctl
  let t' := (t.outs.filter ready).foldl (fun (t : Thread) o =>
    let t := match o.instr.dReg, o.value with | some r, some x => t.setV r.toNat x | _, _ => t
    t.addFlags o.flags) t
  { t' with outs := t.outs.filter (fun o => !(ready o)) }

end Sys2Proof.Machine
end

