-- ==== Sys2Proof/Machine/Mem.lean ====
section
/-! DEFINITION. Homes (R22, R49): reads and writes performed at a physical address, a Well bank or a scratchpad, with
the release tags (R103) and the poison (R81) they carry. -/

namespace Sys2Proof.Machine

/-! ### Ranges of bytes -/

/-- The cells of a range, moved by an offset. -/
def Memory.moved (m : Memory) (src dst len : Nat) : Memory :=
  (m.filter (fun c => decide (src ≤ c.1) && decide (c.1 < src + len))).map (fun c => (c.1 - src + dst, c.2))

/-- Clear a range. -/
def Memory.clear (m : Memory) (a len : Nat) : Memory :=
  m.filter (fun c => !(decide (a ≤ c.1) && decide (c.1 < a + len)))

/-- Write every cell of a list. -/
def Memory.writeCells (m : Memory) (cs : Memory) : Memory := cs.foldl (fun m c => Memory.write m c.1 c.2) m

/-- Copy `len` bytes within one memory. -/
def Memory.copy (m : Memory) (src dst len : Nat) : Memory :=
  Memory.writeCells (Memory.clear m dst len) (Memory.moved m src dst len)

/-! ### Physical addresses (R22) -/

/-- Where a physical address is homed. -/
inductive Home where
  | hbm (die : Nat) | tier2 | host | peer (p : Nat) | hole
  deriving DecidableEq, Repr

/-- The map of R22. -/
def homeOf (pa : Nat) : Home :=
  if pa < 0x400_0000_0000 then .hbm (pa / 2 ^ 39)
  else if pa < 0x600_0000_0000 then .tier2
  else if 0x1_0000_0000_0000 ≤ pa && pa < 0x2_0000_0000_0000 then .host
  else if 0x8_0000_0000_0000 ≤ pa && pa < 0x10_0000_0000_0000 then .peer ((pa - 0x8_0000_0000_0000) / 2 ^ 43)
  else .hole

/-- Whether a route to a peer is valid (R414, R415). -/
def peerUp (s : State) (p : Nat) : Bool :=
  let e := Tbl.getD s.peerrt p 0
  e.getLsbD 4 && !(s.routesDown.contains p)

/-- Whether a frame of `size` bytes lies wholly in populated memory that can be reached (R22, R413, R414). -/
def framePopulated (s : State) (pa size : Nat) : Bool :=
  let ok (h : Home) (last : Home) : Bool :=
    match h, last with
    | .hbm _, .hbm _ => true
    | .hbm _, .tier2 => true
    | .tier2, .tier2 => true
    | .host, .host => true
    | .peer p, .peer q => p == q && peerUp s p
        && decide ((pa - 0x8_0000_0000_0000) % 2 ^ 43 + size ≤ 0x600_0000_0000)
    | _, _ => false
  ok (homeOf pa) (homeOf (pa + size - 1))

/-- A home on a compute die (R49). -/
def homeDie (pa : Nat) : Option Nat :=
  match homeOf pa with
  | .hbm d => some d
  | _ => none

/-- Memory whose lines the far ways of a die may hold (R63, R64): homed on another die or on the second tier. -/
def farCacheable (die pa : Nat) : Bool :=
  match homeOf pa with
  | .hbm d => d != die
  | .tier2 => true
  | _ => false

/-- Host and peer memory (R22). -/
def outsidePa (pa : Nat) : Bool :=
  match homeOf pa with
  | .host | .peer _ => true
  | _ => false

/-- Host memory (R22). -/
def hostPa (pa : Nat) : Bool := homeOf pa == .host

/-- A number for each home. -/
def homeCode (pa : Nat) : Nat :=
  match homeOf pa with
  | .hbm d => d + 1
  | .tier2 => 9
  | .host => 10
  | .hole => 11
  | .peer p => p + 12

/-- The lines of a physical range. -/
def plines (pa n : Nat) : List Nat := (List.range ((pa + n - 1) / 128 + 1 - pa / 128)).map (fun i => pa / 128 + i)

/-! ### Poison (R81) and release tags (R103) -/

def poisonPhys (pa : Nat) : Nat := pa / 64
def poisonWell (key : Nat) : Nat := 2 ^ 60 + key / 64
def poisonScratch (key : Nat) : Nat := 2 ^ 61 + key / 64
def poisonMargin (key : Nat) : Nat := 2 ^ 62 + key / 64
def poisonAcc (key : Nat) : Nat := 2 ^ 63 + key / 16

/-- Whether a range of 64-byte blocks, from block key `b` of byte address `a`, holds poison. -/
def poisonedRange (s : State) (key : Nat → Nat) (a n : Nat) : Bool :=
  s.poison.any (fun p => decide (key a ≤ p) && decide (p ≤ key (a + n - 1)))

/-- A store clears the poison of every block it writes whole; a partial store leaves it (R81). -/
def unpoison (s : State) (key : Nat → Nat) (a n : Nat) : State :=
  if s.poison.isEmpty then s
  else { s with poison := s.poison.filter (fun p =>
    !(decide (key (a + 63) ≤ p) && decide (p < key (a + n)))) }

/-- The blocks of a line that a range covers whole. -/
def wholeBlocks (line pa n : Nat) : List Nat :=
  [0, 1].filter (fun b => decide (pa ≤ line * 128 + 64 * b) && decide (line * 128 + 64 * b + 64 ≤ pa + n))

/-! ### The ways of an L2 (R61, R62, R77) -/

/-- What a way is for. -/
inductive WayRole where
  | home | far | well
  deriving DecidableEq, Repr

/-- The role of a way with `n` Well ways and `f` far ways (R61). -/
def wayRole (n f w : Nat) : WayRole := if 20 - n ≤ w then .well else if 20 - n - f ≤ w then .far else .home

/-- The role of a way once the change under way is complete; with none, its role. -/
def roleAfter (s : State) (w : Nat) : WayRole := wayRole s.wellCur (if s.wellStatus = 1 then s.farReq else s.farCur) w

/-- The ways that fill new lines in a role: while a change is under way, those that keep it (R77). -/
def fillable (s : State) (r : WayRole) : List Nat :=
  (List.range 20).filter (fun w => wayRole (s.wellFrom.getD s.wellCur) s.farCur w == r && roleAfter s w == r)

/-- Lines of a way: 8 MiB. -/
def wayLines : Nat := 65536

/-- Where a line goes: the lowest of the ways with room, else the lowest (R62: replacement is not described). -/
def wayFor (ws used : List Nat) : Nat :=
  ((ws.find? (fun w => decide ((used.filter (fun u => u == w)).length < wayLines))).orElse (fun _ => ws.head?)).getD 0

/-- A store at home to a line of a die's HBM: a line of the home ways is dirty from then on, and one that is missing is
allocated (R62). Blocks written whole lose their poison (R81). -/
def homeStore (s : State) (die line : Nat) (whole : List Nat) : State :=
  s.updDie die (fun d =>
    { d with home :=
        if d.home.any (fun h => h.line == line) then
          d.home.map (fun h => if h.line == line then
            { h with dirty := true, bad := h.bad.filter (fun b => !(whole.contains b)) } else h)
        else d.home ++ [⟨line, wayFor (fillable s .home) (d.home.map (fun h => h.way)), true,
          [0, 1].filter (fun b => s.poison.contains (line * 2 + b) && !(whole.contains b))⟩] })

/-- A home-way line is replaced: dirty, it is written back to HBM (R62). -/
def writeBack (s : State) (die : Nat) (h : HomeLine) : State :=
  let s := s.updDie die (fun d => { d with home := d.home.filter (fun k => k.line != h.line) })
  if h.dirty then
    { s with poison := s.poison.filter (fun p => p / 2 != h.line) ++ h.bad.map (fun b => h.line * 2 + b) }
  else s

/-- Whether bytes at home are poisoned: for HBM, in the home ways where the line stands there. -/
def poisonedPhys (s : State) (pa n : Nat) : Bool :=
  let inside (p : Nat) : Bool := decide (pa / 64 ≤ p) && decide (p ≤ (pa + n - 1) / 64)
  match homeOf pa with
  | .hbm d =>
    let ls := (s.die d).home.filter (fun h => decide (pa / 128 ≤ h.line) && decide (h.line ≤ (pa + n - 1) / 128))
    ls.any (fun h => h.bad.any (fun b => inside (h.line * 2 + b)))
      || s.poison.any (fun p => inside p && !(ls.any (fun h => h.line == p / 2)))
  | _ => s.poison.any inside

/-- The poisoned blocks of a line at home, 0 and 1. -/
def badBlocks (s : State) (line : Nat) : List Nat := [0, 1].filter (fun b => poisonedPhys s (line * 128 + 64 * b) 64)

/-- The tag key of a home line, for HBM only, and of a Well block. -/
def tagPhys (pa : Nat) : Option Nat :=
  match homeOf pa with
  | .hbm _ => some (pa / 128)
  | _ => none
def tagWell (key : Nat) : Nat := 2 ^ 50 + key / 64

/-- Any other write sets a tag to none (R103). -/
def clearTags (s : State) (lo hi : Nat) : State :=
  if s.tags.isEmpty then s
  else { s with tags := s.tags.filter (fun p => !(decide (lo ≤ p.1) && decide (p.1 ≤ hi))) }

/-- A release sets the tag of its location. -/
def setTag (s : State) (key : Option Nat) (core scope : Nat) : State :=
  match key with
  | some k => { s with tags := Tbl.set s.tags k ⟨core, scope⟩ }
  | none => s

/-! ### Reads and writes at home -/

/-- Bytes at their home. -/
def physRead (s : State) (pa n : Nat) : List Byte := Memory.readN s.phys pa n

/-- A write performed at home: it clears the poison of whole blocks and the release tag of its lines, and an HBM line
that is not in its die's home ways is allocated there (R62, R81, R103). -/
def physWrite (s : State) (pa : Nat) (bs : List Byte) : State :=
  let n := bs.length
  let s := { s with phys := Memory.writeN s.phys pa bs }
  match homeOf pa with
  | .hbm d =>
    if n = 0 then s
    else clearTags ((plines pa n).foldl (fun s l => homeStore s d l (wholeBlocks l pa n)) s) (pa / 128) ((pa + n - 1) / 128)
  | _ => unpoison s poisonPhys pa n

/-- A number at home. -/
def physNat (s : State) (pa n : Nat) : Nat := bytesToNat (physRead s pa n)

/-- A hardware structure's own access: the address must exist (R22). -/
def hwRead (s : State) (pa n : Nat) : List Byte × State :=
  match homeOf pa with
  | .hole => (List.replicate n 0, s.stopAt pa)
  | _ => (physRead s pa n, s)
def hwWrite (s : State) (pa : Nat) (bs : List Byte) : State :=
  match homeOf pa with
  | .hole => s.stopAt pa
  | _ => physWrite s pa bs

/-! ### The Well (R65 to R68) -/

def wellKey (die off : Nat) : Nat := die * 2 ^ 28 + off

/-- Bytes of Well populated on each die (R75). -/
def wellSize (s : State) : Nat := s.wellCur * 2 ^ 23

/-- A Well offset whose way is not zero-filled yet (R77). -/
def wellFilling (s : State) (off : Nat) : Bool :=
  match s.wellFrom with
  | some w => decide (w * 2 ^ 23 ≤ off)
  | none => false

def wellRead (s : State) (die off n : Nat) : List Byte := Memory.readN s.well (wellKey die off) n
def wellWrite (s : State) (die off : Nat) (bs : List Byte) : State :=
  let k := wellKey die off
  let s := { s with well := Memory.writeN s.well k bs }
  let s := unpoison s poisonWell k bs.length
  clearTags s (tagWell k) (tagWell (k + bs.length - 1))
def wellNat (s : State) (die off n : Nat) : Nat := bytesToNat (wellRead s die off n)
def wellPut (s : State) (die off n x : Nat) : State := wellWrite s die off (natToBytes n x)

/-- A write of a Well block by the arithmetic unit itself, which leaves the release tag to its own rule. -/
def wellUnit (s : State) (die off n x : Nat) : State :=
  { s with well := Memory.writeN s.well (wellKey die off) (natToBytes n x) }

/-! ### Scratchpads (R59) -/

/-- Where a context's byte of a core's scratchpad stands, by CTXID: what another context left there is no part of it. -/
def scratchKey (cid core off : Nat) : Nat := (cid * 320 + core) * 2 ^ 20 + off
def scratchRead (s : State) (key n : Nat) : List Byte := Memory.readN s.scratch key n
def scratchWrite (s : State) (key : Nat) (bs : List Byte) : State :=
  unpoison { s with scratch := Memory.writeN s.scratch key bs } poisonScratch key bs.length

/-! ### Windows (R17, R18) -/

/-- The window a byte address decodes to. -/
inductive Win where
  | glob | well (die off : Nat) | scr (idx off : Nat) | bad
  deriving DecidableEq, Repr

/-- R17; a required zero that is not zero is a window fault (R18). -/
def window (a : Word) : Win :=
  let w := bitsOf a 63 56
  if w = 0 then .glob
  else if w = 1 then if bitsOf a 55 31 = 0 then .well (bitsOf a 30 28) (bitsOf a 27 0) else .bad
  else if w = 2 then if bitsOf a 55 24 = 0 then .scr (bitsOf a 23 20) (bitsOf a 19 0) else .bad
  else .bad

/-- The window of an access of `n` bytes: its first and last bytes must decode alike (R18). -/
def windowOf (a : Word) (n : Nat) : Win :=
  match window a, window (a + BitVec.ofNat 64 (n - 1)) with
  | .glob, .glob => .glob
  | .well d o, .well d' _ => if d = d' then .well d o else .bad
  | .scr i o, .scr i' _ => if i = i' then .scr i o else .bad
  | _, _ => .bad

/-- Within the context's Well bounds (R19). -/
def wellBounds (s : State) (ctx die off n : Nat) : Bool :=
  let b := Tbl.getD (s.ctx ctx).wb die 0
  decide (bitsOf b 27 0 ≤ off) && decide (off + n ≤ bitsOf b 59 32) && decide (off + n ≤ wellSize s)

/-- Width and height of a launch's rectangle (R372). -/
def rectOf (record : List Byte) : Nat × Nat :=
  let r := fieldAt record 37 1
  (r % 16, r / 16)

/-- Cores of the rectangle of a team's cluster. -/
def rectCores (s : State) (team : Nat) : Nat :=
  match s.launch (s.team team).launch with
  | some l => (rectOf l.record).1 * (rectOf l.record).2
  | none => 1

/-- The team that index `i` of the scratchpad window names for a team (R20). -/
def scratchTeam (s : State) (team i : Nat) : Option Nat :=
  let t := s.team team
  if i = 15 then some team
  else if 12 ≤ i || rectCores s team ≤ i then none
  else (s.teams.find? (fun p => p.2.launch == t.launch && p.2.cluster == t.cluster && p.2.index == i
    && p.2.rank == t.rank)).map (fun p => p.1)

/-- Commands issued from a slot that are not yet recorded as complete (R107, R159). -/
def slotBusy (s : State) (team slot : Nat) : Bool :=
  (List.range 4).any (fun c => Tbl.getD (s.team team).counters (slot * 4 + c) 0 != 0)

/-- A team's life is over, and with it its allocations (R59): its threads have exited, and the commands that they issued have run to
completion (R244; DEDUCED, log entry 23). -/
def Team.gone (t : Team) (s : State) (team : Nat) : Bool := t.exited && t.groups.all (fun g => !slotBusy s team g.slot)

/-- The key of a scratchpad access of `n` bytes, and its core; none raises SCRATCH (R20), as where the team that it names has no
allocation any more (R59). -/
def scratchAt (s : State) (team i off n : Nat) : Option (Nat × Nat) :=
  match scratchTeam s team i with
  | some u =>
    let t := s.team u
    if off + n ≤ t.scrSize ∧ t.gone s u = false then some (scratchKey (s.cid t.ctx) t.core (t.scrBase + off), t.core) else none
  | none => none

end Sys2Proof.Machine
end

