-- ==== Sys2Proof/Machine/Translate.lean ====
section
/-! DEFINITION. Translation of the global window (R22 to R48): the walk, its checks in the order of R26, the TLBs, the
permission check of R36, ink maps (R29 to R32), and the faults offered to host (R37, R38). -/

namespace Sys2Proof.Machine

/-- How a translation fails: a PAGE kind of R37 with log2 of the page's size, or INK_PAGE. A fault that has no leaf has the
size of the smallest page (DESIGN CHOICE, log entry 30). -/
inductive XErr where
  | page (kind bits : Nat)
  | inkPage
  deriving DecidableEq, Repr

/-- The bits of a leaf entry (R24). -/
def leafV (e : Word) : Bool := bitAt e 0
def leafL (e : Word) : Bool := bitAt e 1
def leafW (e : Word) : Bool := bitAt e 2
def leafX (e : Word) : Bool := bitAt e 3
def leafI (e : Word) : Bool := bitAt e 7
def leafR (e : Word) : Bool := bitAt e 8
def leafF (e : Word) : Bool := bitAt e 11
def leafRgn (e : Word) : Nat := bitsOf e 61 52
def leafFrame (e : Word) : Nat := bitsOf e 51 16 * 2 ^ 16

/-- The checks of one entry read at a level, 3 down to 0 (R25, R26): an error, a leaf, or the next table. -/
def checkEntry (s : State) (level : Nat) (e : Word) : Except XErr (Option Nat) :=
  if !leafV e then .error (.page 0 16)
  else if leafL e then
    let bits := if level = 2 then 30 else if level = 1 then 21 else 16
    if level = 3 then .error (.page 3 16)
    else if bitsOf e 63 62 != 0 || bitsOf e 15 12 != 0 || bitsOf e 6 4 != 0
      || (!leafR e && leafRgn e != 0) || leafFrame e % 2 ^ bits != 0 then .error (.page 3 16)
    else if leafI e && level != 0 then .error .inkPage
    else if !framePopulated s (leafFrame e) (2 ^ bits) then .error (.page 4 bits)
    else .ok none
  else if level = 0 then .error (.page 3 16)
  else
    let next := bitsOf e 51 8 * 2 ^ 8
    if bitsOf e 63 52 != 0 || bitsOf e 7 2 != 0 || (level != 1 && next % 2 ^ 12 != 0) then .error (.page 3 16)
    else .ok (some next)

/-- The index of a virtual address at a level (R23). -/
def tableIndex (va : Nat) (level : Nat) : Nat :=
  if level = 3 then (va / 2 ^ 39) % 2 ^ 17
  else if level = 2 then (va / 2 ^ 30) % 512
  else if level = 1 then (va / 2 ^ 21) % 512
  else (va / 2 ^ 16) % 32

/-- One level of a walk: an error, the translation of a leaf, or the next table. -/
def walkLevel (s : State) (va table level : Nat) : Except XErr (TlbEntry ⊕ Nat) × State :=
  let a := table + 8 * tableIndex va level
  let (bs, s) := hwRead s a 8
  let e := bytesWord bs
  match checkEntry s level e with
  | .error x => (.error x, s)
  | .ok none =>
    let bits := if level = 2 then 30 else if level = 1 then 21 else 16
    (.ok (.inl ⟨0, va / 2 ^ bits, bits, e, a⟩), s)
  | .ok (some next) => (.ok (.inr next), s)

/-- The levels a walk goes down. -/
def walkFrom (va : Nat) : Nat → State → Nat → Except XErr TlbEntry × State
  | 0, s, table =>
    match walkLevel s va table 0 with
    | (.ok (.inl t), s) => (.ok t, s)
    | (.ok (.inr _), s) => (.error (.page 3 16), s)
    | (.error x, s) => (.error x, s)
  | l + 1, s, table =>
    match walkLevel s va table (l + 1) with
    | (.ok (.inl t), s) => (.ok t, s)
    | (.ok (.inr next), s) => walkFrom va l s next
    | (.error x, s) => (.error x, s)

/-- A walk from the context's root (R23 to R28, R44), reading each entry at its home (R27). -/
def walk (s : State) (ctx va : Nat) : Except XErr TlbEntry × State :=
  let r := walkFrom va 3 s (bitsOf (s.ctx ctx).root 51 20 * 2 ^ 20)
  (match r.1 with
    | .ok t => .ok { t with ctx := s.cid ctx }
    | .error x => .error x, r.2)

/-- Whether a TLB entry maps an address for a CTXID (R43). -/
def TlbEntry.covers (t : TlbEntry) (cid va : Nat) : Bool := t.ctx == cid && t.vpage == va / 2 ^ t.bits

/-- A cached translation to a peer whose route is not valid any more raises BADPA, as its walk would (R414, R415). -/
def TlbEntry.reached (t : TlbEntry) (s : State) : Except XErr TlbEntry :=
  match homeOf (leafFrame t.leaf) with
  | .peer p => if peerUp s p then .ok t else .error (.page 4 t.bits)
  | _ => .ok t

/-- A TLB of limited capacity drops its oldest entry. -/
def tlbAdd (cap : Nat) (l : List TlbEntry) (t : TlbEntry) : List TlbEntry :=
  let l := l ++ [t]
  l.drop (l.length - cap)

/-- Set bits of a leaf entry by an atomic OR at its home (R24). -/
def orLeaf (s : State) (a : Nat) (bit : Nat) : State :=
  let e := bytesWord (physRead s a 8)
  if bitAt e bit then s else hwWrite s a (wordBytes 8 (e ||| BitVec.twoPow 64 bit))

/-- A walk for a core whose translation is installed in both TLBs, with A set (R24, R43, R44). -/
def walkInstall (s : State) (core ctx va : Nat) : Except XErr TlbEntry × State :=
  match walk s ctx va with
  | (.error x, s) => (.error x, s)
  | (.ok t, s) =>
    let s := orLeaf s t.addr 9
    let s := s.updCore core (fun c => { c with tlb := tlbAdd Config.coreTlb c.tlb t })
    let s := s.updDie (dieOf core) (fun d => { d with tlb := tlbAdd Config.dieTlb d.tlb t })
    (.ok t, s)

/-- The translation of an address: the core's TLB, the die's TLB, the walker (R43). -/
def lookup (s : State) (core ctx va : Nat) : Except XErr TlbEntry × State :=
  match (s.core core).tlb.find? (fun t => t.covers (s.cid ctx) va) with
  | some t => (t.reached s, s)
  | none =>
    match (s.die (dieOf core)).tlb.find? (fun t => t.covers (s.cid ctx) va) with
    | some t => (t.reached s, s.updCore core (fun c => { c with tlb := tlbAdd Config.coreTlb c.tlb t }))
    | none => walkInstall s core ctx va

/-- An engine's translation: the die's TLB and its walker (R41). -/
def dieLookup (s : State) (core ctx va : Nat) : Except XErr TlbEntry × State :=
  match (s.die (dieOf core)).tlb.find? (fun t => t.covers (s.cid ctx) va) with
  | some t => (t.reached s, s)
  | none =>
    match walk s ctx va with
    | (.error x, s) => (.error x, s)
    | (.ok t, s) =>
      let s := orLeaf s t.addr 9
      (.ok t, s.updDie (dieOf core) (fun d => { d with tlb := tlbAdd Config.dieTlb d.tlb t }))

/-- The physical address a translation gives. -/
def TlbEntry.pa (t : TlbEntry) (va : Nat) : Nat := leafFrame t.leaf + va % 2 ^ t.bits

/-- What an access asks of its page (R36, check 5). -/
inductive Need where
  | read | write | fetch
  deriving DecidableEq, Repr

/-- Check 5 of R36. -/
def permitted (n : Need) (t : TlbEntry) : Option XErr :=
  match n with
  | .read => none
  | .write => if leafW t.leaf then none else some (.page 1 t.bits)
  | .fetch => if leafX t.leaf then none else some (.page 2 t.bits)

/-- The pieces of an access that spans pages: address and length, the page of 64 KiB the least a leaf maps. -/
def pagePieces (va n : Nat) : List (Nat × Nat) :=
  let first := 2 ^ 16 - va % 2 ^ 16
  if n ≤ first then [(va, n)] else [(va, first), (va + first, n - first)]

/-- A translated piece of an access. -/
structure Piece where
  va : Nat
  len : Nat
  pa : Nat
  tlb : TlbEntry
  deriving DecidableEq, Repr

/-- Check 4 of R36 for each piece, the lower page first (R207). -/
def translatePieces (s : State) (core ctx : Nat) : List (Nat × Nat) → Except (XErr × Nat) (List Piece) × State
  | [] => (.ok [], s)
  | (va, n) :: ps =>
    match lookup s core ctx va with
    | (.error x, s) => (.error (x, va), s)
    | (.ok t, s) =>
      match translatePieces s core ctx ps with
      | (.ok qs, s) => (.ok (⟨va, n, t.pa va, t⟩ :: qs), s)
      | (.error x, s) => (.error x, s)

/-- The first failure of check 5. -/
def firstDenied (n : Need) : List Piece → Option (XErr × Nat)
  | [] => none
  | p :: ps =>
    match permitted n p.tlb with
    | some x => some (x, p.va)
    | none => firstDenied n ps

/-- The granules of 256 bytes that a piece touches. -/
def granulesOf (p : Piece) : List Nat :=
  let lo := p.va / 256
  let hi := (p.va + p.len - 1) / 256
  (List.range (hi + 1 - lo)).map (fun i => lo + i)

/-- Virtual address of the ink map entry of a granule of an inked page (R29). -/
def inkMapVa (s : State) (ctx : Nat) (pa : Nat) : Nat :=
  (s.ctx ctx).inkmap.toNat + (pa / 2 ^ 16) * 512 + (pa % 2 ^ 16) / 256 * 2

/-- The ink of a granule at a physical address of an inked page (R31): the map entry is read at its home, its address
translated for a core or for an engine (R41). -/
def inkOf (s : State) (eng : Bool) (core ctx pa : Nat) : Except XErr Nat × State :=
  let a := inkMapVa s ctx pa
  match (if eng then dieLookup s core ctx a else lookup s core ctx a) with
  | (.error .inkPage, s) => (.error .inkPage, s)
  | (.error (.page _ _), s) => (.error (.page 5 16), s)
  | (.ok t, s) =>
    if leafI t.leaf then (.error .inkPage, s)
    else (.ok (bytesToNat (physRead s (t.pa a) 2) % 4096), s)

/-- The inks of the granules of one piece (check 6 of R36), 0 for a granule that has none. -/
def inksOfGranules (s : State) (eng : Bool) (core ctx : Nat) (p : Piece) : List Nat → Except (XErr × Nat) (List Nat) × State
  | [] => (.ok [], s)
  | g :: gs =>
    let pa := p.tlb.pa (g * 256)
    match inkOf s eng core ctx pa with
    | (.error x, s) => (.error (x, p.va), s)
    | (.ok j, s) =>
      match inksOfGranules s eng core ctx p gs with
      | (.ok js, s) => (.ok (j :: js), s)
      | (.error x, s) => (.error x, s)

/-- The inks an access touches, page by page; a page with I = 0 has none (R111). -/
def inksOfPieces (s : State) (core ctx : Nat) : List Piece → Except (XErr × Nat) (List Nat) × State
  | [] => (.ok [], s)
  | p :: ps =>
    if leafI p.tlb.leaf then
      match inksOfGranules s false core ctx p (granulesOf p) with
      | (.error x, s) => (.error x, s)
      | (.ok js, s) =>
        match inksOfPieces s core ctx ps with
        | (.ok ks, s) => (.ok (js ++ ks), s)
        | (.error x, s) => (.error x, s)
    else inksOfPieces s core ctx ps

/-! ### Faults offered to host (R37, R38, R421) -/

/-- The fault of a page of 2^`bits` bytes, die and context: one already open or waiting is joined, else a new one waits to
be posted (R38). `lane` says that a lane meets it, whose core joins those of its lanes (R421). Its key, and the state. A fault that has no leaf (NOTPRESENT, RSVD) counts 64 KiB as its page (DESIGN CHOICE, log
entry 30). -/
def openFault (s : State) (ctx : Nat) (va : Word) (kind bits access core : Nat) (lane : Bool) : Nat × State :=
  let c := s.ctx ctx
  let cores := if lane then [core] else []
  match c.faults.find? (fun f => f.bits == bits && f.page == va.toNat / 2 ^ bits && f.die == dieOf core) with
  | some f =>
    if lane && !f.lanes.contains core then
      (f.key, s.updCtx ctx (fun c => { c with
        faults := c.faults.map (fun g => if g.key = f.key then { g with lanes := g.lanes ++ cores } else g) }))
    else (f.key, s)
  | none =>
    let (k, s) := s.fresh
    let f : PageFault := ⟨k, ctx, va.toNat / 2 ^ bits, bits, va, kind, access, dieOf core, cores, none⟩
    (k, s.updCtx ctx (fun c => { c with faults := c.faults ++ [f] }))

/-- The ACCESS byte of a fault record (R421). -/
def accessByte (write fetch engine inkMap atomic : Bool) : Nat :=
  (if write then 1 else 0) + (if fetch then 2 else 0) + (if engine then 4 else 0) + (if inkMap then 8 else 0)
    + (if atomic then 16 else 0)

/-! ### The facsimile's write guard (R338) -/

/-- The physical pages of a virtual 64 KiB page as a walk finds it. -/
def pageOf (s : State) (ctx vpage : Nat) : Option TlbEntry :=
  match walk s ctx (vpage * 2 ^ 16) with
  | (.ok t, _) => some t
  | _ => none

/-- Clear F of a leaf once no page of the snap that it maps is still to copy (R338). -/
def clearF (s : State) (ctx : Nat) (a : Nat) (left : List (Nat × Nat)) : State :=
  if left.any (fun p => match pageOf s ctx p.1 with | some t => t.addr == a | none => false) then s
  else
    let e := bytesWord (physRead s a 8)
    if leafF e then hwWrite s a (wordBytes 8 (e &&& ~~~(BitVec.twoPow 64 11))) else s

/-- The pages of a snap that a leaf maps, still to copy. -/
def Snap.under (sn : Snap) (s : State) (ctx : Nat) (a : Nat) : List (Nat × Nat) :=
  sn.pages.filter (fun p => match pageOf s ctx p.1 with | some u => u.addr == a | none => false)

/-- Whether a write through a leaf must let a snap copy first: F is set there, or a page that it maps had no leaf at the cut
(R337; DEDUCED, log entry 54), and a page under it is still to copy. -/
def Snap.guards (sn : Snap) (s : State) (ctx : Nat) (a : Nat) : Bool :=
  let left := sn.under s ctx a
  (leafF (bytesWord (physRead s a 8)) && !left.isEmpty) || left.any (fun p => sn.unmapped.contains p.1)

/-- A device write through a leaf that a snap guards stalls until its pages are copied, ahead of their turn (R338): the key of
the wait. -/
def snapKey (s : State) (ctx : Nat) (t : TlbEntry) : Option Nat × State :=
  match (s.ctx ctx).snap with
  | none => (none, s)
  | some sn =>
    if !sn.guards s ctx t.addr then (none, s)
    else
      match sn.ahead.find? (fun p => p.1 == t.addr) with
      | some p => (some p.2, s)
      | none =>
        let (k, s) := s.fresh
        (some k, s.updCtx ctx (fun c => { c with snap := some { sn with ahead := sn.ahead ++ [(t.addr, k)] } }))

/-- The first piece of a write that must wait for a snap. -/
def snapWait (s : State) (ctx : Nat) : List Piece → Option Nat × State
  | [] => (none, s)
  | p :: ps =>
    match snapKey s ctx p.tlb with
    | (some k, s) => (some k, s)
    | (none, s) => snapWait s ctx ps

/-- Before a write through a page: D is set (R24). -/
def beforeWrite (s : State) (ps : List Piece) : State := ps.foldl (fun s p => orLeaf s p.tlb.addr 10) s

end Sys2Proof.Machine
end

