-- ==== Sys2Proof/Machine/Cache.lean ====
section
/-! DEFINITION. The L1, the far ways, the request collector and the far-way controllers (R48 to R74), what a release
waits for and an acquire does (R89 to R93, R103), and the observed rounds of a core (R145 to R148). -/

namespace Sys2Proof.Machine

/-! ### Rounds -/

/-- The key of an observed round. -/
def roundKey (ctx rgn : Nat) : Nat := ctx * 1024 + rgn

/-- The observed round of a region on a core; none is unknown (R145). -/
def observed (s : State) (core ctx rgn : Nat) : Option Word := Tbl.get? (s.core core).observed (roundKey ctx rgn)

/-- Set or raise an entry to a value (R145). -/
def raiseObserved (s : State) (core ctx rgn : Nat) (v : Word) : State :=
  let n := match observed s core ctx rgn with
    | some o => if o.toNat < v.toNat then v else o
    | none => v
  s.updCore core (fun c => { c with observed := Tbl.set c.observed (roundKey ctx rgn) n })

/-- A beacon acts only on a known entry (R147). -/
def raiseKnown (s : State) (core ctx rgn : Nat) (v : Word) : State :=
  match observed s core ctx rgn with
  | some _ => raiseObserved s core ctx rgn v
  | none => s

/-- Every entry of a context on a core is unknown (R146). -/
def forgetRounds (s : State) (core ctx : Nat) : State :=
  s.updCore core (fun c => { c with observed := c.observed.filter (fun p => p.1 / 1024 != ctx) })

/-- A fill round qualifies against a lower bound: (f − lo) mod 2^32 < 2^31 (R148). -/
def qualifies (f lo : Word) : Bool := decide ((f.setWidth 32 - lo.setWidth 32).toNat < 2 ^ 31)

/-- A fill round lags an observed round by 2^31 or more (R58, R148). -/
def lagging (f o : Word) : Bool := decide (f.toNat + 2 ^ 31 ≤ o.toNat)

/-- The die and Well offset of a Well-window base register plus an offset (R34, R350). -/
def wellAddr (base : Word) (o : Nat) : Nat × Nat :=
  let a := bitsOf base 30 0 + o
  (a / 2 ^ 28 % 8, a % 2 ^ 28)

/-- The counter block of a region (R142), or none when its address fails the Well bounds (R35). -/
def counterAt (s : State) (ctx rgn : Nat) : Option (Nat × Nat) :=
  let (d, o) := wellAddr (s.ctx ctx).roundbase (rgn * 64)
  if wellBounds s ctx d o 64 then some (d, o) else none

/-- A query of a counter by a core: it returns ROUND, sets the die's SUBS bit and raises the observed round
(R144 to R146, R149). A query of a poisoned counter block raises nothing and takes the bits as they stand (DESIGN CHOICE, log entry 62). -/
def roundQuery (s : State) (core ctx rgn : Nat) (at_ : Nat × Nat) : Word × State :=
  let n := bytesWord (wellRead s at_.1 at_.2 8)
  let subs := bytesWord (wellRead s at_.1 (at_.2 + 8) 8) ||| BitVec.twoPow 64 (56 + dieOf core)
  let s := wellUnit s at_.1 (at_.2 + 8) 8 subs.toNat
  (n, raiseObserved s core ctx rgn n)

/-! ### The L1 (R55 to R58) -/

/-- Whether a line may serve a context: its epoch is the core's, or its fill round does not lag the observed round by
2^31. -/
def lineLive (s : State) (core ctx : Nat) (l : Line) : Bool :=
  match l.round with
  | none => l.epoch == (s.core core).epoch
  | some (rgn, f) =>
    match observed s core ctx rgn with
    | some o => !lagging f o
    | none => true

/-- A live line of a context at an address (R42). -/
def lineAt (s : State) (core ctx va : Nat) (l : Line) : Bool :=
  l.ctx == s.cid ctx && l.line == va / 128 && lineLive s core ctx l

/-- The live line of an address. -/
def l1Find (s : State) (core ctx va : Nat) : Option Line := (s.core core).l1.find? (lineAt s core ctx va)

/-- Put bytes into a list at an offset. -/
def patch (bs : List Byte) (o : Nat) (new : List Byte) : List Byte :=
  bs.take o ++ new.take (bs.length - o) ++ bs.drop (o + new.length)

/-- A line's bytes with single bytes stored over them. -/
def patched (bs : List Byte) (new : List (Nat × Byte)) : List Byte := new.foldl (fun bs b => bs.set b.1 b.2) bs

/-- Poisoned blocks of a line that stored bytes do not cover whole (R81). -/
def badUnder (bad : List Nat) (new : List (Nat × Byte)) : List Nat :=
  bad.filter (fun b => decide ((new.filter (fun x => x.1 / 64 == b)).length < 64))

/-- Whether a part of a line touches a poisoned block. -/
def badPart (bad : List Nat) (off len : Nat) : Bool :=
  bad.any (fun b => decide (off / 64 ≤ b) && decide (b ≤ (off + len - 1) / 64))

/-- Replies on their way for lines of a range no longer fill the L1: what they read is older than the line's last write
or read (R87, log entry 14). -/
def noFill (s : State) (core ctx va n : Nat) : State :=
  s.updCore core (fun c => { c with coll := c.coll.map (fun e =>
    if e.reply.isSome && e.ctx == ctx && decide (va / 128 ≤ e.line) && decide (e.line ≤ (va + n - 1) / 128) then
      { e with fill := false }
    else e) })

/-- A store updates its line, if the line is valid (R50, R54, R56). -/
def l1Update (s : State) (core ctx va : Nat) (bs : List Byte) : State :=
  let s := noFill s core ctx va bs.length
  s.updCore core (fun c => { c with l1 := c.l1.map (fun l =>
    if lineAt s core ctx va l then
      { l with bytes := patch l.bytes (va % 128) bs
               bad := l.bad.filter (fun b => !((wholeBlocks (va / 128) va bs.length).contains b)) }
    else l) })

/-- Invalidate the lines of a core that a test picks. -/
def l1Drop (s : State) (core : Nat) (p : Line → Bool) : State :=
  s.updCore core (fun c => { c with l1 := c.l1.filter (fun l => !(p l)) })

/-- The lines that a range of virtual addresses of a CTXID touches. -/
def lineIn (cid va n : Nat) (l : Line) : Bool :=
  l.ctx == cid && decide (va / 128 ≤ l.line) && decide (l.line ≤ (va + n - 1) / 128)

/-- Invalidate a core's lines of a range of virtual addresses (R52, R108). -/
def l1DropRange (s : State) (core ctx va n : Nat) : State :=
  l1Drop (noFill s core ctx va n) core (lineIn (s.cid ctx) va n)

/-- Fill a line. When the L1 is full it replaces a line of lowest retention, where there is one, else the one at a place
given (R50, R55: replacement is not architectural). -/
def l1Fill (s : State) (core evict : Nat) (l : Line) : State :=
  s.updCore core (fun c =>
    let rest := c.l1.filter (fun k => !(k.ctx == l.ctx && k.line == l.line))
    let rest := if rest.length < Config.l1Lines then rest
      else rest.eraseIdx ((rest.findIdx? (fun k => k.stream)).getD (evict % rest.length))
    { c with l1 := rest ++ [l] })

/-- Bump the L1 epoch; a wrap clears every epoch-tagged line (R56). What was read before the bump fills no line (R93). -/
def bumpL1 (s : State) (core : Nat) : State :=
  s.updCore core (fun c =>
    { c with coll := c.coll.map (fun e => if e.reply.isSome && e.round.isNone then { e with fill := false } else e)
             epoch := c.epoch + 1, l1 := if c.epoch = 255 then c.l1.filter (fun l => l.round.isSome) else c.l1 })

/-! ### The far ways (R63, R92) -/

/-- Bump the far epoch; a wrap clears every epoch-tagged line (R63). -/
def bumpFar (s : State) (die : Nat) : State :=
  s.updDie die (fun d =>
    { d with farEpoch := d.farEpoch + 1
             far := if d.farEpoch = 255 then d.far.filter (fun l => l.round.isSome) else d.far })

/-- Whether a far-way line may serve an access of a CTXID to a page of region `rgn`, or of no region (R63). -/
def farLive (s : State) (die cid : Nat) (rgn : Option Nat) (l : FarLine) : Bool :=
  match l.round, rgn with
  | none, none => l.epoch == (s.die die).farEpoch
  | some (c, g, _), some r => c == cid && g == r
  | _, _ => false

/-- A far-way copy follows a store that passes through the die (R63). -/
def farUpdate (s : State) (die pa : Nat) (bs : List Byte) : State :=
  s.updDie die (fun d => { d with far := d.far.map (fun l =>
    if decide (pa / 128 ≤ l.line) && decide (l.line ≤ (pa + bs.length - 1) / 128)
      && (l.round.isSome || l.epoch == d.farEpoch) then
      let first := l.line * 128 - pa
      { l with bytes := patch l.bytes (pa - l.line * 128) ((bs.drop first).take (128 - (pa - l.line * 128)))
               bad := l.bad.filter (fun b => !((wholeBlocks l.line pa bs.length).contains b)) }
    else l) })

/-- Fill a far-way line, in a way that keeps the far role; with no such way nothing is held (R61, R77). A die holds one far-way
copy of a physical line, whatever its tag (DESIGN CHOICE, log entry 31). With no room left, a line of lowest retention goes, or
the one held longest. -/
def farFill (s : State) (die : Nat) (l : FarLine) : State :=
  let ws := fillable s .far
  if ws.isEmpty then s
  else s.updDie die (fun d =>
    let rest := d.far.filter (fun k => k.line != l.line)
    let w := wayFor ws (rest.map (fun k => k.way))
    if (rest.filter (fun k => k.way == w)).length < wayLines then { d with far := rest ++ [{ l with way := w }] }
    else
      match (rest.find? (fun k => k.stream && ws.contains k.way)).orElse (fun _ => rest.find? (fun k => ws.contains k.way)) with
      | some v => { d with far := rest.filter (fun k => k.line != v.line) ++ [{ l with way := v.way }] }
      | none => { d with far := rest })

/-- Drop the far-way copies of a physical range (R108). -/
def farDrop (s : State) (die pa n : Nat) : State :=
  s.updDie die (fun d => { d with far := d.far.filter (fun l =>
    !(decide (pa / 128 ≤ l.line) && decide (l.line ≤ (pa + n - 1) / 128))) })

/-! ### Stores on their way (R71 to R73, R92) -/

/-- The runs of neighbouring bytes among the stores of a line, each by its offset. -/
def storeRuns (bs : List (Nat × Byte)) : List (Nat × List Byte) :=
  (bs.sortBy (fun a b => decide (a.1 ≤ b.1))).foldr (fun b rs => match rs with
    | (o, xs) :: rest => if b.1 + 1 == o then (b.1, b.2 :: xs) :: rest else (b.1, [b.2]) :: rs
    | [] => [(b.1, [b.2])]) []

/-- The stores of one line performed at its home; a release sets its tag (R103). -/
def performStores (s : State) (core pline : Nat) (rel : Bool) (bs : List (Nat × Byte)) : State :=
  let s := (storeRuns bs).foldl (fun s r => physWrite s (pline * 128 + r.1) r.2) s
  if rel && !bs.isEmpty then setTag s (tagPhys (pline * 128)) core 1 else s

/-- Two stores that are performed in the order they were accepted: those that one core sent to one home (R53, R414), and those
of one die to one line, whose order the die's controller keeps (R87, R92). -/
def Flight.together (f g : Flight) : Bool :=
  (f.core == g.core && homeCode (f.pline * 128) == homeCode (g.pline * 128)) || (f.die == g.die && f.pline == g.pline)

/-- The stores on their way that a test picks, with those that come before one of them in R53's order, and the others. -/
def splitFlights (p : Flight → Bool) : List Flight → List Flight × List Flight
  | [] => ([], [])
  | f :: fs =>
    let r := splitFlights p fs
    if p f || r.1.any (fun g => f.together g) then (f :: r.1, r.2) else (r.1, f :: r.2)

/-- Perform every accepted store that a test picks, and what R53 puts before it, in the order accepted. -/
def performFlights (s : State) (p : Flight → Bool) : State :=
  let r := splitFlights p s.flights
  r.1.foldl (fun s f => performStores s f.core f.pline f.rel f.stores) { s with flights := r.2 }

/-- Stores that have written a whole block of an entry's line have made the L1 line's block good (R81). -/
def l1Clean (s : State) (core : Nat) (e : Entry) : State :=
  s.updCore core (fun c => { c with l1 := c.l1.map (fun l =>
    if l.ctx == s.cid e.ctx && l.line == e.line then { l with bad := badUnder l.bad e.stores } else l) })

/-- The stores of an entry leave the core: performed at a home on its die, accepted by the far-way controller
otherwise (R91, R92). -/
def sendStores (s : State) (core : Nat) (e : Entry) : State :=
  let s := l1Clean s core e
  if e.stores.isEmpty then s
  else if homeDie (e.pline * 128) = some (dieOf core) then performStores s core e.pline e.rel e.stores
  else
    let s := (storeRuns e.stores).foldl (fun s r => farUpdate s (dieOf core) (e.pline * 128 + r.1) r.2) s
    { s with flights := s.flights ++ [⟨dieOf core, core, e.ctx, e.pline, e.stores, e.rel⟩] }

/-- The fill round of a request: the core's observed round of the region as it is sent (R148); 0 where the entry has become unknown
between the miss and the send (DESIGN CHOICE, log entry 63). -/
def fillRound (s : State) (core : Nat) (e : Entry) : Word :=
  match e.round with
  | none => 0
  | some (rgn, _) => (observed s core e.ctx rgn).getD 0

/-- What stands before a read of a line by a core: no store of its die to the line is outstanding (R92), and every earlier
request of the core to that home has been performed (R53). -/
def settleFlights (s : State) (core pline : Nat) : State :=
  performFlights s (fun f => (f.die == dieOf core && f.pline == pline)
    || (f.core == core && homeCode (f.pline * 128) == homeCode (pline * 128)))

/-- What a request reads, from the far ways or from home, and the round it takes (R50, R63, R148, R149). A line read at
home by a default or stream load fills the far ways where it is remote; a bypass load leaves no older copy there (R87, log
entry 32). -/
def readLine (s : State) (core : Nat) (e : Entry) : Reply × State :=
  let die := dieOf core
  let pa := e.pline * 128
  let s := settleFlights s core e.pline
  let f := fillRound s core e
  match (if e.round.isSome || e.home then none
    else (s.die die).far.find? (fun l => l.line == e.pline && farLive s die (s.cid e.ctx) none l)) with
  | some l => (⟨l.bytes, l.bad, f, 0, 0⟩, s)
  | none =>
    let bs := physRead s pa 128
    let bad := badBlocks s e.pline
    let s := if e.home then farDrop s die pa 128 else s
    let s := if e.fill && farCacheable die pa then
        farFill s die ⟨e.pline, 0, (s.die die).farEpoch, e.round.map (fun r => (s.cid e.ctx, r.1, f)), bs, bad, e.stream⟩
      else s
    (⟨bs, bad, f, homeCode pa, 0⟩, s)

/-- The L1 line that a reply fills: the line as read, with the entry's own stores over it (R54). -/
def Entry.filled (e : Entry) (s : State) (core : Nat) (r : Reply) : Line :=
  ⟨s.cid e.ctx, e.line, e.w, e.x, e.i, e.ink, (s.core core).epoch, e.round.map (fun x => (x.1, r.round)), patched r.bytes e.stores,
    badUnder r.bad e.stores, e.stream, hostPa (e.pline * 128)⟩

/-- Replace or drop the n-th entry of a collector. -/
def setEntry (s : State) (core n : Nat) (e : Entry) : State :=
  s.updCore core (fun c => { c with coll := c.coll.set n e })
def dropEntry (s : State) (core n : Nat) : State :=
  s.updCore core (fun c => { c with coll := c.coll.eraseIdx n })

/-- The collector sends an entry to its home (R72): its loads read the line, and its stores are performed or accepted. Each
load takes the stores that came before it from the entry itself. -/
def sendEntry (s : State) (core n : Nat) : State :=
  match (s.core core).coll[n]? with
  | none => s
  | some e =>
    if e.reply.isSome then s
    else if e.loads.isEmpty then sendStores (dropEntry s core n) core e
    else
      let (r, s) := readLine s core e
      let (no, s) := s.fresh
      sendStores (setEntry s core n { e with reply := some { r with no := no } }) core e

/-- Send every entry of a core that a test picks and that is not yet sent, oldest first. -/
def sendPicked (core : Nat) (p : Entry → Bool) : Nat → State → State
  | 0, s => s
  | k + 1, s =>
    match (s.core core).coll.findIdx? (fun e => e.reply.isNone && p e) with
    | some n => sendPicked core p k (sendEntry s core n)
    | none => s

/-- Send the entries that a test picks, with every older or newer entry of their physical lines: requests for one line
are performed in the order they came (R53, R72). -/
def sendEntries (s : State) (core : Nat) (p : Entry → Bool) : State :=
  let es := (s.core core).coll
  let ls := (es.filter (fun e => e.reply.isNone && p e)).map (fun e => e.pline)
  sendPicked core (fun e => ls.contains e.pline) es.length s

/-- Every store of a core leaves it (R73, R91). -/
def flushStores (s : State) (core : Nat) : State := sendEntries s core (fun e => !e.stores.isEmpty)

/-- What a release at a scope waits for (R91): 1 team, 2 cluster, 3 device, 4 system, 5 as device. The stores of the core
are performed, or accepted, within the step (log entry 7). A device release waits for everything its die's controller has
accepted, which makes it cumulative over what the thread has acquired at cluster scope (R96, R97). -/
def waitRelease (s : State) (core scope : Nat) : State :=
  if scope = 1 then s
  else
    let s := flushStores s core
    if scope = 2 then s else performFlights s (fun f => f.die == dieOf core)

/-- What an acquire at a scope does once its value has returned (R93). -/
def acquireActions (s : State) (core scope : Nat) : State :=
  if scope = 1 then s
  else
    let s := bumpL1 s core
    if scope = 2 then s else bumpFar s (dieOf core)

/-- A core answers a promotion: every store it has passed is performed at its home (R103). -/
def promoteCore (s : State) (core : Nat) : State := waitRelease s core 3

/-- A tag that a device-remote acquire promotes: one of team or cluster scope (R103, R104). -/
def RelTag.narrow (t : RelTag) : Bool := t.scope == 1 || t.scope == 2

/-- The tag that a device-remote acquire meets at a location. -/
def tagMet (s : State) (key : Option Nat) : Option RelTag :=
  match key with
  | none => none
  | some k => (Tbl.get? s.tags k).filter RelTag.narrow

/-- The promotion that a device-remote acquire asks for once it has read its value: the tagged core drains, and the tag is
of device scope (R103). -/
def promoteMet (s : State) (key : Option Nat) (met : Option RelTag) : State :=
  match key, met with
  | some k, some t =>
    let s := promoteCore s t.core
    match Tbl.get? s.tags k with
    | some u => if u = t then { s with tags := Tbl.set s.tags k { t with scope := 3 } } else s
    | none => s
  | _, _ => s

/-- A home-way line is evicted: its narrow release is promoted first, then it is written back and its tag dropped (R62,
R105). -/
def evictHome (s : State) (die : Nat) (h : HomeLine) : State :=
  let s := match tagMet s (some h.line) with
    | some t => promoteCore s t.core
    | none => s
  match (s.die die).home.find? (fun k => k.line == h.line) with
  | some k => { writeBack s die k with tags := Tbl.erase s.tags h.line }
  | none => s

/-- A line of the home ways that stands above their capacity, longest held first (DESIGN CHOICE, log entry 29). -/
def homeOver (s : State) : Option (Nat × HomeLine) :=
  s.diesT.findSome? (fun p =>
    if p.2.home.length ≤ (fillable s .home).length * wayLines then none else (p.2.home.head?).map (fun h => (p.1, h)))

/-- Requests of a core for a line that stand in its collector go to the home first (R53), and the stores that stand before
a read of it. -/
def settleLine (s : State) (core pline : Nat) : State :=
  settleFlights (sendEntries s core (fun e => e.pline == pline)) core pline

/-- Settle every line of a range. -/
def settleRange (s : State) (core pa n : Nat) : State := (plines pa n).foldl (fun s l => settleLine s core l) s

/-! ### Replies (R53, R74) -/

/-- The bytes of one waiter arrive. -/
def arriveAt (s : State) (r : Reply) (w : Waiter) : State :=
  let bs := ((patched r.bytes w.seen).drop w.off).take w.len
  s.updThread w.thread (fun t => { t with outs := t.outs.map (fun o =>
    if o.id == w.out then
      { o with data := o.data.mapIdx (fun i b => if w.pos ≤ i ∧ i < w.pos + w.len then some ((bs[i - w.pos]?).getD 0) else b)
               bad := o.bad || badPart (badUnder r.bad w.seen) w.off w.len }
    else o) })

/-- The reply of an entry reaches the collector (R74): the line is filled, and each waiter's bytes arrive. -/
def replyEntry (s : State) (core n evict : Nat) : State :=
  match (s.core core).coll[n]? with
  | none => s
  | some e =>
    match e.reply with
    | none => s
    | some r =>
      let s := dropEntry s core n
      let s := if e.fill then l1Fill s core evict (e.filled s core r) else s
      e.loads.foldl (fun s w => arriveAt s r w) s

/-- Replies from one place to one core arrive in the order sent (R53). -/
def replyNext (es : List Entry) (n : Nat) : Bool :=
  match (es[n]?).bind Entry.reply with
  | none => false
  | some r => es.all (fun e => match e.reply with | some q => q.src != r.src || decide (r.no ≤ q.no) | none => true)

/-- Every reply on its way to a core whose place of sending passes a test arrives. -/
def replyWhere (core : Nat) (p : Nat → Bool) : Nat → State → State
  | 0, s => s
  | k + 1, s =>
    let es := (s.core core).coll
    match (List.range es.length).find? (fun n => replyNext es n && ((es[n]?).bind Entry.reply).any (fun r => p r.src)) with
    | some n => replyWhere core p k (replyEntry s core n 0)
    | none => s

/-- Every reply on its way to a core arrives. -/
def replyAll (core : Nat) (k : Nat) (s : State) : State := replyWhere core (fun _ => true) k s

/-- What a home, or the die's far ways (0), sent to a core earlier arrives before what it sends now (R53). -/
def replyFrom (s : State) (core src : Nat) : State := replyWhere core (fun k => k == src) (s.core core).coll.length s

/-- The loads a thread has outstanding are performed and return: what a release, a fence and an async issue wait for
(R98, R106). -/
def performLoads (s : State) (core key : Nat) : State :=
  if (s.core core).coll.any (fun e => e.loads.any (fun w => w.thread == key)) then
    let s := sendEntries s core (fun e => e.loads.any (fun w => w.thread == key))
    replyAll core (s.core core).coll.length s
  else s

/-- A load of a thread is performed, or must be before what it issues next: a byte of it has arrived, its entry is sent, or
a store has joined the entry after it, whatever it writes (R85). -/
def loadBegun (s : State) (core : Nat) (key : Nat) (o : Outst) : Bool :=
  o.data.any Option.isSome || (s.core core).coll.any (fun e => e.loads.any (fun w =>
    w.thread == key && w.out == o.id && (e.reply.isSome || w.late)))

/-- Before a trap frame is written: a thread's loads that are begun return; the others leave the collector, and execute from
the replay queue (R85, R384, log entry 12). -/
def settleLoads (s : State) (core key : Nat) : State :=
  let ids := ((s.thread key).outs.filter (loadBegun s core key)).map (fun o => o.id)
  let mine (w : Waiter) : Bool := w.thread == key && ids.contains w.out
  let s := if ids.isEmpty then s
    else
      let s := sendEntries s core (fun e => e.loads.any mine)
      replyAll core (s.core core).coll.length s
  s.updCore core (fun c => { c with coll := (c.coll.map (fun e =>
    if e.reply.isNone then { e with loads := e.loads.filter (fun w => w.thread != key) } else e)).filter (fun e =>
      e.reply.isSome || !e.loads.isEmpty || !e.stores.isEmpty) })

/-! ### Plain loads and stores of the global window (R50, R54, R71) -/

/-- The pieces of a translated access, line by line: virtual address, length, physical address, leaf. -/
def linePieces : Nat → Nat → Nat → Nat → List (Nat × Nat × Nat)
  | 0, _, _, _ => []
  | fuel + 1, va, n, pa =>
    let k := 128 - va % 128
    if n ≤ k then [(va, n, pa)] else (va, k, pa) :: linePieces fuel (va + k) (n - k) (pa + k)

/-- Every line piece of an access, with its page. -/
def accessLines (ps : List Piece) : List (Nat × Nat × Nat × TlbEntry) :=
  ps.flatMap (fun p => (linePieces (p.len / 128 + 2) p.va p.len p.pa).map (fun l => (l.1, l.2.1, l.2.2, p.tlb)))

/-- The entry that a request for a line opens (R71). -/
def Entry.opened (s : State) (ctx va pa : Nat) (t : TlbEntry) : Entry where
  ctx := ctx; line := va / 128; pline := pa / 128; requests := 1; since := s.now; stores := []; rel := false; loads := []
  w := leafW t.leaf; x := leafX t.leaf; i := leafI t.leaf; ink := 0; round := none; home := false; fill := false; stream := true; reply := none

/-- An unsent entry that takes a request: one of its line under its translation, for a request that comes by a newer one opens an
entry of its own (R46). -/
def Entry.takes (ctx va pa : Nat) (t : TlbEntry) (e : Entry) : Bool :=
  e.ctx == ctx && e.line == va / 128 && e.pline == pa / 128 && e.w == leafW t.leaf && e.x == leafX t.leaf && e.i == leafI t.leaf
    && e.reply.isNone

/-- The entry that a request joins. -/
def entryOf (s : State) (core ctx va pa : Nat) (t : TlbEntry) : Option Nat :=
  (s.core core).coll.findIdx? (Entry.takes ctx va pa t)

/-- A request joins the entry of its line, or opens one (R71). A collector that holds 256 lane requests sends its oldest
entry at once (R72). -/
def collect (s : State) (core ctx va pa : Nat) (t : TlbEntry) (f : Entry → Entry) : State :=
  let s := match entryOf s core ctx va pa t with
    | some n =>
      s.updCore core (fun c => { c with coll := c.coll.modify n (fun e => f { e with requests := e.requests + 1 }) })
    | none => s.updCore core (fun c => { c with coll := c.coll ++ [f (Entry.opened s ctx va pa t)] })
  let es := (s.core core).coll.filter (fun e => e.reply.isNone)
  if Config.collectorRequests ≤ es.foldl (fun n e => n + e.requests) 0 then
    match es.head? with
    | some e => sendEntries s core (fun k => k.pline == e.pline)
    | none => s
  else s

/-- A store joins the entry of its line, a later store to a byte in place of the earlier (R71). Entries of the line under
another virtual address or another translation are sent first (R45, R47, R97); the replies of loads that go with them are older
than this store, and fill no line (R154). -/
def collectStore (s : State) (core ctx va pa : Nat) (t : TlbEntry) (rel : Bool) (bs : List Byte) : State :=
  let new := bs.mapIdx (fun i b => (pa % 128 + i, b))
  let s := if (s.core core).coll.any (fun e => e.reply.isNone && e.pline == pa / 128 && !e.takes ctx va pa t)
    then noFill (sendEntries s core (fun e => e.pline == pa / 128)) core ctx va bs.length else s
  collect s core ctx va pa t (fun e =>
    { e with rel := rel, loads := e.loads.map (fun w => { w with late := true })
             stores := e.stores.filter (fun b => !(new.any (fun c => c.1 == b.1))) ++ new })

/-- The policy of a load that the collector takes (R50). -/
inductive Fill where
  | default | stream | bypass
  deriving DecidableEq, Repr

/-- A load that misses, or is a bypass load, joins the entry of its line (R71, R74). -/
def collectLoad (s : State) (core ctx va pa : Nat) (t : TlbEntry) (pol : Fill) (ink : Nat) (round : Option (Nat × Word))
    (w : Waiter) : State :=
  collect (noFill s core ctx va 1) core ctx va pa t (fun e =>
    { e with
      loads := e.loads ++ [{ w with seen := e.stores }]
      ink := ink
      round := if pol = .bypass then e.round else round
      home := e.home || pol == .bypass
      fill := e.fill || pol != .bypass
      stream := e.stream && pol != .default })

/-- A plain store of bytes through translated pieces (R50, R54): the L1 line follows it, or under bypass is
invalidated, and the store enters the collector. -/
def storeGlobal (s : State) (core ctx : Nat) (bypass rel : Bool) (ps : List Piece) (bs : List Byte) : State :=
  let s := beforeWrite s ps
  ((accessLines ps).foldl (fun (a : State × List Byte) (l : Nat × Nat × Nat × TlbEntry) =>
    let (va, n, pa, t) := l
    let now := a.2.take n
    let s := if bypass then l1DropRange a.1 core ctx va n else l1Update a.1 core ctx va now
    (collectStore s core ctx va pa t rel now, a.2.drop n)) (s, bs)).1

/-- Bytes read at their home through translated pieces, after the core's own earlier requests for the lines and what the home
has sent it already (R53). -/
def readHome (s : State) (core : Nat) (ps : List Piece) : List Byte × State :=
  ps.foldl (fun (a : List Byte × State) p =>
    let s := replyFrom (settleRange a.2 core p.pa p.len) core (homeCode p.pa)
    (a.1 ++ physRead s p.pa p.len, s)) ([], s)

/-- What the core's own copy of a range meets of a write performed at home. -/
inductive OwnLine where
  /-- It is invalidated: atomics and bypass stores (R50, R52). -/
  | drop
  /-- It is updated: release stores under default and stream policy (R50, R212). -/
  | update
  deriving DecidableEq, Repr

/-- Bytes written at their home through translated pieces, after the core's own earlier requests for the lines. -/
def writeHome (s : State) (core ctx : Nat) (own : OwnLine) (ps : List Piece) (bs : List Byte) : State :=
  let s := beforeWrite s ps
  (ps.foldl (fun (a : State × List Byte) p =>
    let now := a.2.take p.len
    let s := settleRange a.1 core p.pa p.len
    let s := match own with
      | .drop => l1DropRange s core ctx p.va p.len
      | .update => ((linePieces (p.len / 128 + 2) p.va p.len p.pa).foldl (fun (b : State × List Byte) l =>
          (l1Update b.1 core ctx l.1 (b.2.take l.2.1), b.2.drop l.2.1)) (s, now)).1
    let s := farUpdate s (dieOf core) p.pa now
    (physWrite s p.pa now, a.2.drop p.len)) (s, bs)).1

/-- No copy of a range that its core or its die holds outlasts an access at home (R52, R87). -/
def dropCopies (s : State) (core ctx : Nat) (ps : List Piece) : State :=
  ps.foldl (fun s p => farDrop (l1DropRange s core ctx p.va p.len) (dieOf core) p.pa p.len) s

/-- Whether a translated access reads poisoned bytes at home. -/
def poisonedPieces (s : State) (ps : List Piece) : Bool := ps.any (fun p => poisonedPhys s p.pa p.len)

end Sys2Proof.Machine
end

