-- ==== Sys2Proof/Machine/Access.lean ====
section
/-! DEFINITION. The checks of one lane's access, in the order of R36 and R207, and where the access then stands. -/

namespace Sys2Proof.Machine

/-- Where a checked access stands. -/
inductive Place where
  | glob (ps : List Piece) (inks : List Nat)
  | well (die off : Nat)
  | scr (key core : Nat)
  deriving DecidableEq, Repr

/-- What the checks of an access find. -/
inductive Chk (α : Type) where
  | ok (a : α)
  | trap (t : Trap)
  /-- A fault offered to host, or a snap's copy (R38, R338): its key, and the address that met it. -/
  | fault (key : Nat) (va : Word)
  | wait (w : Why)

/-- The agent of an access and what it asks. -/
structure Access where
  core : Nat
  ctx : Nat
  team : Nat
  va : Word
  size : Nat
  /-- Required alignment (R207); 1 asks none. -/
  align : Nat
  need : Need
  atomic : Bool
  engine : Bool
  deriving DecidableEq, Repr

/-- The access of a lane. -/
def laneAccess (e : Env) (size align : Nat) (need : Need) (atomic : Bool) : Access :=
  ⟨e.core, e.ctx, e.team, e.addr, size, align, need, atomic, false⟩

/-- A translation failure as the lane meets it: a trap, or a fault offered to host (R37 to R39). -/
def raiseX (s : State) (a : Access) (x : XErr) (va : Nat) (ink : Bool) : Chk Place × State :=
  match x with
  | .inkPage => (.trap (trapAt causeInkPage a.va), s)
  | .page k bits =>
    let (key, s) := openFault s a.ctx (BitVec.ofNat 64 va) k bits
      (accessByte (a.need == .write) (a.need == .fetch) a.engine ink a.atomic) a.core (!a.engine)
    (.fault key (BitVec.ofNat 64 va), s)

/-- Checks 4 to 6 of R36, for the lower page and then the higher before the next check (R207). A write through a leaf
whose pages a snap has still to copy waits for them (R338). -/
def checkGlobal (s : State) (a : Access) : Chk Place × State :=
  match translatePieces s a.core a.ctx (pagePieces a.va.toNat a.size) with
  | (.error (x, va), s) => raiseX s a x va false
  | (.ok ps, s) =>
    match firstDenied a.need ps with
    | some (x, va) => raiseX s a x va false
    | none =>
      match inksOfPieces s a.core a.ctx ps with
      | (.error (x, va), s) => raiseX s a x va true
      | (.ok js, s) =>
        if a.need = .write then
          match snapWait s a.ctx ps with
          | (some key, s) => (.fault key a.va, s)
          | (none, s) => (.ok (.glob ps js), s)
        else (.ok (.glob ps js), s)

/-- The 4 KiB block of a scratchpad key. -/
def scratchBlock (key : Nat) : Nat := key % 2 ^ 20 / 4096

/-- Whether a scratchpad range of the core's active context has a block that is not restored yet (R390). -/
def awaited (s : State) (core key n : Nat) : Bool :=
  (s.core core).active.map s.cid == some (key / 2 ^ 20 / 320)
    && (s.core core).unrestored.any (fun b => decide (scratchBlock key ≤ b) && decide (b ≤ scratchBlock (key + n - 1)))

/-- The first block of a scratchpad range that is not restored. -/
def awaitedBlock (s : State) (core key n : Nat) : Nat :=
  ((s.core core).unrestored.find? (fun b => decide (scratchBlock key ≤ b) && decide (b ≤ scratchBlock (key + n - 1)))).getD
    (scratchBlock key)

/-- A block is demanded, after those demanded before it (R390). -/
def demand (s : State) (core block : Nat) : State :=
  s.updCore core (fun c =>
    let d := (c.active.getD 0, block)
    if c.demands.contains d then c else { c with demands := c.demands ++ [d] })

/-- A range of the Well meets a bucket head that a link holds; the command of the link itself goes on (R359). -/
def headHeld (s : State) (key n : Nat) (mine : Cmd → Bool) : Bool :=
  s.cores.any (fun p => p.2.cmds.any (fun q => match q.2.link with
    | some (h, _) => !mine q.2 && decide (key < h + 64) && decide (h < key + n)
    | none => false))

/-- No command goes on with a link of its own. -/
def noCmd (_ : Cmd) : Bool := false

/-- The checks of R36 on one access. An access to a block not restored, to a Well way not filled, or to a bucket head that is
held, waits (R77, R359, R390). -/
def checkAccess (s : State) (a : Access) : Chk Place × State :=
  match windowOf a.va a.size with
  | .bad => (.trap (pageTrap 8 a.va), s)
  | .well d o =>
    if !wellBounds s a.ctx d o a.size then (.trap (pageTrap 9 a.va), s)
    else if a.va.toNat % a.align != 0 then (.trap (trapAt causeAlign a.va), s)
    else if wellFilling s (o + a.size - 1) then (.wait .carve, s)
    else if headHeld s (wellKey d o) a.size noCmd then (.wait .bucket, s)
    else (.ok (.well d o), s)
  | .scr i o =>
    match scratchAt s a.team i o a.size with
    | none => (.trap (pageTrap 10 a.va), s)
    | some (key, core) =>
      if a.va.toNat % a.align != 0 then (.trap (trapAt causeAlign a.va), s)
      else if awaited s core key a.size then
        let b := awaitedBlock s core key a.size
        (.wait (.restore core b), demand s core b)
      else (.ok (.scr key core), s)
  | .glob =>
    if a.va.toNat % a.align != 0 then (.trap (trapAt causeAlign a.va), s) else checkGlobal s a

/-- The distinct nonzero inks of an access, ascending (R119). -/
def inkSet (js : List Nat) : List Nat := ((js.filter (fun j => j != 0)).sortBy (fun a b => decide (a ≤ b))).dedup

/-- The inks a place makes its access a candidate for. -/
def Place.inks : Place → List Nat
  | .glob _ js => inkSet js
  | _ => []

/-! ### Watchpoints (R400, R401) -/

/-- The watchpoint that an access of `n` bytes hits, load and store kinds apart. -/
def watchHit (s : State) (ctx : Nat) (va n : Nat) (load store : Bool) : Option Nat :=
  let c := s.ctx ctx
  if !bitAt c.dbgctl 2 then none
  else (List.range 4).find? (fun i =>
    let w := Tbl.getD c.wp i 0
    let len := (Tbl.getD c.wl i 0).toNat / 64 * 64
    let kind := bitsOf w 63 62
    let base := bitsOf w 55 6 * 64
    ((load && (kind == 1 || kind == 3)) || (store && (kind == 2 || kind == 3)))
      && decide (va < base + len) && decide (base < va + n))

/-! ### Bytes at a place -/

/-- Whether the bytes of a place are poisoned at home (R81). -/
def placePoisoned (s : State) (p : Place) (n : Nat) : Bool :=
  match p with
  | .glob ps _ => poisonedPieces s ps
  | .well d o => poisonedRange s poisonWell (wellKey d o) n
  | .scr k _ => poisonedRange s poisonScratch k n

/-- Read a place at its home, bank or scratchpad (R49, R51). -/
def placeRead (s : State) (core : Nat) (p : Place) (n : Nat) : List Byte × State :=
  match p with
  | .glob ps _ => readHome s core ps
  | .well d o => (wellRead s d o n, s)
  | .scr k _ => (scratchRead s k n, s)

/-- Requests of a core for a place that stand before an access there (R53, R92). -/
def placeSettle (s : State) (core : Nat) (p : Place) : State :=
  match p with
  | .glob ps _ => ps.foldl (fun s q => settleRange s core q.pa q.len) s
  | _ => s

/-- Write a place at its home, bank or scratchpad. -/
def placeWrite (s : State) (core ctx : Nat) (own : OwnLine) (p : Place) (bs : List Byte) : State :=
  match p with
  | .glob ps _ => writeHome s core ctx own ps bs
  | .well d o => wellWrite s d o bs
  | .scr k _ => scratchWrite s k bs

/-- The release tag key of a place: a home line or a Well block (R103). -/
def placeTag (p : Place) : Option Nat :=
  match p with
  | .glob (q :: _) _ => tagPhys q.pa
  | .well d o => some (tagWell (wellKey d o))
  | _ => none

end Sys2Proof.Machine
end

