-- ==== Sys2Proof/Machine/Ink.lean ====
section
/-! DEFINITION. Inks: descriptors (R112 to R114), the monitor block and its operations (R115, R116, R121, R127, R131),
and a thread's holds (R117, R118, R120, R123). -/

namespace Sys2Proof.Machine

/-- A descriptor's fields (R113), its monitor block as a Well key. -/
structure InkDesc where
  device : Bool
  te : Bool
  home : Nat
  mon : Nat
  deriving DecidableEq, Repr

/-- The monitor block of a descriptor, as a key of the Well. -/
def InkDesc.blk (d : InkDesc) : Nat := wellKey d.home d.mon

/-- The scope of an ink's acquire and release: cluster or device (R113). -/
def InkDesc.scope (d : InkDesc) : Nat := if d.device then 3 else 2

/-- A trap that names a data address and an ink (R385). -/
def inkTrap (cause : Nat) (va : Word) (j : Nat) : Trap := ⟨cause, 0, va, BitVec.ofNat 64 j, 0, none, false⟩

/-- The descriptor of an ink as an access at data address `va` resolves it (R114). -/
def resolveInk (s : State) (core ctx : Nat) (va : Word) (engine : Bool) (j : Nat) : Chk InkDesc × State :=
  let a := (s.ctx ctx).inkdesc.toNat + 8 * j
  match lookup s core ctx a with
  | (.error _, s) =>
    let (key, s) := openFault s ctx va 5 16 (accessByte false false engine true false) core (!engine)
    (.fault key va, s)
  | (.ok t, s) =>
    let w := bytesWord (physRead s (t.pa a) 8)
    let d : InkDesc := ⟨bitAt w 62, bitAt w 61, bitsOf w 58 56, bitsOf w 27 6 * 64⟩
    if !bitAt w 63 || bitsOf w 60 59 != 0 || bitsOf w 55 28 != 0 || bitsOf w 5 0 != 0 then
      (.trap (inkTrap causeInkScope va j), s)
    else if !wellBounds s ctx d.home d.mon 64 then (.trap (pageTrap 9 va), s)
    else (.ok d, s)

/-- The descriptor of an ink that a thread touches: a cluster-scope ink may be touched from its home die only (R125). -/
def inkDesc (s : State) (core ctx : Nat) (va : Word) (engine : Bool) (j : Nat) : Chk InkDesc × State :=
  match resolveInk s core ctx va engine j with
  | (.ok d, s) =>
    if !d.device && dieOf core != d.home then (.trap (inkTrap causeInkScope va j), s) else (.ok d, s)
  | r => r

/-- The descriptor of a held ink, for its release: a release has no check of its own, so what cannot be read any more
is taken as a device ink on die 0 (log entry 11). -/
def heldDesc (s : State) (core ctx j : Nat) : InkDesc :=
  let a := (s.ctx ctx).inkdesc.toNat + 8 * j
  match lookup s core ctx a with
  | (.ok t, _) =>
    let w := bytesWord (physRead s (t.pa a) 8)
    ⟨bitAt w 62, bitAt w 61, bitsOf w 58 56, bitsOf w 27 6 * 64⟩
  | _ => ⟨true, false, 0, 0⟩

/-! ### The monitor block -/

def monRead (s : State) (blk i : Nat) : Word := bytesWord (Memory.readN s.well (blk + 8 * i) 8)
/-- A write of the block, by an operation that is no release: its tag is none (R103). -/
def monWrite (s : State) (blk i : Nat) (w : Word) : State :=
  clearTags { s with well := Memory.writeN s.well (blk + 8 * i) (wordBytes 8 w) } (tagWell blk) (tagWell blk)
def monHeld (s : State) (blk : Nat) : Bool := bitAt (monRead s blk 0) 63
def monGrant (s : State) (blk : Nat) : Bool := bitAt (monRead s blk 0) 62
def monOwner (s : State) (blk : Nat) : Nat := bitsOf (monRead s blk 0) 39 0
def monServe (s : State) (blk : Nat) : Nat := bitsOf (monRead s blk 1) 63 32
def monNext (s : State) (blk : Nat) : Nat := bitsOf (monRead s blk 1) 31 0
def monSig (s : State) (blk : Nat) : BitVec 32 := (monRead s blk 2).extractLsb' 32 32

/-- Set or clear a core's bit of CORES (R116). -/
def monCore (s : State) (blk core : Nat) (on : Bool) : State :=
  let a := blk + 24 + core / 8
  let b := Memory.read s.well a
  let bit := BitVec.twoPow 8 (core % 8)
  clearTags { s with well := Memory.write s.well a (if on then b ||| bit else b &&& ~~~bit) } (tagWell blk) (tagWell blk)

/-- The ticket a thread waits on at a block. -/
def Thread.ticketAt (t : Thread) (blk : Nat) : Option Nat :=
  match t.why? with
  | some (.inkTicket _ tk b _) => if b = blk then some tk else none
  | some (.inkOld _ tk b _) => if b = blk then some tk else none
  | _ => none

/-- A core's bit is cleared when no other thread of it waits at the block (R116). -/
def monCoreDone (s : State) (blk core key : Nat) : State :=
  if s.threads.any (fun p => p.1 != key && p.2.core == core && (p.2.ticketAt blk).isSome) then s
  else monCore s blk core false

/-- The bank writes the owner, the ink and the context of a grant (R116, R121). -/
def monOwn (s : State) (blk tag j ctxid : Nat) : State :=
  let s := monWrite s blk 0 (BitVec.ofNat 64 (2 ^ 63 + (j % 2 ^ 12) * 2 ^ 40 + tag % 2 ^ 40))
  monWrite s blk 2 (setBits (monRead s blk 2) 31 16 ctxid)

/-- Take a ticket (R121): whether it is granted at once, and the ticket. -/
def takeTicket (s : State) (blk core tag j ctxid : Nat) : Bool × Nat × State :=
  let tk := monNext s blk
  let s := monWrite s blk 1 (setBits (monRead s blk 1) 31 0 (tk + 1))
  if !monHeld s blk && tk == monServe s blk then (true, tk, monOwn s blk tag j ctxid)
  else (false, tk, monCore s blk core true)

/-- Void tickets are skipped (R131). -/
def skipVoid (s : State) (blk : Nat) : Nat → State
  | 0 => s
  | n + 1 =>
    let v := monServe s blk
    if s.voids.contains (blk, v) then
      skipVoid (monWrite { s with voids := s.voids.filter (fun p => p != (blk, v)) } blk 1
        (setBits (monRead s blk 1) 63 32 (v + 1))) blk n
    else s

/-- Advance SERVE and hand the monitor on or free it (R127). -/
def serveNext (s : State) (blk : Nat) : State :=
  let s := monWrite s blk 1 (setBits (monRead s blk 1) 63 32 (monServe s blk + 1))
  let s := skipVoid s blk s.voids.length
  if monServe s blk = monNext s blk then monWrite s blk 0 (setBits (monRead s blk 0) 63 63 0)
  else monWrite s blk 0 (setBits (monRead s blk 0) 62 62 1)

/-- A ticket is given up (R131, R132, R138). -/
def voidTicket (s : State) (blk tk core key : Nat) : State :=
  let s := monCoreDone s blk core key
  if monGrant s blk && monServe s blk == tk then
    serveNext (monWrite s blk 0 (setBits (monRead s blk 0) 62 62 0)) blk
  else { s with voids := s.voids ++ [(blk, tk)] }

/-! ### Holds -/

/-- The holds close up (R118, R127). -/
def Thread.dropHold (t : Thread) (j : Nat) : Thread := { t with holds := t.holds.filter (fun k => k.ink != j) }

/-- Suspend a hold, or end its suspension (R133). -/
def Thread.suspendHold (t : Thread) (j : Nat) (w : Bool) : Thread :=
  { t with holds := t.holds.map (fun k => if k.ink == j then { k with w := w } else k) }

/-- A release of a monitor by a thread (R127), a REL at the ink's scope: after the thread's earlier loads and the waits of R91
it is performed at the monitor block, whose tag it sets (R97, R103). -/
def releaseMonitor (s : State) (key blk scope : Nat) : State :=
  let core := (s.thread key).core
  let s := waitRelease (performLoads s core key) core scope
  setTag (serveNext s blk) (some (tagWell blk)) core scope

/-- A thread releases an ink that it holds (R127). An exit, or a ret after the handler skipped the inkwait, may reach a suspended hold,
which no frame return does (R135); the release then advances SERVE all the same (DESIGN CHOICE, log entry 48). -/
def releaseInk (s : State) (key j : Nat) (clear : Bool) : State :=
  let t := s.thread key
  let d := heldDesc s t.core t.ctx j
  let s := releaseMonitor s key d.blk d.scope
  if clear then s.updThread key (fun t => t.dropHold j) else s

/-- The frame depth an acquisition records: in a KEEP frame's handler, the FD field of the lane record as the thread reads
it, with the core's own stores before it (R393). -/
def holdDepth (s : State) (t : Thread) : Nat × State :=
  match Tbl.get? (s.core t.core).slots (t.ctx * 32 + t.slot) with
  | some i =>
    if t.handler && i.keep then
      let va := (saveSlot s t).toNat + 0x100 + 64 * t.pos + 8
      if 2 ^ 56 ≤ va then (t.fd, s)
      else match lookup s t.core t.ctx va with
      | (.ok x, s) =>
        let s := replyFrom (settleRange s t.core (x.pa va) 2) t.core (homeCode (x.pa va))
        (bytesToNat (physRead s (x.pa va) 2), s)
      | _ => (t.fd, s)
    else (t.fd, s)
  | none => (t.fd, s)

/-- A thread is granted an ink it asked for (R121, R130): the acquire actions, then the hold. A suspended hold is taken
up again (R133). -/
def grantInk (s : State) (key j : Nat) (scope : Nat) : State :=
  let t := s.thread key
  let s := acquireActions s t.core scope
  if t.holdsInk j then s.updThread key (fun t => t.suspendHold j false)
  else
    let (n, s) := holdDepth s t
    s.updThread key (fun t => { t with holds := t.holds ++ [⟨j, n, false, t.handler, []⟩] })

/-- The inks of an access at one data address. -/
def inksAt (va : Word) (js : List Nat) : List (Nat × Word) := js.map (fun j => (j, va))

/-- The checks of R120 on every ink newly taken, each at its data address. A monitor block in a Well way that is not
zero-filled yet waits (R77). -/
def newInks (s : State) (t : Thread) : List (Nat × Word) → Chk Unit × State
  | [] => (.ok (), s)
  | (j, va) :: js =>
    match inkDesc s t.core t.ctx va false j with
    | (.trap x, s) => (.trap x, s)
    | (.fault k va, s) => (.fault k va, s)
    | (.wait w, s) => (.wait w, s)
    | (.ok d, s) =>
      if j < t.maxHeld then (.trap (inkTrap causeInkOrder va j), s)
      else if wellFilling s (d.mon + 63) then (.wait .carve, s)
      else newInks s t js

/-- The steps of R120 before an access: every ink it newly takes is checked, and the first is asked for. `js` rises. INK_LIMIT
names the ink that would be the ninth hold (DESIGN CHOICE, log entry 33). -/
def takeInks (s : State) (key : Nat) (msg : Nat) (js : List (Nat × Word)) : Chk Unit × State :=
  let t := s.thread key
  let new := js.filter (fun p => !t.holdsInk p.1)
  match newInks s t new with
  | (.ok (), s) =>
    match new with
    | [] => (.ok (), s)
    | (j, va) :: _ =>
      if 8 < t.holds.length + new.length then
        let x := (new[8 - t.holds.length]?).getD (0, va)
        (.trap (inkTrap causeInkLimit x.2 x.1), s)
      else (.wait (.inkReq j msg va), s)
  | r => r

end Sys2Proof.Machine
end

