-- ==== Sys2Proof/Machine/Trap.lean ====
section
/-! DEFINITION. Taking a trap (R381 to R388): the save slot, the frame, the lane records, the replay queue, entry to the
handler, the double fault; and the return by RTT. One operation, `takeTraps`, enters every trap of the machine. -/

namespace Sys2Proof.Machine

/-! ### Events to host -/

/-- A handle value (R330). -/
def handleWord (ctxid core cls slot seq : Nat) : Word :=
  BitVec.ofNat 64 ((ctxid % 2 ^ 16) * 2 ^ 48 + (core / 40) * 2 ^ 45 + (core % 40) * 2 ^ 39 + (cls % 4) * 2 ^ 37
    + (slot % 32) * 2 ^ 32 + seq % 2 ^ 32)

/-- The key of a command in its core's table. -/
def cmdKey (cls seq : Nat) : Nat := cls * 2 ^ 32 + seq

/-- The core a handle names, and the key of its command there; none when its CORE field names no core (R330). -/
def handleParts (h : Word) : Option (Nat × Nat) :=
  if bitsOf h 44 39 < 40 then some (bitsOf h 47 45 * 40 + bitsOf h 44 39, cmdKey (bitsOf h 38 37) (bitsOf h 31 0))
  else none

/-- Whether a command's error has been reported (R344). -/
def markReported (s : State) (h : Word) (b : Bool) : State :=
  match handleParts h with
  | none => s
  | some (core, k) =>
    match Tbl.get? (s.core core).cmds k with
    | some c => s.updCore core (fun x => { x with cmds := Tbl.set x.cmds k { c with reported := b } })
    | none => s

/-- The handle whose error a trap reports: INFO of the causes that a wait raises (R344, R385). -/
def reportedBy (tr : Trap) : Option Word :=
  if tr.info ≠ 0 ∧ [5, 14, 21, 22, 23, 24, 28].contains tr.cause then some tr.info else none

/-- A trap that is not taken reports nothing: its wait is executed again (R386). -/
def unreport (s : State) (t : Thread) : State :=
  match t.trap with
  | some tr => match reportedBy tr with | some h => markReported s h false | none => s
  | none => s

/-- Queue an event record of a context (R346). -/
def pushEvent (s : State) (ctx : Nat) (r : EventRec) : State :=
  s.updCtx ctx (fun c => { c with events := c.events ++ [r] })

/-- A context is stopped, its state kept, and the record of R455 queued. -/
def stopContext (s : State) (ctx core slot ekind prog : Nat) : State :=
  let s := s.updCtx ctx (fun c => { c with stopped := true })
  pushEvent s ctx ⟨handleWord (s.ctx ctx).ctxid core 0 slot 0, 4, ekind, prog, none⟩

/-! ### Words in memory -/

/-- The instruction word at an address, if it can be fetched without a fault. -/
def peekWord (s : State) (core ctx : Nat) (a : Word) : Option W32 :=
  match window a with
  | .glob =>
    match lookup s core ctx a.toNat with
    | (.ok t, _) => if leafX t.leaf then some (BitVec.ofNat 32 (physNat s (t.pa a.toNat) 4)) else none
    | _ => none
  | _ => none

/-- A hint word other than YIELD (R190). -/
def isUnitHint (w : W32) : Bool := w.bits 25 6 == 0x3E#6 && w.bits 22 3 != 2#3

/-- The address of the instruction word of the unit at an address: past its hints, at most eleven (R190). -/
def unitInstr (s : State) (core ctx : Nat) : Nat → Word → Word
  | 0, a => a
  | n + 1, a =>
    match peekWord s core ctx a with
    | some w => if isUnitHint w then unitInstr s core ctx n (a + 4) else a
    | none => a

/-! ### The replay queue (R384) -/

/-- The entry of an instruction with the operands it captured. The new value of cas, the register after d, stands in OPD beside the
expected one: R384 names no place for it (DESIGN CHOICE, log entry 72). -/
def replayOf (i : Instr) (e : Env) : Replay :=
  let word := (encodeWord i).getD 0
  let d := match i with
    | .cas .. => e.opE
    | _ => e.opD
  ⟨word, true, e.watch, e.settled, e.flags, e.unit, e.addr, e.opA, e.opB, e.opC, d, e.hints, e.mask⟩

/-- The entry of an outstanding instruction; a settled one carries its result and flags (R290). -/
def replayOut (o : Outst) : Replay :=
  let r := replayOf o.instr o.env
  if o.settled then { r with settled := true, flags := o.flags, opD := o.result.getD 0 } else r

/-- The forms that leave the PC at their unit until they complete: a blocked one is executed again from its unit. -/
def holdsPc : Instr → Bool
  | .ret .. | .exit .. | .rtt .. | .brs .. | .call .. | .callr .. => true
  | _ => false

/-- The blocking instruction of a thread, when it stands in the replay queue: one whose unit the PC has passed. -/
def blockedEntry (t : Thread) : List Replay :=
  match t.status with
  | .blocked b | .waking b =>
    if holdsPc b.instr then []
    else match b.why with
      | .park | .parkFirst | .frame | .outstanding | .fetch _ => []
      | .watch _ w0 _ s0 =>
        [{ replayOf b.instr b.env with watch := true, opC := w0, opD := s0.zeroExtend 64 }]
      | _ => [replayOf b.instr b.env]
  | _ => []

/-- The replay queue of a thread at a trap, oldest first: outstanding instructions, then the one at which it is blocked, then the
entries not yet re-injected, which are younger than one that was; at most nine (R188, R384, R387). -/
def replayQueue (t : Thread) : List Replay :=
  (t.outs.map replayOut ++ blockedEntry t ++ t.replay).take 9

/-- The 64 bytes of a replay entry (R384). -/
def replayBytes (r : Replay) : List Byte :=
  natToBytes 4 r.word.toNat
    ++ natToBytes 4 ((if r.valid then 1 else 0) + (if r.watch then 2 else 0) + (if r.settled then 4 else 0)
      + r.flags.toNat * 8)
    ++ wordBytes 8 r.pcu ++ wordBytes 8 r.addr ++ wordBytes 8 r.opA ++ wordBytes 8 r.opB ++ wordBytes 8 r.opC
    ++ wordBytes 8 r.opD ++ natToBytes 8 0

/-- The entry that 64 bytes stand for. -/
def replayRead (bs : List Byte) : Replay :=
  let f := fieldAt bs 4 4
  let word (o : Nat) : Word := BitVec.ofNat 64 (fieldAt bs o 8)
  ⟨BitVec.ofNat 32 (fieldAt bs 0 4), f % 2 == 1, f / 2 % 2 == 1, f / 4 % 2 == 1, BitVec.ofNat 6 (f / 8), word 8,
    word 16, word 24, word 32, word 40, word 48, Hints.empty, 0xFF⟩

/-- The hints of the unit at an address, read again. -/
def hintsAt (s : State) (core ctx : Nat) : Nat → Word → Hints → Hints
  | 0, _, h => h
  | n + 1, a, h =>
    match peekWord s core ctx a with
    | none => h
    | some w =>
      match decodeWords [w] with
      | .ok (.pre _ m z r f b, _) => hintsAt s core ctx n (a + 4) { h with pre := some ⟨m, z, r, f, b⟩ }
      | .ok (.live _ lo hi, _) => hintsAt s core ctx n (a + 4) { h with live := h.live ++ [(lo, hi)] }
      | .ok (.off _ o, _) => hintsAt s core ctx n (a + 4) { h with off := some o }
      | .ok (.scope _ c, _) => hintsAt s core ctx n (a + 4) { h with scope := some c }
      | _ => h

/-- The entry with the hints it was captured with (R196); one that the thread's frame did not hold, such as one that a
restore routine wrote, has those of the unit it names (DESIGN CHOICE, log entry 34). -/
def Replay.recall (r : Replay) (s : State) (t : Thread) : Replay :=
  match t.kept.find? (fun k => k.word == r.word && k.pcu == r.pcu) with
  | some k => { r with hints := k.hints, mask := k.mask }
  | none =>
    let h := hintsAt s t.core t.ctx 11 r.pcu Hints.empty
    { r with hints := h, mask := t.getM h.mask.1.toNat }

/-! ### The save slot -/

/-- The slot record of a group slot. -/
def slotKey (ctx slot : Nat) : Nat := ctx * 32 + slot
def slotInfo (s : State) (core ctx slot : Nat) : SlotInfo :=
  Tbl.getD (s.core core).slots (slotKey ctx slot) ⟨0, false, [], false, none⟩
def setSlotInfo (s : State) (core ctx slot : Nat) (x : SlotInfo) : State :=
  s.updCore core (fun c => { c with slots := Tbl.set c.slots (slotKey ctx slot) x })

/-- The virtual address of a save slot (R381). -/
def saveSlotVa (s : State) (core ctx slot : Nat) : Word :=
  (s.ctx ctx).savebase + BitVec.ofNat 64 ((core * 32 + slot) * 0x8000)

/-- The device's own write to a save slot, which lies in one page: performed at home, its D bit set, the core's and the
die's copies of the bytes dropped. -/
def slotWrite (s : State) (core ctx : Nat) (t : TlbEntry) (va : Nat) (bs : List Byte) : State :=
  let s := beforeWrite s [⟨va, bs.length, t.pa va, t⟩]
  let s := l1DropRange s core ctx va bs.length
  let s := farDrop s (dieOf core) (t.pa va) bs.length
  hwWrite s (t.pa va) bs

/-- The threads of a group slot, by slot position. -/
def slotThreads (s : State) (core ctx slot : Nat) : List (Nat × Thread) :=
  (s.threads.filter (fun p => p.2.core == core && p.2.ctx == ctx && p.2.slot == slot && p.2.live
    && p.2.status != .spawned)).sortBy (fun a b => decide (a.2.pos ≤ b.2.pos))

/-- A thread where a trap of its own is taken: at a boundary of units, which no hint of a unit has passed, and not
blocked, but at a switch marker, for a frame or before a ninth outstanding instruction; or parked, wherever that is (R188,
R196, R290). -/
def Thread.atBoundary (t : Thread) : Bool :=
  match t.why? with
  | none | some .parkFirst | some .frame | some .outstanding => t.unit.isNone
  | some .park => true
  | some _ => false

/-- A thread that takes a trap inside a unit resumes at the unit's first word, and its hints issue again (R196). -/
def Thread.rewind (t : Thread) : Thread := { t with pc := t.unit.getD t.pc, unit := none, hints := Hints.empty }

/-- Threads of a slot that are to take a trap and can. -/
def trapping (s : State) (core ctx slot : Nat) : List (Nat × Thread) :=
  (slotThreads s core ctx slot).filter (fun p => p.2.trap.isSome && p.2.atBoundary)

/-- The frame's bytes (R383). TID of a position of the slot that holds no thread is 0 (DESIGN CHOICE, log entry 73). -/
def frameBytes (s : State) (core ctx slot : Nat) (xs : List (Nat × Thread)) (tr : Trap) : List Byte :=
  let t := match xs with | p :: _ => p.2 | [] => Thread.reset
  let tm := s.team t.team
  let wordAt := match tr.at_ with
    | some a => a
    | none => unitInstr s core ctx 11 t.pc
  let word := match peekWord s core ctx wordAt with | some w => w.toNat | none => 0
  let info : Word := if tr.cause = causeFpx then
      xs.foldl (fun a p => a ||| (match p.2.trap with | some x => x.info | none => 0)) 0
    else tr.info
  let lanes := xs.foldl (fun a p => a ||| BitVec.twoPow 32 p.2.pos) (0 : BitVec 32)
  let all := slotThreads s core ctx slot
  let tids := (List.range 32).flatMap (fun i =>
    natToBytes 2 (match all.find? (fun p => p.2.pos == i) with | some p => p.2.tid | none => 0))
  natToBytes 2 tr.cause ++ natToBytes 1 tr.kind
    ++ natToBytes 1 ((if tm.halted then 1 else 0) + (if tr.cause = causeCkpt then 2 else 0))
    ++ natToBytes 4 word ++ wordBytes 8 t.pc ++ wordBytes 8 tr.addr ++ wordBytes 8 info
    ++ natToBytes 4 lanes.toNat ++ natToBytes 4 tm.spawns.length ++ wordBytes 8 tm.gtime ++ natToBytes 16 0
    ++ tids ++ wordBytes 8 tr.aux ++ natToBytes 120 0

/-- A lane record's bytes (R384). -/
def laneBytes (t : Thread) (q : Nat) : List Byte :=
  let addr := match t.trap with | some x => x.addr | none => 0
  wordBytes 8 t.pc ++ natToBytes 2 t.fd ++ natToBytes 2 (1 + 2 * q) ++ natToBytes 4 t.csn.toNat
    ++ wordBytes 8 (t.getV 0) ++ wordBytes 8 (t.getV 1) ++ wordBytes 8 (t.getV 2) ++ wordBytes 8 (t.getV 3)
    ++ wordBytes 8 addr ++ natToBytes 8 0

/-- A thread enters its handler (R386). A short result that is not due yet holds its readers there too (R184); a step over a
breakpoint is over (R400). -/
def Thread.enter (t : Thread) (entry : Word) : Thread :=
  { t with pc := entry, handler := true, status := .ready, pending := [], outs := [], replay := []
           kept := (replayQueue t).map (fun r => ⟨r.word, r.pcu, r.hints, r.mask⟩)
           hints := Hints.empty, unit := none, trap := none, stepOver := false, issueRead := none }

/-- A trap that waits for a busy frame: a precise one is raised again by its unit, one whose instruction stands in the
replay queue is kept (R386, R387). -/
def Thread.waitFrame (t : Thread) : Thread :=
  let keep := match t.trap with | some x => x.keep | none => false
  match t.status with
  | .blocked b => if keep then t else { t with status := .blocked { b with why := .frame }, trap := none }
  | _ =>
    { t with trap := if keep then t.trap else none, age := 0
             status := .blocked ⟨.frame, .nop false, ⟨t.ctx, t.core, t.team, t.tid, 0, t.pc, t.pc, t.pc, 0, 0, 0, 0, 0, 0,
               Hints.empty, 0xFF, false, false, false, 0⟩, 0⟩ }

/-- Every group of a halted team has stopped at a unit boundary. -/
def haltComplete (s : State) (team : Nat) : Bool := (s.threadsOf team).all (fun p => !p.2.live || p.2.unit.isNone)

/-- A halt that is complete takes its place among the records to be written, which come in the order in which halts complete
(R424). -/
def noteHalt (s : State) (team : Nat) : State :=
  let tm := s.team team
  match tm.haltReason with
  | some r =>
    if !tm.exited && haltComplete s team then
      (s.updTeam team (fun t => { t with haltReason := none })).updCtx tm.ctx (fun c => { c with halts := c.halts ++ [(team, r)] })
    else s
  | none => s

/-- A team halts, and its threads' ages are 0 (R161, R402). -/
def haltTeam (s : State) (team reason : Nat) : State :=
  let s := s.updTeam team (fun t => if t.halted then t else { t with halted := true, haltReason := some reason })
  noteHalt { s with threads := s.threads.map (fun p => if p.2.team == team then (p.1, { p.2 with age := 0 }) else p) } team

/-- The status of a thread that goes on. -/
def Thread.goOn (t : Thread) : Status :=
  match t.status with
  | .blocked _ | .waking _ | .reinject => if t.replay.isEmpty then .ready else .reinject
  | st => st

/-- A thread's outstanding instructions grow fewer: a park ends, and an instruction held as the ninth may issue. -/
def Thread.outReturned (t : Thread) : Thread :=
  match t.status with
  | .blocked b =>
    match b.why with
    | .park =>
      if t.outs.isEmpty && t.trap.isNone then
        { t with pending := []
                 status := match b.instr with
                   | .yield _ n => if b.waited ≤ n.toNat then .yielding (n.toNat + 1 - b.waited) else .ready
                   | _ => t.goOn }
      else t
    | .outstanding => { t with status := t.goOn }
    | _ => t
  | _ => t

/-- A double fault (R388): its cause is dropped, and an outstanding instruction that raised it is outstanding no more. -/
def doubleFault (s : State) (core ctx slot : Nat) (xs : List (Nat × Thread)) (cause : Nat) : State :=
  let s := xs.foldl (fun s p => s.updThread p.1 (fun t =>
    ({ t with trap := none, outs := t.outs.filter (fun o => !o.trapped), hints := Hints.empty, unit := none } :
      Thread).outReturned)) s
  let team := match xs with | p :: _ => p.2.team | [] => 0
  if bitAt (s.ctx ctx).dbgctl 3 then haltTeam s team 3
  else stopContext s ctx core slot 0 cause

/-- The threads `xs` of one group slot take cause `tr` together: the frame, the lane records and the replay entries are
written, and each enters its handler (R386). -/
def enterHandler (s : State) (core ctx slot : Nat) (xs : List (Nat × Thread)) (tr : Trap) (page : TlbEntry) : State :=
  let va := (saveSlotVa s core ctx slot).toNat
  let s := xs.foldl (fun s p => (settleLoads s core p.1).updThread p.1 (fun t => t.deliverReady.rewind)) s
  let xs := xs.map (fun p => (p.1, s.thread p.1))
  let s := slotWrite s core ctx page va (frameBytes s core ctx slot xs tr)
  let s := xs.foldl (fun s p =>
    let t := p.2
    let q := replayQueue t
    let s := slotWrite s core ctx page (va + 0x100 + 64 * t.pos) (laneBytes t q.length)
    if q.isEmpty then s
    else slotWrite s core ctx page (va + 0x1000 + 576 * t.pos) (q.flatMap replayBytes)) s
  let si := slotInfo s core ctx slot
  let s := setSlotInfo s core ctx slot
    { si with frame := xs.map (fun p => p.2.tid), keep := tr.cause == causeCkpt, wait := none }
  xs.foldl (fun s p => s.updThread p.1 (fun t =>
    let t := t.enter (s.ctx ctx).trapbase
    if tr.cause = causeWatchdog then { t with age := 0, watchdog := false } else t)) s

/-- Threads of a slot whose entry is under way: the frame counts as busy from the start of its writes (R381, R386). -/
def entering (s : State) (core ctx slot : Nat) : List (Nat × Thread) :=
  let si := slotInfo s core ctx slot
  (slotThreads s core ctx slot).filter (fun p => si.frame.contains p.2.tid && p.2.trap.isSome && !p.2.handler)

/-- The threads `xs` begin their entry, or go on with it. A write that meets a fault offered to host waits for it, and
one that is refused or not offered stops the context (R381), such as one to a slot that lies past the global window; one to a page
that a snap has still to copy waits too (R338). -/
def beginEntry (s : State) (core ctx slot : Nat) (xs : List (Nat × Thread)) (tr : Trap) : State :=
  let va := saveSlotVa s core ctx slot
  let wait (key : Nat) (s : State) : State :=
    setSlotInfo s core ctx slot
      { slotInfo s core ctx slot with frame := xs.map (fun p => p.2.tid), keep := tr.cause == causeCkpt, wait := some key }
  let hold (s : State) (kind bits : Nat) : State :=
    let (key, s) := openFault s ctx va kind bits (accessByte true false false false false) core true
    wait key s
  if 2 ^ 56 ≤ va.toNat then stopContext s ctx core slot 1 0
  else match lookup s core ctx va.toNat with
  | (.ok page, s) =>
    if leafW page.leaf then
      match snapKey s ctx page with
      | (some key, s) => wait key s
      | (none, s) => enterHandler s core ctx slot xs tr page
    else hold s 1 page.bits
  | (.error .inkPage, s) => stopContext s ctx core slot 1 0
  | (.error (.page kind bits), s) => hold s kind bits

/-- Threads that trap while the frame is busy are held before their unit. -/
def holdFrame (s : State) (ps : List (Nat × Thread)) : State :=
  ps.foldl (fun s p => (unreport s p.2).updThread p.1 Thread.waitFrame) s

/-- Traps that two threads take together (R386): one cause at one instruction; the members of a rendezvous that fails trap
together wherever they stand (R171). -/
def Trap.together (t u : Trap) : Bool :=
  t.cause == u.cause && (t.at_ == u.at_ || t.cause == causeCollMismatch || t.cause == causeCollTimeout)

/-- Entry to the handler (R386): of the threads of a group slot that wait to take one, those whose cause and instruction are those of
the lowest trapping position enter the handler together; a busy frame holds the others, and holds all when it is not free. -/
def enterTraps (s : State) (core ctx slot : Nat) : State :=
  let si := slotInfo s core ctx slot
  match entering s core ctx slot, trapping s core ctx slot with
  | (k, t) :: rest, ps =>
    let xs := (k, t) :: rest
    let s := holdFrame s (ps.filter (fun p => !(xs.any (fun q => q.1 == p.1)) && p.2.why? != some .frame))
    if si.wait.isSome then s else beginEntry s core ctx slot xs (t.trap.getD (trapOf causeCkpt))
  | [], [] => s
  | [], (k, t) :: rest =>
    match t.trap with
    | none => s
    | some tr =>
      let all := (k, t) :: rest
      let xs := all.filter (fun p => match p.2.trap with | some x => tr.together x | none => false)
      let others := all.filter (fun p => !(xs.any (fun q => q.1 == p.1)))
      if xs.any (fun p => p.2.handler) then doubleFault (holdFrame s others) core ctx slot xs tr.cause
      else if !si.frame.isEmpty then holdFrame s all
      else beginEntry (holdFrame s others) core ctx slot xs tr

/-- TAKING A TRAP (R386): the threads of a group slot that can enter their handler do, and a halt that this brings to its end takes
its place in the order of halts (R402, R424). -/
def takeTraps (s : State) (core ctx slot : Nat) : State :=
  match trapping s core ctx slot with
  | p :: _ => noteHalt (enterTraps s core ctx slot) p.2.team
  | [] => enterTraps s core ctx slot

/-- A thread raises a precise trap at its unit: its PC is the unit's first word, and its hints go (R196). -/
def raisePrecise (s : State) (key : Nat) (unit : Word) (tr : Trap) : State :=
  s.updThread key (fun t =>
    { t with trap := some tr, pc := unit, hints := Hints.empty, unit := none
             status := .ready, age := 0, issueRead := none })

/-- A set reopens (R353): the commands held at issue go on. -/
def reopenSet (s : State) (ctx set : Nat) : State :=
  let s := s.updCtx ctx (fun c => { c with heads := match Tbl.get? c.heads set with
    | some h => Tbl.set c.heads set { h with closed := false }
    | none => c.heads })
  s.wakeAll (fun t w => match w with | .ligClosed n _ => t.ctx == ctx && n == set | _ => false)

/-- What an lgproj waits for once it has closed its set (steps 4 to 6 of R454): its operand's page, ink or block, or the issue
itself. -/
def Why.pastClose : Why → Bool
  | .fault .. | .inkReq .. | .inkTicket .. | .carve | .bucket | .restore .. | .errors _ => true
  | _ => false

/-- The set that a blocked thread has closed reopens when its instruction is given up (R353). -/
def unclose (s : State) (b : Blocked) : State :=
  let set := bitsOf b.env.opB 3 0
  match b.instr, b.why with
  | .lgproj .., w => if w.pastClose then reopenSet s b.env.ctx set else s
  | .lgcfg .., .ligDrain .. => reopenSet s b.env.ctx set
  | .lgclr .., .ligDrain .. => reopenSet s b.env.ctx set
  | _, _ => s

/-- A blocked instruction raises a trap. One that was re-injected goes back to the head of the replay queue (R387); any
other is executed again from its unit. -/
def raiseBlocked (s : State) (key : Nat) (b : Blocked) (tr : Trap) : State :=
  let tr := { tr with at_ := some b.env.pc }
  let s := unclose s b
  if b.env.replay && !holdsPc b.instr then
    s.updThread key (fun t =>
      { t with trap := some { tr with keep := true }, status := .ready, age := 0
               replay := replayOf b.instr b.env :: t.replay })
  else raisePrecise s key b.env.unit tr

/-- The virtual address of the return-stack slot of frame depth `f` (R241). -/
def stackSlot (s : State) (t : Thread) (f : Nat) : Word :=
  let tm := s.team t.team
  tm.rstack + BitVec.ofNat 64 ((tm.ordinal * 1024 + t.tid) * 0x80000 + 8 * f)

/-- The address at which a thread met the fault that it waits for. -/
def Why.faultAt : Why → Option Word
  | .fault _ va => some va
  | _ => none

/-- The granule at which a recolouring thread's fault stands (R226). -/
def Why.granule : Why → Nat
  | .inkFault _ i => i
  | _ => 0

/-- Forms that issue an engine command: their traps are precise (R328). -/
def issuesCommand : Instr → Bool
  | .cpy .. | .cpyt .. | .snap .. | .gath .. | .scatadd .. | .mma .. | .mmas .. | .azero .. | .ald .. | .ast ..
  | .mgld .. | .kstore .. | .lgather .. | .lgsig .. | .lgproj .. | .lgpool .. => true
  | _ => false

/-- The address of a blocked instruction's refused fault: a call and a return have their return-stack slot (R241), an ink its granule,
an engine command the operand that met the fault (R328), an emit the record or the queue's slot, an RTT its save slot, an inksig its
descriptor (DESIGN CHOICE, log entry 37). -/
def faultAddr (s : State) (key : Nat) (b : Blocked) : Word :=
  let t := s.thread key
  match b.instr with
  | .inksig .. | .emit .. | .rtt .. => b.why.faultAt.getD b.env.addr
  | .call .. | .callr .. => stackSlot s t (t.fd + 1)
  | .ret .. => stackSlot s t t.fd
  | .ink .. => b.env.addr + BitVec.ofNat 64 (256 * b.why.granule)
  | i => if issuesCommand i then b.why.faultAt.getD b.env.addr else b.env.addr

/-- A refused page fault: the instruction stands in the replay queue and the PC is past it (R38); at the issue of a command the
trap is precise (R328). The address is that of `faultAddr` (for an inksig, log entry 37). -/
def raiseRefused (s : State) (key : Nat) (b : Blocked) (kind : Nat) : State :=
  let s := unclose s b
  let cmd := issuesCommand b.instr
  let tr := { pageTrap kind (faultAddr s key b) with at_ := some b.env.pc }
  if holdsPc b.instr || cmd then raisePrecise s key b.env.unit tr
  else
    s.updThread key (fun t =>
      { t with trap := some { tr with keep := true }, status := .ready, age := 0
               replay := replayOf b.instr b.env :: t.replay })

/-! ### The return (R250, R387, R393) -/

/-- The bytes of a save slot as the thread that returns from its handler reads them: its own stores come first, and what the home
sent it earlier (R49, R53). None when the page cannot be read; a slot past the global window is BADWIN (R18). -/
def slotRead (s : State) (core ctx : Nat) (va n : Nat) : Except XErr (List Byte) × State :=
  if 2 ^ 56 < va + n then (.error (.page 8 16), s)
  else match lookup s core ctx va with
  | (.ok t, s) =>
    let s := replyFrom (settleRange s core (t.pa va) n) core (homeCode (t.pa va))
    let (bs, s) := hwRead s (t.pa va) n
    (.ok bs, s)
  | (.error x, s) => (.error x, s)

/-- The virtual address of a thread's lane record and of its replay entries (R382). -/
def laneVa (s : State) (t : Thread) : Nat := (saveSlotVa s t.core t.ctx t.slot).toNat + 0x100 + 64 * t.pos
def replayVa (s : State) (t : Thread) : Nat := (saveSlotVa s t.core t.ctx t.slot).toNat + 0x1000 + 576 * t.pos

/-- Whether the frame of a thread's slot is a KEEP frame (R383). -/
def keepFrame (s : State) (t : Thread) : Bool := (slotInfo s t.core t.ctx t.slot).keep

/-- The holds that RTT releases, highest first (R138, R393): those of the handler, but from a KEEP frame only those
deeper than the reloaded FD. -/
def rttReleases (s : State) (t : Thread) (fd : Nat) : List Hold :=
  (t.holds.filter (fun k => k.h && !(keepFrame s t && decide (k.depth ≤ fd)))).sortBy
    (fun a b => decide (b.ink ≤ a.ink))

/-- A thread leaves a frame; when it is the last of LANES the frame frees, and what waits for it goes on (R387). -/
def leaveFrame (s : State) (core ctx slot tid : Nat) : State :=
  let si := slotInfo s core ctx slot
  let left := si.frame.filter (fun i => i != tid)
  if left.isEmpty then
    let s := setSlotInfo s core ctx slot { si with frame := [], keep := false }
    { s with threads := s.threads.map (fun (k, t) =>
        if t.core == core && t.ctx == ctx && t.slot == slot && t.why? == some .frame then
          (k, { t with status := .ready })
        else (k, t)) }
  else setSlotInfo s core ctx slot { si with frame := left }

/-- THE RETURN (R387) once the releases of R250 are done: v0 to v3, FD and CSN come from the lane record, the replay
queue stands to be re-injected, and the thread resumes at the record's PC outside handler mode. After a CKPT the observed
rounds of the context are unknown (R146, R151). -/
def returnThread (s : State) (key : Nat) (lane queue : List Byte) : State :=
  let t := s.thread key
  let word (o : Nat) : Word := BitVec.ofNat 64 (fieldAt lane o 8)
  let qn := min (fieldAt lane 10 2 / 2 % 16) 9
  let entries := ((List.range qn).map (fun e => replayRead ((queue.drop (64 * e)).take 64))).filter (fun r => r.valid)
  let keep := keepFrame s t
  let fd := fieldAt lane 8 2
  let s := if keep then forgetRounds s t.core t.ctx else s
  let entries := entries.map (fun r => r.recall s t)
  let s := s.updThread key (fun t =>
    let t := (((t.setV 0 (word 16)).setV 1 (word 24)).setV 2 (word 32)).setV 3 (word 40)
    { t with fd := fd, csn := BitVec.ofNat 32 (fieldAt lane 12 4), pc := word 0, handler := false, kept := []
             holds := if keep then t.holds.map (fun k => { k with h := false }) else t.holds
             hints := Hints.empty, unit := none, replay := entries
             status := if entries.isEmpty then .ready else .reinject })
  leaveFrame s t.core t.ctx t.slot t.tid

end Sys2Proof.Machine
end

