-- ==== Sys2Proof/Machine/Issue.lean ====
section
/-! DEFINITION. Issue: the checks of R178, R182, R173, R187 and R188 on each thread of a bundle, the capture of operands,
the meaning of each lane in ascending team thread index (R208), the switch marker (R186), and the traps (R386). Also the
ends of waits, and the return of long results (R185, R290). -/

namespace Sys2Proof.Machine

/-! ### What a unit's issue is checked for -/

/-- The group in whose slot a thread stands. -/
def groupOf (s : State) (t : Thread) : Group :=
  ((s.team t.team).groups.find? (fun g => g.slot == t.slot)).getD ⟨t.slot, 128, none, 0⟩

/-- Instructions that access memory (R188), by themselves or through the command they issue: loads of a record (R312, R351), the
update of a monitor's block (R134) and of a set's blocks (R355) among them. azero touches a tile alone. -/
def accessesMemory (i : Instr) : Bool :=
  match i with
  | .azero .. => false
  | .ld .. | .st .. | .ldb .. | .atom .. | .cas .. | .wupd .. | .wred .. | .ink .. | .inkq .. | .inkwait .. | .inksig ..
  | .call .. | .callr .. | .ret .. | .emit .. | .palres .. | .lgcfg .. | .lgclr .. => true
  | _ => issuesCommand i

/-- What the checks before any effect find for one thread. -/
inductive Verdict where
  | go
  | trap (t : Trap)
  | hold
  deriving DecidableEq, Repr

/-- The v registers a hint word names itself (R182). -/
def hintRegs : Instr → List Nat
  | .live _ lo hi => [lo.toNat, hi.toNat]
  | .pre _ _ _ _ f b => if f && decide (b.toNat < 128) then [b.toNat] else []
  | _ => []

/-- How many instructions a thread has outstanding: what has trapped is outstanding no more (R188). -/
def Thread.outstanding (t : Thread) : Nat := (t.outs.filter (fun o => !o.trapped)).length

/-- ILLEGAL (R178, R182, R190), then ROLE (R173), then HAZARD (R187), then ECC of a register (R81), then the limit of
R188. -/
def issueCheck (s : State) (t : Thread) (i : Instr) : Verdict :=
  let g := groupOf s t
  if (formCheck t.hints i).isSome || (namedRegs t.hints i ++ hintRegs i).any (fun r => decide (g.allot ≤ r)) then
    .trap (trapOf causeIllegal)
  else if i.role.isSome && g.role.isSome && i.role != g.role then .trap (trapOf causeRole)
  else match (if i.isHint then none else (unitRegs t.hints i).find? (fun r => t.pending.contains r)) with
    | some r => .trap ⟨causeHazard, 0, 0, BitVec.ofNat 64 r, 0, none, false⟩
    | none =>
      if !t.bad.isEmpty && (readRegs t.hints i).any (fun r => t.bad.contains r) then .trap (trapOf causeEcc)
      else if (i.isLong || accessesMemory i) && decide (8 ≤ t.outstanding) then .hold else .go

/-! ### The end of a lane's instruction -/

/-- An instruction is done for a thread: the PC goes on, the unit's hints end, and a word with S = 1 parks the thread
while a long result is outstanding, or empties its pending set (R186). -/
def Thread.complete (t : Thread) (i : Instr) (e : Env) : Thread :=
  let t := { t with
    pc := if i.setsPc || e.replay then t.pc else e.npc
    hints := if i.isHint then t.hints else Hints.empty
    unit := if i.isHint then t.unit else none
    issueRead := none }
  match t.status with
  | .exited | .spawned => t
  | _ =>
    if i.sw && !t.outs.isEmpty then t.block .park i e
    else { t with status := t.goOn, pending := if i.sw then [] else t.pending }

def completeLane (s : State) (key : Nat) (i : Instr) (e : Env) : State := s.updThread key (fun t => t.complete i e)

/-- What a thread has waited already, where the same wait goes on: a wake that leaves it where it was starts no count afresh
(R151). A load that stalls on one region and then on another begins a new stall (DESIGN CHOICE, log entry 64). -/
def Thread.waitedAt (t : Thread) (w : Why) : Nat :=
  match t.status with
  | .waking b => if b.why = w then b.waited else 0
  | _ => 0

/-- A thread blocks at an instruction; its PC is past the unit, but where the form leaves it at the unit. -/
def blockLane (s : State) (i : Instr) (e : Env) (w : Why) : State :=
  s.updThread e.key (fun t =>
    { t.block w i e with
      status := .blocked ⟨w, i, e, t.waitedAt w⟩
      pc := if holdsPc i then e.unit else if e.replay then t.pc else e.npc
      hints := Hints.empty, unit := none })

/-- What a lane's meaning answers, applied at issue. -/
def applyLane (s : State) (i : Instr) (e : Env) : LaneOut → State
  | .done s => completeLane s e.key i e
  | .trap _ tr => raisePrecise s e.key e.unit { tr with at_ := if i.isHint then none else some e.pc }
  | .block s w => blockLane s i e w

/-- What a lane's meaning answers, applied to an instruction that runs again after a wait or from the replay queue. -/
def applyAgain (i : Instr) (e : Env) : LaneOut → State
  | .done s => completeLane s e.key i e
  | .trap s tr =>
    let t := s.thread e.key
    takeTraps (raiseBlocked s e.key ⟨.park, i, e, 0⟩ tr) t.core t.ctx t.slot
  | .block s w => blockLane s i e w

/-- A blocked thread's instruction is done. -/
def finishBlocked (s : State) (key : Nat) : State :=
  match (s.thread key).status with
  | .blocked b | .waking b => completeLane s key b.instr b.env
  | _ => s

/-! ### What a held instruction goes on with (R120, R227, R328, R329) -/

/-- An instruction that is held keeps what it has read or settled on, and goes on with it (R227, R328, R329, R454). -/
def LaneOut.keepRead (e : Env) (f : IssueRead → IssueRead) (o : LaneOut) : LaneOut :=
  match o with
  | .block s w =>
    .block (s.updThread e.key (fun t => { t with issueRead := some (f ((t.hasRead e.msg).getD (.empty e.msg))) })) w
  | o => o

/-- The inks of an access, each with its data address, and then the access (R120). One that waits for an ink goes on with the inks of
its first check: where an ink step recolours a granule meanwhile, it uses the old ink (R227). -/
def withInks (e : Env) (js : List (Nat × Word)) (s : State) (k : State → LaneOut) : LaneOut :=
  if js.all (fun p => (s.thread e.key).holdsInk p.1) then k s
  else
    let js := (((s.thread e.key).hasRead e.msg).bind IssueRead.inks).getD js
    LaneOut.keepRead e (fun r => { r with inks := some js }) (
      match takeInks s e.key e.msg js with
      | (.trap t, s) => .trap s t
      | (.fault key va, s) => .block s (.fault key va)
      | (.wait w, s) => .block s w
      | (.ok (), s) => k s)

/-! ### A bundle -/

/-- A thread held before a ninth outstanding instruction: its hints stay, and its age is kept, as that of a held thread (R161,
R188). The picker passes such a thread over (`ninthHeld`). -/
def holdNinth (s : State) (i : Instr) (e : Env) : State :=
  s.updThread e.key (fun t => { t.block .outstanding i e with age := t.age })

/-- The operands of one thread of a bundle. -/
def bundleEnv (s : State) (bd : Bundle) (i : Instr) (msg tid : Nat) : Env :=
  let t := s.thread (threadKey bd.team tid)
  capture s t i msg (t.unit.getD bd.pc) bd.pc (bd.pc + BitVec.ofNat 64 (4 * i.size))

/-- The lanes of a bundle one after another, each on the operands it captured (R208). The envs of the lanes that are
done come with the state. -/
def runLanes (i : Instr) (lane : LaneFn) : List Env → State → State × List Env
  | [], s => (s, [])
  | e :: es, s =>
    let out := lane e s
    let (s', ds) := runLanes i lane es (applyLane (match out with | .trap t _ => t | _ => s) i e out)
    (s', match out with | .done _ => e :: ds | _ => ds)

/-- The issue of instruction `i` to the bundle. `pre` may make every thread that can issue trap; `post` acts once for
the bundle, on the threads that issued and on those that are done. -/
def issueBundle (i : Instr) (pre : List Env → State → Option Trap) (lane : LaneFn)
    (post : List Env → List Env → State → State) (bd : Bundle) (s : State) : State :=
  let (msg, s) := ({ s with bundle := none } : State).fresh
  let all := bd.tids.map (fun tid => (bundleEnv s bd i msg tid, issueCheck s (s.thread (threadKey bd.team tid)) i))
  let s := all.foldl (fun s p => match p.2 with
    | .go => s
    | .trap tr => raisePrecise s p.1.key p.1.unit { tr with at_ := if i.isHint then none else some p.1.pc }
    | .hold => holdNinth s i p.1) s
  let es := (all.filter (fun p => p.2 == .go)).map (fun p => p.1)
  let s := match pre es s with
    | some tr => es.foldl (fun s e => raisePrecise s e.key e.unit { tr with at_ := some e.pc }) s
    | none =>
      let (s, ds) := runLanes i lane es s
      post es ds s
  noteHalt (takeTraps s bd.core bd.ctx bd.slot) bd.team

/-- The issue of an instruction to the bundle of the state; with no bundle nothing issues. -/
def runBundle (i : Instr) (pre : List Env → State → Option Trap) (lane : LaneFn)
    (post : List Env → List Env → State → State) (s : State) : Host.Outcome State Fault Refusal :=
  match s.bundle with
  | some bd => .next (issueBundle i pre lane post bd s)
  | none => .next s

/-- Forms with no rule for the bundle as a whole. -/
def runEach (i : Instr) (lane : LaneFn) (s : State) : Host.Outcome State Fault Refusal :=
  runBundle i (fun _ _ => none) lane (fun _ _ s => s) s

/-- A hint word joins the hints of its unit (R190). -/
def hintLane (h : Hints → Hints) : LaneFn := fun e s =>
  .done (s.updThread e.key (fun t => { t with hints := h t.hints, unit := some e.unit }))

/-! ### Long results (R185, R186, R290) -/

/-- An outstanding instruction traps: a thread held inside its unit as the ninth goes on to the unit's end, where it takes
the trap (R188, R290). -/
def Thread.outTrapped (t : Thread) (o : Outst) (x : Word) : Thread :=
  let t : Thread := { t with
    trap := some o.trapOf
    outs := t.outs.map (fun p => if p.id == o.id then { p with result := some x, trapped := true } else p) }
  match t.why? with
  | some .outstanding => if t.unit.isSome then { t with status := t.goOn } else t
  | _ => t

/-- An outstanding instruction returns its result: the destination and FPF receive it in one step, or the thread is to
take FPX, or ECC for poison (R81, R290). -/
def returnOut (s : State) (key : Nat) (o : Outst) (x : Word) : State :=
  let t := s.thread key
  if o.raises t.fpctl then
    takeTraps (s.updThread key (fun t => t.outTrapped o x)) t.core t.ctx t.slot
  else
    s.updThread key (fun t =>
      let t := match o.instr.dReg with | some r => t.setV r.toNat x | none => t
      ({ t.addFlags o.flags with outs := t.outs.filter (fun p => p.id != o.id) } : Thread).outReturned)

end Sys2Proof.Machine
end

