-- ==== Sys2Proof/Machine/Integer.lean ====
section
/-! DEFINITION. The integer and logic forms (R253 to R262), ops 0x08 to 0x16. -/

namespace Sys2Proof.Machine

/-! ### The shape of a short form (R253) -/

/-- A short form of `w`-bit sub-elements: `f` of a, b and d in each, written where the mask governs. -/
def shortOp (i : Instr) (d : BitVec 7) (w : Nat) (f : Nat → Nat → Nat → Nat) : LaneFn := fun e s =>
  let new := (List.range (64 / w)).map (fun j => f (elemAt w e.opA j) (elemAt w e.opB j) (elemAt w e.opC j))
  let (m, z) := maskOf e
  .done (writeShort s i e d.toNat (mergeMask w m z e.opC new))

/-- A short form of all 64 bits, masked byte by byte (R238). -/
def wideOp (i : Instr) (d : BitVec 7) (f : Word → Word → Word → Word) : LaneFn := fun e s =>
  let (m, z) := maskOf e
  .done (writeShort s i e d.toNat (mergeMask 8 m z e.opC (elems 8 (f e.opA e.opB e.opC))))

/-- A `w`-bit number read by its type. -/
def intOf (z : IT) (x : Nat) : Int := if z.signed then toSigned z.bits x else (x % 2 ^ z.bits : Nat)

/-- The nearest number of a type's range (R254). -/
def clampTo (z : IT) (x : Int) : Int :=
  let lo : Int := if z.signed then -(2 ^ (z.bits - 1)) else 0
  let hi : Int := if z.signed then 2 ^ (z.bits - 1) - 1 else 2 ^ z.bits - 1
  if x < lo then lo else if hi < x then hi else x

/-- An operation on two numbers of a type, its result cut to the type's width. -/
def binTo (z : IT) (f : Int → Int → Int) (a b : Nat) : Nat := toBits z.bits (f (intOf z a) (intOf z b))

/-- Division of a DV code (R255): quotient and remainder of a `w`-bit pair. -/
def divBits (w : Nat) (signed : Bool) (a b : Nat) : Nat × Nat :=
  if b % 2 ^ w = 0 then (2 ^ w - 1, a)
  else if signed then
    (toBits w (Int.tdiv (toSigned w a) (toSigned w b)), toBits w (Int.tmod (toSigned w a) (toSigned w b)))
  else (a / b, a % b)

/-- div and rem (R255): a governed zero divisor raises DIV0 when FPCTL.IDZ is 1. -/
def divide (i : Instr) (t : BitVec 2) (d : BitVec 7) (f : Nat × Nat → Nat) : LaneFn := fun e s =>
  let w := dvBits t
  let th := s.thread e.key
  let zero (j : Nat) : Bool := governed (maskOf e).1 w j && elemAt w e.opB j == 0
  if idzOf th.fpctl && (List.range (64 / w)).any zero then .trap s (trapOf causeDiv0)
  else shortOp i d w (fun a b _ => f (divBits w (dvSigned t) a b)) e s

/-- The condition of an integer compare (R201, R258). -/
def condHolds (c : BitVec 3) (a b : Int) : Bool :=
  if c = 0#3 then a == b else if c = 1#3 then a != b else if c = 2#3 then decide (a < b)
  else if c = 3#3 then decide (a ≤ b) else if c = 4#3 then decide (b < a) else decide (b ≤ a)

/-- A mask whose bits are those of the sub-elements they fall in (R201). -/
def maskBits (w : Nat) (f : Nat → Bool) : BitVec 8 :=
  BitVec.ofNat 8 (packNat 1 ((List.range 8).map (fun j => if f (j * 8 / w) then 1 else 0)))

/-- Leading zero bits of a `w`-bit number. -/
def leadingZeros (w x : Nat) : Nat := w - bitLen (x % 2 ^ w)

/-- One bits of a number of `w` bits. -/
def popCount (w x : Nat) : Nat := ((List.range w).filter (fun j => x.testBit j)).length

/-- One sub-element of an integer conversion (R261). -/
def convertInt (sat : Bool) (src dst : IT) (x : Nat) : Nat :=
  toBits dst.bits (if sat then clampTo dst (intOf src x) else intOf src x)

/-- Integer cvt: source sub-elements of one width become destination sub-elements of another (R261). -/
def cvtIntOp (i : Instr) (d : BitVec 7) (sat : Bool) (dst src : IT) : LaneFn := fun e s =>
  let n := 64 / max src.bits dst.bits
  let (m, z) := maskOf e
  let new := (List.range (64 / dst.bits)).map (fun j =>
    if j < n then convertInt sat src dst (elemAt src.bits e.opB j) else 0)
  .done (writeShort s i e d.toNat (mergeMask dst.bits m z e.opC new))

/-- The field of a bit-field form (R262): p and hi. -/
def fieldRange (b : Word) : Nat × Nat := (bitsOf b 5 0, min (bitsOf b 5 0 + min (bitsOf b 14 8) 64) 64)

/-- bfe and bfe.i (R262). -/
def extractField (signed : Bool) (a b : Word) : Word :=
  let (p, hi) := fieldRange b
  if hi ≤ p then 0
  else
    let x := a.toNat / 2 ^ p % 2 ^ (hi - p)
    if signed then BitVec.ofInt 64 (toSigned (hi - p) x) else BitVec.ofNat 64 x

/-- bfi (R262). -/
def insertField (a b d : Word) : Word :=
  let (p, hi) := fieldRange b
  if hi ≤ p then d else setBits d (hi - 1) p (a.toNat % 2 ^ (hi - p))

/-! ### Arithmetic (R254, R255) -/

/-- add (R254), for one thread. -/
def laneAdd (ins : Instr) (w : W) (d : BitVec 7) : LaneFn :=
  shortOp ins d w.bits (fun a b _ => a + b)

/-- add (R254). -/
def execAdd (sw : Bool) (w : W) (d : BitVec 7) (a : BitVec 7) (b : Opnd)
    (s : State) : Host.Outcome State Fault Refusal :=
  runEach (.add sw w d a b) (laneAdd (.add sw w d a b) w d) s

/-- sub (R254), for one thread. -/
def laneSub (ins : Instr) (w : W) (d : BitVec 7) : LaneFn :=
  shortOp ins d w.bits (fun a b _ => a + 2 ^ w.bits - b)

/-- sub (R254). -/
def execSub (sw : Bool) (w : W) (d : BitVec 7) (a : BitVec 7) (b : Opnd)
    (s : State) : Host.Outcome State Fault Refusal :=
  runEach (.sub sw w d a b) (laneSub (.sub sw w d a b) w d) s

/-- add.sat (R254), for one thread. -/
def laneAddSat (ins : Instr) (t : IT) (d : BitVec 7) : LaneFn :=
  shortOp ins d t.bits (fun a b _ => binTo t (fun x y => clampTo t (x + y)) a b)

/-- add.sat (R254). -/
def execAddSat (sw : Bool) (t : IT) (d : BitVec 7) (a : BitVec 7) (b : Opnd)
    (s : State) : Host.Outcome State Fault Refusal :=
  runEach (.addSat sw t d a b) (laneAddSat (.addSat sw t d a b) t d) s

/-- sub.sat (R254), for one thread. -/
def laneSubSat (ins : Instr) (t : IT) (d : BitVec 7) : LaneFn :=
  shortOp ins d t.bits (fun a b _ => binTo t (fun x y => clampTo t (x - y)) a b)

/-- sub.sat (R254). -/
def execSubSat (sw : Bool) (t : IT) (d : BitVec 7) (a : BitVec 7) (b : Opnd)
    (s : State) : Host.Outcome State Fault Refusal :=
  runEach (.subSat sw t d a b) (laneSubSat (.subSat sw t d a b) t d) s

/-- mul (R254), for one thread. -/
def laneMul (ins : Instr) (w : W) (d : BitVec 7) : LaneFn :=
  shortOp ins d w.bits (fun a b _ => a * b)

/-- mul (R254). -/
def execMul (sw : Bool) (w : W) (d : BitVec 7) (a : BitVec 7) (b : Opnd)
    (s : State) : Host.Outcome State Fault Refusal :=
  runEach (.mul sw w d a b) (laneMul (.mul sw w d a b) w d) s

/-- mad (R254), for one thread. -/
def laneMad (ins : Instr) (w : W) (d : BitVec 7) : LaneFn :=
  shortOp ins d w.bits (fun a b c => c + a * b)

/-- mad (R254). -/
def execMad (sw : Bool) (w : W) (d : BitVec 7) (a : BitVec 7) (b : Opnd)
    (s : State) : Host.Outcome State Fault Refusal :=
  runEach (.mad sw w d a b) (laneMad (.mad sw w d a b) w d) s

/-- mulh (R254), for one thread. -/
def laneMulh (ins : Instr) (t : IT) (d : BitVec 7) : LaneFn :=
  shortOp ins d t.bits (fun a b _ => binTo t (fun x y => x * y / 2 ^ t.bits) a b)

/-- mulh (R254). -/
def execMulh (sw : Bool) (t : IT) (d : BitVec 7) (a : BitVec 7) (b : Opnd)
    (s : State) : Host.Outcome State Fault Refusal :=
  runEach (.mulh sw t d a b) (laneMulh (.mulh sw t d a b) t d) s

/-- div (R255), for one thread. -/
def laneDiv (ins : Instr) (t : BitVec 2) (d : BitVec 7) : LaneFn :=
  divide ins t d Prod.fst

/-- div (R255). -/
def execDiv (sw : Bool) (t : BitVec 2) (d : BitVec 7) (a : BitVec 7) (b : Opnd)
    (s : State) : Host.Outcome State Fault Refusal :=
  runEach (.div sw t d a b) (laneDiv (.div sw t d a b) t d) s

/-- rem (R255), for one thread. -/
def laneRem (ins : Instr) (t : BitVec 2) (d : BitVec 7) : LaneFn :=
  divide ins t d Prod.snd

/-- rem (R255). -/
def execRem (sw : Bool) (t : BitVec 2) (d : BitVec 7) (a : BitVec 7) (b : Opnd)
    (s : State) : Host.Outcome State Fault Refusal :=
  runEach (.rem sw t d a b) (laneRem (.rem sw t d a b) t d) s

/-! ### Logic and shifts (R256, R257) -/

/-- and (R256), for one thread. -/
def laneAnd (ins : Instr) (d : BitVec 7) : LaneFn :=
  wideOp ins d (fun a b _ => a &&& b)

/-- and (R256). -/
def execAnd (sw : Bool) (d : BitVec 7) (a : BitVec 7) (b : Opnd) (s : State) : Host.Outcome State Fault Refusal :=
  runEach (.and sw d a b) (laneAnd (.and sw d a b) d) s

/-- or (R256), for one thread. -/
def laneOr (ins : Instr) (d : BitVec 7) : LaneFn :=
  wideOp ins d (fun a b _ => a ||| b)

/-- or (R256). -/
def execOr (sw : Bool) (d : BitVec 7) (a : BitVec 7) (b : Opnd) (s : State) : Host.Outcome State Fault Refusal :=
  runEach (.or sw d a b) (laneOr (.or sw d a b) d) s

/-- xor (R256), for one thread. -/
def laneXor (ins : Instr) (d : BitVec 7) : LaneFn :=
  wideOp ins d (fun a b _ => a ^^^ b)

/-- xor (R256). -/
def execXor (sw : Bool) (d : BitVec 7) (a : BitVec 7) (b : Opnd) (s : State) : Host.Outcome State Fault Refusal :=
  runEach (.xor sw d a b) (laneXor (.xor sw d a b) d) s

/-- andn (R256), for one thread. -/
def laneAndn (ins : Instr) (d : BitVec 7) : LaneFn :=
  wideOp ins d (fun a b _ => a &&& ~~~b)

/-- andn (R256). -/
def execAndn (sw : Bool) (d : BitVec 7) (a : BitVec 7) (b : Opnd) (s : State) : Host.Outcome State Fault Refusal :=
  runEach (.andn sw d a b) (laneAndn (.andn sw d a b) d) s

/-- orn (R256), for one thread. -/
def laneOrn (ins : Instr) (d : BitVec 7) : LaneFn :=
  wideOp ins d (fun a b _ => a ||| ~~~b)

/-- orn (R256). -/
def execOrn (sw : Bool) (d : BitVec 7) (a : BitVec 7) (b : Opnd) (s : State) : Host.Outcome State Fault Refusal :=
  runEach (.orn sw d a b) (laneOrn (.orn sw d a b) d) s

/-- xnor (R256), for one thread. -/
def laneXnor (ins : Instr) (d : BitVec 7) : LaneFn :=
  wideOp ins d (fun a b _ => ~~~(a ^^^ b))

/-- xnor (R256). -/
def execXnor (sw : Bool) (d : BitVec 7) (a : BitVec 7) (b : Opnd) (s : State) : Host.Outcome State Fault Refusal :=
  runEach (.xnor sw d a b) (laneXnor (.xnor sw d a b) d) s

/-- not (R256), for one thread. -/
def laneNot (ins : Instr) (d : BitVec 7) : LaneFn :=
  wideOp ins d (fun _ b _ => ~~~b)

/-- not (R256). -/
def execNot (sw : Bool) (d : BitVec 7) (b : Opnd) (s : State) : Host.Outcome State Fault Refusal :=
  runEach (.not sw d b) (laneNot (.not sw d b) d) s

/-- mov (R256), for one thread. -/
def laneMov (ins : Instr) (d : BitVec 7) : LaneFn :=
  wideOp ins d (fun _ b _ => b)

/-- mov (R256). -/
def execMov (sw : Bool) (d : BitVec 7) (b : Opnd) (s : State) : Host.Outcome State Fault Refusal :=
  runEach (.mov sw d b) (laneMov (.mov sw d b) d) s

/-- shl (R257), for one thread. -/
def laneShl (ins : Instr) (w : W) (d : BitVec 7) : LaneFn :=
  shortOp ins d w.bits (fun a c _ => if w.bits ≤ c then 0 else a * 2 ^ c)

/-- shl (R257). -/
def execShl (sw : Bool) (w : W) (d : BitVec 7) (a : BitVec 7) (b : Opnd)
    (s : State) : Host.Outcome State Fault Refusal :=
  runEach (.shl sw w d a b) (laneShl (.shl sw w d a b) w d) s

/-- shr (R257), for one thread. -/
def laneShr (ins : Instr) (w : W) (d : BitVec 7) : LaneFn :=
  shortOp ins d w.bits (fun a c _ => if w.bits ≤ c then 0 else a / 2 ^ c)

/-- shr (R257). -/
def execShr (sw : Bool) (w : W) (d : BitVec 7) (a : BitVec 7) (b : Opnd)
    (s : State) : Host.Outcome State Fault Refusal :=
  runEach (.shr sw w d a b) (laneShr (.shr sw w d a b) w d) s

/-- sar (R257), for one thread. -/
def laneSar (ins : Instr) (w : W) (d : BitVec 7) : LaneFn :=
  shortOp ins d w.bits (fun a c _ => toBits w.bits (toSigned w.bits a / 2 ^ (min c w.bits)))

/-- sar (R257). -/
def execSar (sw : Bool) (w : W) (d : BitVec 7) (a : BitVec 7) (b : Opnd)
    (s : State) : Host.Outcome State Fault Refusal :=
  runEach (.sar sw w d a b) (laneSar (.sar sw w d a b) w d) s

/-- rol (R257), for one thread. -/
def laneRol (ins : Instr) (w : W) (d : BitVec 7) : LaneFn :=
  shortOp ins d w.bits (fun a c _ => a * 2 ^ (c % w.bits) + a / 2 ^ (w.bits - c % w.bits))

/-- rol (R257). -/
def execRol (sw : Bool) (w : W) (d : BitVec 7) (a : BitVec 7) (b : Opnd)
    (s : State) : Host.Outcome State Fault Refusal :=
  runEach (.rol sw w d a b) (laneRol (.rol sw w d a b) w d) s

/-- min (R254), for one thread. -/
def laneMin (ins : Instr) (t : IT) (d : BitVec 7) : LaneFn :=
  shortOp ins d t.bits (fun a b _ => binTo t (fun x y => if x ≤ y then x else y) a b)

/-- min (R254). -/
def execMin (sw : Bool) (t : IT) (d : BitVec 7) (a : BitVec 7) (b : Opnd)
    (s : State) : Host.Outcome State Fault Refusal :=
  runEach (.min sw t d a b) (laneMin (.min sw t d a b) t d) s

/-- max (R254), for one thread. -/
def laneMax (ins : Instr) (t : IT) (d : BitVec 7) : LaneFn :=
  shortOp ins d t.bits (fun a b _ => binTo t (fun x y => if x ≤ y then y else x) a b)

/-- max (R254). -/
def execMax (sw : Bool) (t : IT) (d : BitVec 7) (a : BitVec 7) (b : Opnd)
    (s : State) : Host.Outcome State Fault Refusal :=
  runEach (.max sw t d a b) (laneMax (.max sw t d a b) t d) s

/-! ### Compare, select, unary forms, conversion (R258 to R261) -/

/-- cmp (R258), for one thread. -/
def laneCmp (ins : Instr) (t : IT) (c : BitVec 3) (m : BitVec 3) : LaneFn :=
  fun e s =>
    .done (writeMask s ins e m.toNat (maskBits t.bits (fun j =>
      condHolds c (intOf t (elemAt t.bits e.opA j)) (intOf t (elemAt t.bits e.opB j)))))

/-- cmp (R258). -/
def execCmp (sw : Bool) (t : IT) (c : BitVec 3) (m : BitVec 3) (a : BitVec 7) (b : Opnd)
    (s : State) : Host.Outcome State Fault Refusal :=
  runEach (.cmp sw t c m a b) (laneCmp (.cmp sw t c m a b) t c m) s

/-- abs (R260), for one thread. -/
def laneAbs (ins : Instr) (d : BitVec 7) (t : IT) : LaneFn :=
  shortOp ins d t.bits (fun _ b _ => toBits t.bits (intOf t b).natAbs)

/-- abs (R260). -/
def execAbs (sw : Bool) (d : BitVec 7) (t : IT) (b : Opnd) (s : State) : Host.Outcome State Fault Refusal :=
  runEach (.abs sw d t b) (laneAbs (.abs sw d t b) d t) s

/-- neg (R260), for one thread. -/
def laneNeg (ins : Instr) (d : BitVec 7) (t : IT) : LaneFn :=
  shortOp ins d t.bits (fun _ b _ => 2 ^ t.bits - b)

/-- neg (R260). -/
def execNeg (sw : Bool) (d : BitVec 7) (t : IT) (b : Opnd) (s : State) : Host.Outcome State Fault Refusal :=
  runEach (.neg sw d t b) (laneNeg (.neg sw d t b) d t) s

/-- clz (R260), for one thread. -/
def laneClz (ins : Instr) (d : BitVec 7) (t : IT) : LaneFn :=
  shortOp ins d t.bits (fun _ b _ => leadingZeros t.bits b)

/-- clz (R260). -/
def execClz (sw : Bool) (d : BitVec 7) (t : IT) (b : Opnd) (s : State) : Host.Outcome State Fault Refusal :=
  runEach (.clz sw d t b) (laneClz (.clz sw d t b) d t) s

/-- popc (R260), for one thread. -/
def lanePopc (ins : Instr) (d : BitVec 7) (t : IT) : LaneFn :=
  shortOp ins d t.bits (fun _ b _ => popCount t.bits b)

/-- popc (R260). -/
def execPopc (sw : Bool) (d : BitVec 7) (t : IT) (b : Opnd) (s : State) : Host.Outcome State Fault Refusal :=
  runEach (.popc sw d t b) (lanePopc (.popc sw d t b) d t) s

/-- integer cvt (R261), for one thread. -/
def laneCvtInt (ins : Instr) (d : BitVec 7) (u : Bool) (y : IT) (z : IT) : LaneFn :=
  cvtIntOp ins d u y z

/-- integer cvt (R261). -/
def execCvtInt (sw : Bool) (d : BitVec 7) (u : Bool) (y : IT) (z : IT) (b : Opnd)
    (s : State) : Host.Outcome State Fault Refusal :=
  runEach (.cvtInt sw d u y z b) (laneCvtInt (.cvtInt sw d u y z b) d u y z) s

/-- sel (R259), for one thread. -/
def laneSel (ins : Instr) (m : BitVec 3) (d : BitVec 7) : LaneFn :=
  fun e s =>
    let k := (s.thread e.key).getM m.toNat
    .done (writeShort s ins e d.toNat (mergeMask 8 k false e.opB (elems 8 e.opA)))

/-- sel (R259). -/
def execSel (sw : Bool) (m : BitVec 3) (d : BitVec 7) (a : BitVec 7) (b : Opnd)
    (s : State) : Host.Outcome State Fault Refusal :=
  runEach (.sel sw m d a b) (laneSel (.sel sw m d a b) m d) s

/-! ### Bit fields (R262) -/

/-- bfe (R262), for one thread. -/
def laneBfe (ins : Instr) (d : BitVec 7) : LaneFn :=
  wideOp ins d (fun a b _ => extractField false a b)

/-- bfe (R262). -/
def execBfe (sw : Bool) (d : BitVec 7) (a : BitVec 7) (b : Opnd) (s : State) : Host.Outcome State Fault Refusal :=
  runEach (.bfe sw d a b) (laneBfe (.bfe sw d a b) d) s

/-- bfe.i (R262), for one thread. -/
def laneBfeI (ins : Instr) (d : BitVec 7) : LaneFn :=
  wideOp ins d (fun a b _ => extractField true a b)

/-- bfe.i (R262). -/
def execBfeI (sw : Bool) (d : BitVec 7) (a : BitVec 7) (b : Opnd) (s : State) : Host.Outcome State Fault Refusal :=
  runEach (.bfeI sw d a b) (laneBfeI (.bfeI sw d a b) d) s

/-- bfi (R262), for one thread. -/
def laneBfi (ins : Instr) (d : BitVec 7) : LaneFn :=
  wideOp ins d insertField

/-- bfi (R262). -/
def execBfi (sw : Bool) (d : BitVec 7) (a : BitVec 7) (b : Opnd) (s : State) : Host.Outcome State Fault Refusal :=
  runEach (.bfi sw d a b) (laneBfi (.bfi sw d a b) d) s

end Sys2Proof.Machine
end

