-- ==== Sys2Proof/Machine/Vector.lean ====
section
/-! DEFINITION. The floating and conversion forms (R291 to R303), ops 0x1C to 0x26. -/

namespace Sys2Proof.Machine

/-! ### The shape of a float form (R292) -/

/-- The results of the destination sub-elements, and the flags of those that the mask governs (R191, R289). -/
def floatResults (w : Nat) (m : BitVec 8) (f : Nat → FRes) : List Nat × Flags :=
  let rs := (List.range (64 / w)).map f
  (rs.map (fun r => r.bits), (rs.mapIdx (fun j r => if governed m w j then r.flags else 0)).foldl (· ||| ·) 0)

/-- A short float form whose destination sub-elements have `w` bits. -/
def floatOp (i : Instr) (d : BitVec 7) (w : Nat) (f : Bool → Env → Nat → FRes) : LaneFn := fun e s =>
  let t := s.thread e.key
  let (m, z) := maskOf e
  let (new, fl) := floatResults w m (f (ftzOf t.fpctl) e)
  withFlags s e fl (fun s => writeShort s i e d.toNat (mergeMask w m z e.opC new))

/-- A float form that rounds: its mode is PRE's or its own (R280). -/
def roundedOp (i : Instr) (d : BitVec 7) (w : Nat) (own : RMode) (f : RMode → Bool → Env → Nat → FRes) : LaneFn :=
  fun e s => floatOp i d w (f (roundOf own (s.thread e.key).fpctl e.hints)) e s

/-- A source sub-element (R274). -/
def srcA (f : FT) (ftz : Bool) (e : Env) (j : Nat) : FVal × Flags := f.source ftz (elemAt f.bits e.opA j)
def srcB (f : FT) (ftz : Bool) (e : Env) (j : Nat) : FVal × Flags := f.source ftz (elemAt f.bits e.opB j)
def srcD (f : FT) (ftz : Bool) (e : Env) (j : Nat) : FVal × Flags := f.source ftz (elemAt f.bits e.opC j)

/-- The sum of two values in one rounding (R285). -/
def addRes (f : FT) (mode : RMode) (ftz : Bool) (a b : FVal) : FRes := (sumTerms [.val a, .val b]).round f mode ftz

/-- add and sub (R293). -/
def addElem (f : FT) (negate : Bool) (mode : RMode) (ftz : Bool) (e : Env) (j : Nat) : FRes :=
  let (a, x) := srcA f ftz e j
  let (b, y) := srcB f ftz e j
  (addRes f mode ftz a (if negate then b.neg else b)).more (x ||| y)

/-- A product rounded once (R293). -/
def mulElem (f : FT) (mode : RMode) (ftz : Bool) (e : Env) (j : Nat) : FRes :=
  let (a, x) := srcA f ftz e j
  let (b, y) := srcB f ftz e j
  let r : FRes := match FVal.mul a b with
    | .invalid => ⟨f.qnan, flagNV⟩
    | .val v => f.deliver mode ftz v
  r.more (x ||| y)

/-- fma and fms (R293). -/
def fmaElem (f : FT) (negate : Bool) (mode : RMode) (ftz : Bool) (e : Env) (j : Nat) : FRes :=
  let (a, x) := srcA f ftz e j
  let (b, y) := srcB f ftz e j
  let (d, z) := srcD f ftz e j
  ((sumTerms [FVal.mul a b, .val (if negate then d.neg else d)]).round f mode ftz).more (x ||| y ||| z)

/-- scale (R293). A count past every format's range acts as the end of the range. -/
def scaleElem (f : FT) (mode : RMode) (ftz : Bool) (e : Env) (j : Nat) : FRes :=
  let (a, x) := srcA f ftz e j
  let n := max (-1000) (min 1000 (toSigned f.bits (elemAt f.bits e.opB j)))
  let r := match a with
    | .fin neg m g => f.round mode ftz neg m (g + n)
    | v => f.deliver mode ftz v
  r.more x

/-! ### Minimum, maximum, signs, classes, compares (R294 to R297) -/

/-- The smaller or the larger of two values that are no NaN, −0 below +0 (R294). -/
def pickVal (larger : Bool) (a b : FVal) : FVal := if FVal.le a b == larger then b else a

/-- minimum and maximum, and with `num` minimumNumber and maximumNumber (R294). -/
def minmaxVal (larger num : Bool) (a b : FVal) : FVal :=
  match a.isNan, b.isNan with
  | false, false => pickVal larger a b
  | true, false => if num then b else .nan false
  | false, true => if num then a else .nan false
  | true, true => .nan false

/-- The flags of NaN operands: a signalling one raises NV (R273). -/
def snanFlags (a b : FVal) : Flags := if a.isSnan || b.isSnan then flagNV else 0

def minmaxElem (f : FT) (larger num : Bool) (ftz : Bool) (e : Env) (j : Nat) : FRes :=
  let (a, x) := srcA f ftz e j
  let (b, y) := srcB f ftz e j
  (f.deliver .rne ftz (minmaxVal larger num a b)).more (x ||| y ||| snanFlags a b)

/-- class (R296). -/
def classBits (f : FT) (x : Nat) : Nat :=
  match f.decode x with
  | .nan true => 2 ^ 0
  | .nan false => 2 ^ 1
  | .inf true => 2 ^ 2
  | .inf false => 2 ^ 9
  | .fin neg m _ =>
    if m = 0 then if neg then 2 ^ 5 else 2 ^ 6
    else if f.subnormal x then if neg then 2 ^ 4 else 2 ^ 7
    else if neg then 2 ^ 3 else 2 ^ 8

/-- A float compare of two values: the test and its flags (R297). -/
def cmpVal (c : BitVec 3) (a b : FVal) : Bool × Flags :=
  let un := a.isNan || b.isNan
  let ordered := c = 2#3 || c = 3#3 || c = 4#3 || c = 5#3
  let nv : Flags := if a.isSnan || b.isSnan || (ordered && un) then flagNV else 0
  let r :=
    if c = 0#3 then !un && FVal.eq a b else if c = 1#3 then un || !FVal.eq a b
    else if c = 2#3 then !un && FVal.lt a b else if c = 3#3 then !un && !FVal.lt b a
    else if c = 4#3 then !un && FVal.lt b a else if c = 5#3 then !un && !FVal.lt a b
    else if c = 6#3 then un else !un
  (r, nv)

/-- The float compare of a bundle's thread (R297). -/
def cmpLane (i : Instr) (f : FT) (c m : BitVec 3) : LaneFn := fun e s =>
  let ftz := ftzOf (s.thread e.key).fpctl
  let one (j : Nat) : Bool × Flags :=
    let (a, x) := srcA f ftz e j
    let (b, y) := srcB f ftz e j
    let (r, fl) := cmpVal c a b
    (r, fl ||| x ||| y)
  let fl := ((List.range (64 / f.bits)).map (fun j => (one j).2)).foldl (· ||| ·) 0
  withFlags s e fl (fun s => writeMask s i e m.toNat (maskBits f.bits (fun j => (one j).1)))

/-! ### Dot products and reductions across sub-elements (R298, R299) -/

/-- One exact sum of products from sub-element `k` on, `n` of them, and the addend `j` (R298). -/
def dotElem (f : FT) (n k : Nat) (mode : RMode) (ftz : Bool) (e : Env) (j : Nat) : FRes :=
  let ps := (List.range n).map (fun q => (srcA f ftz e (k + q), srcB f ftz e (k + q)))
  let (d, z) := srcD .f32 ftz e j
  let fl := ps.foldl (fun fl p => fl ||| p.1.2 ||| p.2.2) z
  ((sumTerms (ps.map (fun p => FVal.mul p.1.1 p.2.1) ++ [.val d])).round .f32 mode ftz).more fl

/-- One level of the tree of R286: neighbours combine. -/
def treeLevel {α : Type} (f : α → α → α) : List α → List α
  | a :: b :: r => f a b :: treeLevel f r
  | r => r

/-- The tree over a list, `n` levels. -/
def treeUp {α : Type} (f : α → α → α) : Nat → List α → List α
  | 0, r => r
  | n + 1, r => treeUp f n (treeLevel f r)

/-- A reduction across the sub-elements of b: the root in sub-element 0, +0 above (R299). -/
def acrossElem (f : FT) (node : FRes → FRes → FRes) (ftz : Bool) (e : Env) (j : Nat) : FRes :=
  if j = 0 then
    let leaves : List FRes := (List.range (64 / f.bits)).map (fun k =>
      let x := elemAt f.bits e.opB k
      if ftz && f.subnormal x then ⟨f.zeroBits (decide (2 ^ (f.bits - 1) ≤ x)), flagDF⟩ else ⟨x, 0⟩)
    ((treeUp node 2 leaves).head?).getD ⟨0, 0⟩
  else ⟨0, 0⟩

def sumNode (f : FT) (mode : RMode) (ftz : Bool) (a b : FRes) : FRes :=
  (addRes f mode ftz (f.decode a.bits) (f.decode b.bits)).more (a.flags ||| b.flags)
def maxNode (f : FT) (a b : FRes) : FRes :=
  let x := f.decode a.bits
  let y := f.decode b.bits
  (f.deliver .rne false (minmaxVal true false x y)).more (a.flags ||| b.flags ||| snanFlags x y)

/-! ### Special functions (R300, R301) -/

/-- A special function of each sub-element; the result is long. -/
def specialLane (i : Instr) (fn : SpecialFn) (f : FT) : LaneFn := fun e s =>
  let t := s.thread e.key
  let (m, z) := maskOf e
  let one (j : Nat) : FRes := if governed m f.bits j then specialBits fn f (ftzOf t.fpctl) (elemAt f.bits e.opB j) else ⟨0, 0⟩
  let (new, fl) := floatResults f.bits m one
  .done (longResult s i e (mergeMask f.bits m z e.opC new) fl)

/-! ### Conversions (R302, R303) -/

/-- A conversion of sub-elements of `ws` bits into sub-elements of `wd` bits; those past the last source are 0. -/
def cvtElem (ws wd : Nat) (one : Nat → FRes) (e : Env) (j : Nat) : FRes :=
  if j < 64 / max ws wd then one (elemAt ws e.opB j) else ⟨0, 0⟩

/-- A float source converted by `g`. -/
def fromFloat (f : FT) (ftz : Bool) (g : FVal → FRes) (x : Nat) : FRes :=
  let (v, fl) := f.source ftz x
  (g v).more fl

/-- Float of type `z` to float of type `y` (R303). -/
def cvtFFElem (y z : FT) (mode : RMode) (ftz : Bool) (e : Env) (j : Nat) : FRes :=
  cvtElem z.bits y.bits (fromFloat z ftz (fun v => (y.deliver mode ftz v))) e j

/-- Float to binary8 (R282, R303). -/
def toTinyElem (f : FT) (code : BitVec 5) (sat : Bool) (mode : RMode) (ftz : Bool) (e : Env) (j : Nat) : FRes :=
  cvtElem f.bits 8 (fromFloat f ftz (fun v => (Tiny.ofCode 8 code).convert mode sat v)) e j

/-- Binary8 to float (R283, R303). -/
def fromTinyElem (f : FT) (code : BitVec 5) (mode : RMode) (ftz : Bool) (e : Env) (j : Nat) : FRes :=
  cvtElem 8 f.bits (fun x => f.deliver mode ftz ((Tiny.ofCode 8 code).decode x)) e j

/-- Bits of the integer side of a conversion (R203). -/
def intSide (h : Bool) : Nat := if h then 32 else 8

/-- Float and integer (R275, R303). -/
def cvtFIElem (toFloat : Bool) (f : FT) (h : Bool) (mode : RMode) (ftz : Bool) (e : Env) (j : Nat) : FRes :=
  let w := intSide h
  if toFloat then cvtElem w f.bits (fun x => f.deliver mode ftz (intVal (toSigned w x))) e j
  else cvtElem f.bits w (fromFloat f ftz (toInteger w mode)) e j

/-- float add (R293), for one thread. -/
def laneAddF (ins : Instr) (f : FT) (d : BitVec 7) : LaneFn :=
  roundedOp ins d f.bits .rne (addElem f false)

/-- float add (R293). -/
def execAddF (sw : Bool) (f : FT) (d : BitVec 7) (a : BitVec 7) (b : Opnd)
    (s : State) : Host.Outcome State Fault Refusal :=
  runEach (.addF sw f d a b) (laneAddF (.addF sw f d a b) f d) s

/-- float sub (R293), for one thread. -/
def laneSubF (ins : Instr) (f : FT) (d : BitVec 7) : LaneFn :=
  roundedOp ins d f.bits .rne (addElem f true)

/-- float sub (R293). -/
def execSubF (sw : Bool) (f : FT) (d : BitVec 7) (a : BitVec 7) (b : Opnd)
    (s : State) : Host.Outcome State Fault Refusal :=
  runEach (.subF sw f d a b) (laneSubF (.subF sw f d a b) f d) s

/-- float mul (R293), for one thread. -/
def laneMulF (ins : Instr) (f : FT) (d : BitVec 7) : LaneFn :=
  roundedOp ins d f.bits .rne (mulElem f)

/-- float mul (R293). -/
def execMulF (sw : Bool) (f : FT) (d : BitVec 7) (a : BitVec 7) (b : Opnd)
    (s : State) : Host.Outcome State Fault Refusal :=
  runEach (.mulF sw f d a b) (laneMulF (.mulF sw f d a b) f d) s

/-- scale (R293), for one thread. -/
def laneScale (ins : Instr) (f : FT) (d : BitVec 7) : LaneFn :=
  roundedOp ins d f.bits .rne (scaleElem f)

/-- scale (R293). -/
def execScale (sw : Bool) (f : FT) (d : BitVec 7) (a : BitVec 7) (b : Opnd)
    (s : State) : Host.Outcome State Fault Refusal :=
  runEach (.scale sw f d a b) (laneScale (.scale sw f d a b) f d) s

/-- fma (R293), for one thread. -/
def laneFma (ins : Instr) (f : FT) (d : BitVec 7) : LaneFn :=
  roundedOp ins d f.bits .rne (fmaElem f false)

/-- fma (R293). -/
def execFma (sw : Bool) (f : FT) (d : BitVec 7) (a : BitVec 7) (b : Opnd)
    (s : State) : Host.Outcome State Fault Refusal :=
  runEach (.fma sw f d a b) (laneFma (.fma sw f d a b) f d) s

/-- fms (R293), for one thread. -/
def laneFms (ins : Instr) (f : FT) (d : BitVec 7) : LaneFn :=
  roundedOp ins d f.bits .rne (fmaElem f true)

/-- fms (R293). -/
def execFms (sw : Bool) (f : FT) (d : BitVec 7) (a : BitVec 7) (b : Opnd)
    (s : State) : Host.Outcome State Fault Refusal :=
  runEach (.fms sw f d a b) (laneFms (.fms sw f d a b) f d) s

/-- float min (R294), for one thread. -/
def laneMinF (ins : Instr) (f : FT) (d : BitVec 7) : LaneFn :=
  floatOp ins d f.bits (minmaxElem f false false)

/-- float min (R294). -/
def execMinF (sw : Bool) (f : FT) (d : BitVec 7) (a : BitVec 7) (b : Opnd)
    (s : State) : Host.Outcome State Fault Refusal :=
  runEach (.minF sw f d a b) (laneMinF (.minF sw f d a b) f d) s

/-- minnum (R294), for one thread. -/
def laneMinnum (ins : Instr) (f : FT) (d : BitVec 7) : LaneFn :=
  floatOp ins d f.bits (minmaxElem f false true)

/-- minnum (R294). -/
def execMinnum (sw : Bool) (f : FT) (d : BitVec 7) (a : BitVec 7) (b : Opnd)
    (s : State) : Host.Outcome State Fault Refusal :=
  runEach (.minnum sw f d a b) (laneMinnum (.minnum sw f d a b) f d) s

/-- float max (R294), for one thread. -/
def laneMaxF (ins : Instr) (f : FT) (d : BitVec 7) : LaneFn :=
  floatOp ins d f.bits (minmaxElem f true false)

/-- float max (R294). -/
def execMaxF (sw : Bool) (f : FT) (d : BitVec 7) (a : BitVec 7) (b : Opnd)
    (s : State) : Host.Outcome State Fault Refusal :=
  runEach (.maxF sw f d a b) (laneMaxF (.maxF sw f d a b) f d) s

/-- maxnum (R294), for one thread. -/
def laneMaxnum (ins : Instr) (f : FT) (d : BitVec 7) : LaneFn :=
  floatOp ins d f.bits (minmaxElem f true true)

/-- maxnum (R294). -/
def execMaxnum (sw : Bool) (f : FT) (d : BitVec 7) (a : BitVec 7) (b : Opnd)
    (s : State) : Host.Outcome State Fault Refusal :=
  runEach (.maxnum sw f d a b) (laneMaxnum (.maxnum sw f d a b) f d) s

/-- float neg (R295), for one thread. -/
def laneNegF (ins : Instr) (f : FT) (d : BitVec 7) : LaneFn :=
  shortOp ins d f.bits (fun _ x _ => (x + 2 ^ (f.bits - 1)) % 2 ^ f.bits)

/-- float neg (R295). -/
def execNegF (sw : Bool) (f : FT) (d : BitVec 7) (b : Opnd) (s : State) : Host.Outcome State Fault Refusal :=
  runEach (.negF sw f d b) (laneNegF (.negF sw f d b) f d) s

/-- float abs (R295), for one thread. -/
def laneAbsF (ins : Instr) (f : FT) (d : BitVec 7) : LaneFn :=
  shortOp ins d f.bits (fun _ x _ => x % 2 ^ (f.bits - 1))

/-- float abs (R295). -/
def execAbsF (sw : Bool) (f : FT) (d : BitVec 7) (b : Opnd) (s : State) : Host.Outcome State Fault Refusal :=
  runEach (.absF sw f d b) (laneAbsF (.absF sw f d b) f d) s

/-- class (R296), for one thread. -/
def laneFclass (ins : Instr) (f : FT) (d : BitVec 7) : LaneFn :=
  shortOp ins d f.bits (fun _ x _ => classBits f x)

/-- class (R296). -/
def execFclass (sw : Bool) (f : FT) (d : BitVec 7) (b : Opnd) (s : State) : Host.Outcome State Fault Refusal :=
  runEach (.fclass sw f d b) (laneFclass (.fclass sw f d b) f d) s

/-- copysign (R295), for one thread. -/
def laneCopysign (ins : Instr) (f : FT) (d : BitVec 7) : LaneFn :=
  shortOp ins d f.bits (fun x y _ => x % 2 ^ (f.bits - 1) + y / 2 ^ (f.bits - 1) * 2 ^ (f.bits - 1))

/-- copysign (R295). -/
def execCopysign (sw : Bool) (f : FT) (d : BitVec 7) (a : BitVec 7) (b : Opnd)
    (s : State) : Host.Outcome State Fault Refusal :=
  runEach (.copysign sw f d a b) (laneCopysign (.copysign sw f d a b) f d) s

/-- float cmp (R297), for one thread. -/
def laneCmpF (ins : Instr) (f : FT) (c : BitVec 3) (m : BitVec 3) : LaneFn :=
  cmpLane ins f c m

/-- float cmp (R297). -/
def execCmpF (sw : Bool) (f : FT) (c : BitVec 3) (m : BitVec 3) (a : BitVec 7) (b : Opnd)
    (s : State) : Host.Outcome State Fault Refusal :=
  runEach (.cmpF sw f c m a b) (laneCmpF (.cmpF sw f c m a b) f c m) s

/-- fdot2 (R298), for one thread. -/
def laneFdot2 (ins : Instr) (f : FT) (d : BitVec 7) : LaneFn :=
  roundedOp ins d 32 .rne (fun mode ftz e j => dotElem f 2 (2 * j) mode ftz e j)

/-- fdot2 (R298). -/
def execFdot2 (sw : Bool) (f : FT) (d : BitVec 7) (a : BitVec 7) (b : Opnd)
    (s : State) : Host.Outcome State Fault Refusal :=
  runEach (.fdot2 sw f d a b) (laneFdot2 (.fdot2 sw f d a b) f d) s

/-- fdot4 (R298), for one thread. -/
def laneFdot4 (ins : Instr) (f : FT) (d : BitVec 7) : LaneFn :=
  roundedOp ins d 32 .rne (fun mode ftz e j => if j = 0 then dotElem f 4 0 mode ftz e 0 else ⟨0, 0⟩)

/-- fdot4 (R298). -/
def execFdot4 (sw : Bool) (f : FT) (d : BitVec 7) (a : BitVec 7) (b : Opnd)
    (s : State) : Host.Outcome State Fault Refusal :=
  runEach (.fdot4 sw f d a b) (laneFdot4 (.fdot4 sw f d a b) f d) s

/-- rsum (R299), for one thread. -/
def laneRsum (ins : Instr) (f : FT) (d : BitVec 7) : LaneFn :=
  roundedOp ins d f.bits .rne (fun mode ftz => acrossElem f (sumNode f mode ftz) ftz)

/-- rsum (R299). -/
def execRsum (sw : Bool) (f : FT) (d : BitVec 7) (b : Opnd) (s : State) : Host.Outcome State Fault Refusal :=
  runEach (.rsum sw f d b) (laneRsum (.rsum sw f d b) f d) s

/-- rmax (R299), for one thread. -/
def laneRmax (ins : Instr) (f : FT) (d : BitVec 7) : LaneFn :=
  roundedOp ins d f.bits .rne (fun _ ftz => acrossElem f (maxNode f) ftz)

/-- rmax (R299). -/
def execRmax (sw : Bool) (f : FT) (d : BitVec 7) (b : Opnd) (s : State) : Host.Outcome State Fault Refusal :=
  runEach (.rmax sw f d b) (laneRmax (.rmax sw f d b) f d) s

/-- rcp (R300, R301), for one thread. -/
def laneRcp (ins : Instr) (f : FT) : LaneFn :=
  specialLane ins .rcp f

/-- rcp (R300, R301). -/
def execRcp (sw : Bool) (d : BitVec 7) (f : FT) (b : Opnd) (s : State) : Host.Outcome State Fault Refusal :=
  runEach (.rcp sw d f b) (laneRcp (.rcp sw d f b) f) s

/-- rsqrt (R300, R301), for one thread. -/
def laneRsqrt (ins : Instr) (f : FT) : LaneFn :=
  specialLane ins .rsqrt f

/-- rsqrt (R300, R301). -/
def execRsqrt (sw : Bool) (d : BitVec 7) (f : FT) (b : Opnd) (s : State) : Host.Outcome State Fault Refusal :=
  runEach (.rsqrt sw d f b) (laneRsqrt (.rsqrt sw d f b) f) s

/-- sqrt (R300, R301), for one thread. -/
def laneSqrt (ins : Instr) (f : FT) : LaneFn :=
  specialLane ins .sqrt f

/-- sqrt (R300, R301). -/
def execSqrt (sw : Bool) (d : BitVec 7) (f : FT) (b : Opnd) (s : State) : Host.Outcome State Fault Refusal :=
  runEach (.sqrt sw d f b) (laneSqrt (.sqrt sw d f b) f) s

/-- exp2 (R300, R301), for one thread. -/
def laneExp2 (ins : Instr) (f : FT) : LaneFn :=
  specialLane ins .exp2 f

/-- exp2 (R300, R301). -/
def execExp2 (sw : Bool) (d : BitVec 7) (f : FT) (b : Opnd) (s : State) : Host.Outcome State Fault Refusal :=
  runEach (.exp2 sw d f b) (laneExp2 (.exp2 sw d f b) f) s

/-- log2 (R300, R301), for one thread. -/
def laneLog2 (ins : Instr) (f : FT) : LaneFn :=
  specialLane ins .log2 f

/-- log2 (R300, R301). -/
def execLog2 (sw : Bool) (d : BitVec 7) (f : FT) (b : Opnd) (s : State) : Host.Outcome State Fault Refusal :=
  runEach (.log2 sw d f b) (laneLog2 (.log2 sw d f b) f) s

/-- tanh (R300, R301), for one thread. -/
def laneTanh (ins : Instr) (f : FT) : LaneFn :=
  specialLane ins .tanh f

/-- tanh (R300, R301). -/
def execTanh (sw : Bool) (d : BitVec 7) (f : FT) (b : Opnd) (s : State) : Host.Outcome State Fault Refusal :=
  runEach (.tanh sw d f b) (laneTanh (.tanh sw d f b) f) s

/-- cvt between float types (R303), for one thread. -/
def laneCvtFloatFloat (ins : Instr) (d : BitVec 7) (y : FT) (z : FT) : LaneFn :=
  roundedOp ins d z.bits .rne (cvtFFElem z y)

/-- cvt between float types (R303). -/
def execCvtFloatFloat (sw : Bool) (d : BitVec 7) (y : FT) (z : FT) (b : Opnd)
    (s : State) : Host.Outcome State Fault Refusal :=
  runEach (.cvtFloatFloat sw d y z b) (laneCvtFloatFloat (.cvtFloatFloat sw d y z b) d y z) s

/-- cvt from .f32 to binary8 (R282, R303), for one thread. -/
def laneCvtF32Binary8 (ins : Instr) (d : BitVec 7) (u : Bool) (f : BitVec 5) : LaneFn :=
  roundedOp ins d 8 .rne (toTinyElem .f32 f u)

/-- cvt from .f32 to binary8 (R282, R303). -/
def execCvtF32Binary8 (sw : Bool) (d : BitVec 7) (u : Bool) (f : BitVec 5) (b : Opnd)
    (s : State) : Host.Outcome State Fault Refusal :=
  runEach (.cvtF32Binary8 sw d u f b) (laneCvtF32Binary8 (.cvtF32Binary8 sw d u f b) d u f) s

/-- cvt from binary8 to .f32 (R283, R303), for one thread. -/
def laneCvtBinary8F32 (ins : Instr) (d : BitVec 7) (f : BitVec 5) : LaneFn :=
  roundedOp ins d (FT.bits .f32) .rne (fromTinyElem .f32 f)

/-- cvt from binary8 to .f32 (R283, R303). -/
def execCvtBinary8F32 (sw : Bool) (d : BitVec 7) (f : BitVec 5) (b : Opnd)
    (s : State) : Host.Outcome State Fault Refusal :=
  runEach (.cvtBinary8F32 sw d f b) (laneCvtBinary8F32 (.cvtBinary8F32 sw d f b) d f) s

/-- cvt from .f16 to binary8 (R282, R303), for one thread. -/
def laneCvtF16Binary8 (ins : Instr) (d : BitVec 7) (u : Bool) (f : BitVec 5) : LaneFn :=
  roundedOp ins d 8 .rne (toTinyElem .f16 f u)

/-- cvt from .f16 to binary8 (R282, R303). -/
def execCvtF16Binary8 (sw : Bool) (d : BitVec 7) (u : Bool) (f : BitVec 5) (b : Opnd)
    (s : State) : Host.Outcome State Fault Refusal :=
  runEach (.cvtF16Binary8 sw d u f b) (laneCvtF16Binary8 (.cvtF16Binary8 sw d u f b) d u f) s

/-- cvt from binary8 to .f16 (R283, R303), for one thread. -/
def laneCvtBinary8F16 (ins : Instr) (d : BitVec 7) (f : BitVec 5) : LaneFn :=
  roundedOp ins d (FT.bits .f16) .rne (fromTinyElem .f16 f)

/-- cvt from binary8 to .f16 (R283, R303). -/
def execCvtBinary8F16 (sw : Bool) (d : BitVec 7) (f : BitVec 5) (b : Opnd)
    (s : State) : Host.Outcome State Fault Refusal :=
  runEach (.cvtBinary8F16 sw d f b) (laneCvtBinary8F16 (.cvtBinary8F16 sw d f b) d f) s

/-- cvt from .bf16 to binary8 (R282, R303), for one thread. -/
def laneCvtBf16Binary8 (ins : Instr) (d : BitVec 7) (u : Bool) (f : BitVec 5) : LaneFn :=
  roundedOp ins d 8 .rne (toTinyElem .bf16 f u)

/-- cvt from .bf16 to binary8 (R282, R303). -/
def execCvtBf16Binary8 (sw : Bool) (d : BitVec 7) (u : Bool) (f : BitVec 5) (b : Opnd)
    (s : State) : Host.Outcome State Fault Refusal :=
  runEach (.cvtBf16Binary8 sw d u f b) (laneCvtBf16Binary8 (.cvtBf16Binary8 sw d u f b) d u f) s

/-- cvt from binary8 to .bf16 (R283, R303), for one thread. -/
def laneCvtBinary8Bf16 (ins : Instr) (d : BitVec 7) (f : BitVec 5) : LaneFn :=
  roundedOp ins d (FT.bits .bf16) .rne (fromTinyElem .bf16 f)

/-- cvt from binary8 to .bf16 (R283, R303). -/
def execCvtBinary8Bf16 (sw : Bool) (d : BitVec 7) (f : BitVec 5) (b : Opnd)
    (s : State) : Host.Outcome State Fault Refusal :=
  runEach (.cvtBinary8Bf16 sw d f b) (laneCvtBinary8Bf16 (.cvtBinary8Bf16 sw d f b) d f) s

/-- cvt between a float type and INT8 or INT32 (R275, R303), for one thread. -/
def laneCvtFloatInteger (ins : Instr) (d : BitVec 7) (y : Bool) (g : FT) (h : Bool) : LaneFn :=
  roundedOp ins d (if y then g.bits else intSide h) (if y then .rne else .rtz) (cvtFIElem y g h)

/-- cvt between a float type and INT8 or INT32 (R275, R303). -/
def execCvtFloatInteger (sw : Bool) (d : BitVec 7) (y : Bool) (g : FT) (h : Bool) (b : Opnd)
    (s : State) : Host.Outcome State Fault Refusal :=
  runEach (.cvtFloatInteger sw d y g h b) (laneCvtFloatInteger (.cvtFloatInteger sw d y g h b) d y g h) s

end Sys2Proof.Machine
end

