-- ==== Sys2Proof/Machine/Collective.lean ====
section
/-! DEFINITION. The rendezvous collectives (R170, R171, R265 to R271, R304, R305), ops 0x18 to 0x1B and 0x27. -/

namespace Sys2Proof.Machine

/-! ### Members (R265, R266) -/

/-- A member that has arrived: its home lane and what it captured. -/
structure Member where
  lane : Nat
  env : Env
  deriving DecidableEq, Repr

/-- Whether a home lane is named by a mask. -/
def named (mask : BitVec 32) (l : Nat) : Bool := mask.getLsbD l

/-- A present member of a home lane. -/
def presentAt (ms : List Member) (l : Nat) : Option Member := ms.find? (fun m => m.lane == l)

/-- The present mask. -/
def presentMask (ms : List Member) : Nat := packNat 1 ((List.range 32).map (fun l => if (presentAt ms l).isSome then 1 else 0))

/-- Bits of lanes that pass a test. -/
def laneBits (p : Nat → Bool) : Nat := packNat 1 ((List.range 32).map (fun l => if p l then 1 else 0))

/-- A word with the present mask above (R266). -/
def withPresent (ms : List Member) (x : Nat) : Word := BitVec.ofNat 64 (presentMask ms * 2 ^ 32 + x)

/-! ### shuf, vote, elect, match (R267, R268) -/

/-- shuf (R267). -/
def shufResult (w : Nat) (ms : List Member) (self : Member) : Word :=
  let k := Nat.log2 (64 / w)
  pack w ((List.range (64 / w)).map (fun i =>
    let s := elemAt w self.env.opB i
    match presentAt ms (s % 32) with
    | some m => elemAt w m.env.opA (s / 32 % 2 ^ k)
    | none => 0))

def predicate (m : Member) : Bool := bitAt m.env.opB 0

/-- vote.any (R268). -/
def voteAnyResult (ms : List Member) : Word := withPresent ms (if ms.any predicate then 1 else 0)
/-- vote.all (R268): every named lane is present and its predicate 1. -/
def voteAllResult (mask : BitVec 32) (ms : List Member) : Word :=
  withPresent ms (if (List.range 32).all (fun l => !named mask l || (match presentAt ms l with
    | some m => predicate m
    | none => false)) then 1 else 0)
/-- vote.ballot (R268). -/
def voteBallotResult (ms : List Member) : Word :=
  withPresent ms (laneBits (fun l => match presentAt ms l with | some m => predicate m | none => false))
/-- elect (R268). -/
def electResult (ms : List Member) (self : Member) : Word :=
  withPresent ms (if ms.all (fun m => decide (self.lane ≤ m.lane)) then 1 else 0)
/-- match (R268). -/
def matchResult (ms : List Member) (self : Member) : Word :=
  withPresent ms (laneBits (fun l => match presentAt ms l with | some m => m.env.opB == self.env.opB | none => false))

/-! ### redux and scan (R269, R270) -/

/-- The float type of an element code from 8 up (R220). -/
def floatCode (e : BitVec 4) : FT := if e = 8#4 then .f32 else if e = 9#4 then .f16 else .bf16

/-- The integer type of an element code below 8. -/
def intCode (e : BitVec 4) : IT := IT.ofBits (e.extractLsb' 0 3)

/-- The identity of an integer operation (R269). -/
def intIdentity (o : BitVec 3) (t : IT) : Nat :=
  if o = 2#3 then toBits t.bits (clampTo t (2 ^ 64))
  else if o = 3#3 then toBits t.bits (clampTo t (-(2 ^ 64)))
  else if o = 4#3 then 2 ^ t.bits - 1 else 0

/-- An integer operation over a list of `w`-bit terms: sat is one exact sum, saturated once (R220, R270). -/
def intReduce (o : BitVec 3) (t : IT) (xs : List Nat) : Nat :=
  let w := t.bits
  if o = 0#3 then xs.foldl (· + ·) 0 % 2 ^ w
  else if o = 1#3 then toBits w (clampTo t ((xs.map (intOf t)).foldl (· + ·) 0))
  else if o = 2#3 then xs.foldl (fun a b => if intOf t a ≤ intOf t b then a else b) (intIdentity o t)
  else if o = 3#3 then xs.foldl (fun a b => if intOf t a ≤ intOf t b then b else a) (intIdentity o t)
  else if o = 4#3 then xs.foldl (· &&& ·) (2 ^ w - 1)
  else if o = 5#3 then xs.foldl (· ||| ·) 0
  else xs.foldl (· ^^^ ·) 0

/-- The identity of a float operation (R269). -/
def floatIdentity (o : BitVec 3) (f : FT) : Nat :=
  if o = 0#3 then f.zeroBits true else if o = 2#3 then f.infBits false else f.infBits true

/-- A contribution as a node reads it (R274). -/
def leafRes (f : FT) (ftz : Bool) (x : Nat) : FRes :=
  if ftz && f.subnormal x then ⟨f.zeroBits (decide (2 ^ (f.bits - 1) ≤ x)), flagDF⟩ else ⟨x, 0⟩

/-- A node of a float reduction (R270). -/
def floatNode (o : BitVec 3) (f : FT) (ftz : Bool) (a b : FRes) : FRes :=
  if o = 0#3 then sumNode f .rne ftz a b
  else
    let x := f.decode a.bits
    let y := f.decode b.bits
    (f.deliver .rne false (minmaxVal (o == 3#3) false x y)).more (a.flags ||| b.flags ||| snanFlags x y)

/-- What home lane `l` contributes to sub-element `i`: its value, 0 of an exited member, the identity of a lane that is
no member (R266). -/
def contribution (w : Nat) (mask : BitVec 32) (ms : List Member) (identity i l : Nat) : Nat :=
  match presentAt ms l with
  | some m => elemAt w m.env.opB i
  | none => if named mask l then 0 else identity

/-- The result of one sub-element of redux (R270). -/
def reduxElem (o : BitVec 3) (e : BitVec 4) (mask : BitVec 32) (ms : List Member) (ftz : Bool) (i : Nat) : FRes :=
  if e.toNat < 8 then
    let t := intCode e
    ⟨intReduce o t ((List.range 32).map (contribution t.bits mask ms (intIdentity o t) i)), 0⟩
  else
    let f := floatCode e
    let leaves := (List.range 32).map (fun l => leafRes f ftz (contribution f.bits mask ms (floatIdentity o f) i l))
    ((treeUp (floatNode o f ftz) 5 leaves).head?).getD ⟨0, 0⟩

/-- The result of one sub-element of a scan for the member at home lane `last`: the prefix over the members, exited ones
with 0, up to it, or before it (R266, R270). -/
def scanElem (o : BitVec 3) (e : BitVec 4) (excl : Bool) (mask : BitVec 32) (ms : List Member) (ftz : Bool)
    (last i : Nat) : FRes :=
  let lanes := (List.range 32).filter (fun l => named mask l && (if excl then decide (l < last) else decide (l ≤ last)))
  if e.toNat < 8 then
    let t := intCode e
    if lanes.isEmpty then ⟨intIdentity o t, 0⟩
    else ⟨intReduce o t (lanes.map (contribution t.bits mask ms 0 i)), 0⟩
  else
    let f := floatCode e
    lanes.foldl (fun acc l => floatNode o f ftz acc (leafRes f ftz (contribution f.bits mask ms 0 i l)))
      ⟨floatIdentity o f, 0⟩

/-- Every sub-element's result, and the flags of all. -/
def packResults (w : Nat) (one : Nat → FRes) : Word × Flags :=
  let rs := (List.range (64 / w)).map one
  (pack w (rs.map (fun r => r.bits)), rs.foldl (fun fl r => fl ||| r.flags) 0)

def reduxResult (o : BitVec 3) (e : BitVec 4) (mask : BitVec 32) (ms : List Member) (ftz : Bool) : Word × Flags :=
  packResults (elemOfCode e).bits (reduxElem o e mask ms ftz)
def scanResult (o : BitVec 3) (e : BitVec 4) (excl : Bool) (mask : BitVec 32) (ms : List Member) (ftz : Bool)
    (self : Member) : Word × Flags :=
  packResults (elemOfCode e).bits (scanElem o e excl mask ms ftz self.lane)

/-! ### pack6 and unpack6 (R271) -/

/-- The eight conversions of one lane. -/
def pack6Lane (code : BitVec 5) (sat : Bool) (ms : List Member) (l : Nat) : List FRes :=
  let x := match presentAt ms l with | some m => m.env.opB | none => 0
  (elems 8 x).map (fun b => (Tiny.ofCode 6 code).convert .rne sat ((Tiny.ofCode 8 code).decode b))

/-- pack6: 64 of the quad's 192 bits, and the flags of the lane's own conversions. -/
def pack6Result (code : BitVec 5) (sat : Bool) (ms : List Member) (self : Member) : Word × Flags :=
  let q := self.lane / 4 * 4
  let r := self.lane % 4
  let all := (List.range 4).flatMap (fun k => (pack6Lane code sat ms (q + k)).map (fun c => c.bits))
  let fl := (pack6Lane code sat ms self.lane).foldl (fun fl c => fl ||| c.flags) 0
  (if r = 3 then 0 else BitVec.ofNat 64 (packNat 6 all / 2 ^ (64 * r)), fl)

/-- unpack6: values 8r to 8r + 7 of the quad, exactly converted. -/
def unpack6Result (code : BitVec 5) (ms : List Member) (self : Member) : Word :=
  let q := self.lane / 4 * 4
  let r := self.lane % 4
  let bits := packNat 64 ((List.range 3).map (fun k => match presentAt ms (q + k) with
    | some m => m.env.opB.toNat
    | none => 0))
  pack 8 ((List.range 8).map (fun i =>
    ((Tiny.ofCode 8 code).convert .rne false ((Tiny.ofCode 6 code).decode (bits / 2 ^ (6 * (8 * r + i)) % 64))).bits))

/-! ### topk (R304, R305) -/

/-- The valid candidates: position, bits and value. -/
def topkRow (f : FT) (ms : List Member) : List (Nat × Nat × FVal) :=
  let n := 64 / f.bits
  ((List.range 32).flatMap (fun l => match presentAt ms l with
    | some m => (List.range n).map (fun i =>
        (l * n + i, elemAt f.bits m.env.opA i, f.decode (elemAt f.bits m.env.opA i)))
    | none => [])).filter (fun c => !c.2.2.isNan)

/-- The candidates, value descending, equal values by rising position. -/
def topkSorted (f : FT) (ms : List Member) : List (Nat × Nat × FVal) :=
  (topkRow f ms).sortBy (fun a b => FVal.le b.2.2 a.2.2)

def topkResult (f : FT) (ms : List Member) (self : Member) : Word :=
  let c := topkSorted f ms
  let m := min (bitsOf self.env.opB 31 0) c.length
  match (if self.lane < m then (c.drop self.lane).head? else none) with
  | some x => BitVec.ofNat 64 (x.1 * 2 ^ 32 + x.2.1)
  | none => BitVec.ofNat 64 (0xFFFF_FFFF * 2 ^ 32 + f.infBits true)

/-! ### The rendezvous (R170, R171) -/

/-- What a collective gives one member. -/
def collResult (i : Instr) (mask : BitVec 32) (ms : List Member) (ftz : Bool) (self : Member) : Word × Flags :=
  match i with
  | .shuf _ w .. => (shufResult w.bits ms self, 0)
  | .voteAny .. => (voteAnyResult ms, 0)
  | .voteAll .. => (voteAllResult mask ms, 0)
  | .voteBallot .. => (voteBallotResult ms, 0)
  | .elect .. => (electResult ms self, 0)
  | .matchAny .. => (matchResult ms self, 0)
  | .redux _ _ o e _ => reduxResult o e mask ms ftz
  | .scanIncl _ _ o e _ => scanResult o e false mask ms ftz self
  | .scanExcl _ _ o e _ => scanResult o e true mask ms ftz self
  | .pack6 _ _ u f _ => pack6Result f u ms self
  | .unpack6 _ _ f _ => (unpack6Result f ms self, 0)
  | .topk _ f .. => (topkResult f ms self, 0)
  | _ => (0, 0)

/-- A thread of a home lane that has not exited. -/
def memberLive (s : State) (team group l : Nat) : Bool :=
  match s.thread? (threadKey team (group * 32 + l)) with
  | some t => t.live
  | none => false

/-- Every live named member has arrived (R170). -/
def rendezvousMet (s : State) (team : Nat) (r : Rendezvous) : Bool :=
  (List.range 32).all (fun l =>
    !named r.mask l || !memberLive s team r.group l || r.arrived.contains (r.group * 32 + l))

/-- The members that stand blocked at a rendezvous. -/
def blockedMembers (s : State) (team : Nat) (r : Rendezvous) : List (Nat × Blocked) :=
  (r.arrived.sortBy (fun a b => decide (a ≤ b))).filterMap (fun tid =>
    let k := threadKey team tid
    match (s.thread k).status with
    | .blocked b | .waking b => if b.why = .coll then some (k, b) else none
    | _ => none)

/-- Give one member its result and raise its CSN. The result is settled: it is never formed again (R290). -/
def giveMember (s : State) (i : Instr) (mask : BitVec 32) (ms : List Member) (self : Member) : State :=
  let t := s.thread self.env.key
  let (x, fl) := collResult i mask ms (ftzOf t.fpctl) self
  let s := longResult s i { self.env with settled := true } x fl
  s.updThread self.env.key (fun t => { t with csn := t.csn + 1 })

/-- Drop a rendezvous. -/
def dropRendezvous (s : State) (team : Nat) (r : Rendezvous) : State :=
  s.updTeam team (fun t => { t with rendezvous := t.rendezvous.filter (fun q => !(q.group == r.group && q.csn == r.csn)) })

/-- A rendezvous completes: every arrived member, the last one's lane among them when it is still issuing, receives its
result, and those that wait go on. -/
def completeRendezvous (s : State) (team : Nat) (r : Rendezvous) (last : Option (Instr × Env)) : State :=
  let bs := blockedMembers s team r
  let s := dropRendezvous s team r
  let waiting : List Member := bs.map (fun p => ⟨homeLane p.2.env.tid, p.2.env⟩)
  let ms := match last with
    | some (_, e) => waiting ++ [⟨homeLane e.tid, e⟩]
    | none => waiting
  let s := bs.foldl (fun s p =>
    finishBlocked (giveMember s p.2.instr r.mask ms ⟨homeLane p.2.env.tid, p.2.env⟩) p.1) s
  match last with
  | some (i, e) => giveMember s i r.mask ms ⟨homeLane e.tid, e⟩
  | none => s

/-- The arrived members of a rendezvous raise a trap, and the slots of those elsewhere take it (R171). -/
def failRendezvous (s : State) (team : Nat) (r : Rendezvous) (cause : Nat) (own : Option Nat) : State :=
  let bs := blockedMembers s team r
  let tr : Trap := ⟨cause, 0, 0, r.csn.zeroExtend 64, 0, none, false⟩
  let s := dropRendezvous s team r
  let s := bs.foldl (fun s p => raiseBlocked s p.1 p.2 tr) s
  let slots := ((bs.map (fun p => (s.thread p.1).slot)).filter (fun g => some g != own)).dedup
  let tm := s.team team
  slots.foldl (fun s g => takeTraps s tm.core tm.ctx g) s

/-- The effective mask of an arriving thread (R265). -/
def effectiveMask (e : Env) : BitVec 32 :=
  (match e.hints.fourth with
    | some _ => e.opD.setWidth 32
    | none => BitVec.allOnes 32) ||| BitVec.twoPow 32 (homeLane e.tid)

/-- Whether an arrival agrees with those before it (R171, R304). -/
def agrees (s : State) (r : Rendezvous) (i : Instr) (e : Env) : Bool :=
  r.pc == e.pc && r.mask == effectiveMask e
    && (match i with
      | .topk .. => (blockedMembers s e.team r).all (fun p => bitsOf p.2.env.opB 31 0 == bitsOf e.opB 31 0)
      | _ => true)

/-- A thread arrives at a collective. -/
def collLane (i : Instr) : LaneFn := fun e s =>
  if e.settled then .done (longResult s i e e.opD e.flags)
  else
    let t := s.thread e.key
    let g := homeGroup e.tid
    let tm := s.team e.team
    match tm.rendezvous.find? (fun r => r.group == g && r.csn == t.csn) with
    | some r =>
      if !agrees s r i e then
        .trap (failRendezvous s e.team r causeCollMismatch (some t.slot))
          ⟨causeCollMismatch, 0, 0, t.csn.zeroExtend 64, 0, none, false⟩
      else
        let r' := { r with arrived := r.arrived ++ [e.tid] }
        if rendezvousMet s e.team r' then .done (completeRendezvous s e.team r' (some (i, e)))
        else .block (s.updTeam e.team (fun tm => { tm with rendezvous := tm.rendezvous.map (fun q =>
          if q.group == g && q.csn == t.csn then r' else q) })) .coll
    | none =>
      let r : Rendezvous := ⟨g, t.csn, e.pc, effectiveMask e, [e.tid], 0⟩
      if rendezvousMet s e.team r then .done (completeRendezvous s e.team r (some (i, e)))
      else .block (s.updTeam e.team (fun tm => { tm with rendezvous := tm.rendezvous ++ [r] })) .coll

/-- Whether two arrivals of one bundle at one rendezvous agree. -/
def alike (i : Instr) (e f : Env) : Bool :=
  effectiveMask e == effectiveMask f
    && (match i with | .topk .. => bitsOf e.opB 31 0 == bitsOf f.opB 31 0 | _ => true)

/-- The lanes of one bundle arrive in one cycle: where two of one rendezvous differ, or one differs from those that have
arrived, all of them fail with it, and none opens or joins another (R171, R304). -/
def doomed (s : State) (i : Instr) (es : List Env) (e : Env) : Bool :=
  let csn (e : Env) : BitVec 32 := (s.thread e.key).csn
  let peers := es.filter (fun f => homeGroup f.tid == homeGroup e.tid && csn f == csn e)
  !(peers.all (fun f => alike i e f && (match (s.team e.team).rendezvous.find? (fun r => r.group == homeGroup e.tid && r.csn == csn e) with
    | some r => agrees s r i f
    | none => true)))

/-- One lane of a bundle at a collective, its fate shared with the lanes that arrive at one rendezvous with it. -/
def collTogether (s : State) (i : Instr) (es : List Env) (lane : LaneFn) : LaneFn := fun e t =>
  if doomed s i es e then
    let th := t.thread e.key
    let t := match (t.team e.team).rendezvous.find? (fun r => r.group == homeGroup e.tid && r.csn == th.csn) with
      | some r => failRendezvous t e.team r causeCollMismatch (some th.slot)
      | none => t
    .trap t ⟨causeCollMismatch, 0, 0, th.csn.zeroExtend 64, 0, none, false⟩
  else lane e t

/-- The lanes of a bundle that issue. -/
def issuing (s : State) (bd : Bundle) (i : Instr) : List Env :=
  (bd.tids.filter (fun tid => issueCheck s (s.thread (threadKey bd.team tid)) i == .go)).map (bundleEnv s bd i 0)

/-- A collective of the bundle of the state. -/
def runColl (i : Instr) (lane : LaneFn) (s : State) : Host.Outcome State Fault Refusal :=
  match s.bundle with
  | some bd => .next (issueBundle i (fun _ _ => none) (collTogether s i (issuing s bd i) lane) (fun _ _ s => s) bd s)
  | none => .next s

/-- An exit may complete a rendezvous (R170). -/
def settleRendezvous (s : State) (team : Nat) : State :=
  (s.team team).rendezvous.foldl (fun s r => if rendezvousMet s team r then completeRendezvous s team r none else s) s

/-- A thread's arrival is withdrawn: its collective stands in a replay queue (R384, R392). -/
def withdrawColl (s : State) (team tid : Nat) : State :=
  s.updTeam team (fun t =>
    let rs := t.rendezvous.map (fun r => { r with arrived := r.arrived.filter (fun i => i != tid) })
    { t with rendezvous := rs.filter (fun r => !r.arrived.isEmpty) })

/-! ### The forms -/

/-- shuf (R267), for one thread. -/
def laneShuf (ins : Instr) : LaneFn :=
  collLane ins

/-- shuf (R267). -/
def execShuf (sw : Bool) (w : W) (d : BitVec 7) (a : BitVec 7) (b : Opnd)
    (s : State) : Host.Outcome State Fault Refusal :=
  runColl (.shuf sw w d a b) (laneShuf (.shuf sw w d a b)) s

/-- vote.any (R268), for one thread. -/
def laneVoteAny (ins : Instr) : LaneFn :=
  collLane ins

/-- vote.any (R268). -/
def execVoteAny (sw : Bool) (d : BitVec 7) (b : Opnd) (s : State) : Host.Outcome State Fault Refusal :=
  runColl (.voteAny sw d b) (laneVoteAny (.voteAny sw d b)) s

/-- vote.all (R268), for one thread. -/
def laneVoteAll (ins : Instr) : LaneFn :=
  collLane ins

/-- vote.all (R268). -/
def execVoteAll (sw : Bool) (d : BitVec 7) (b : Opnd) (s : State) : Host.Outcome State Fault Refusal :=
  runColl (.voteAll sw d b) (laneVoteAll (.voteAll sw d b)) s

/-- vote.ballot (R268), for one thread. -/
def laneVoteBallot (ins : Instr) : LaneFn :=
  collLane ins

/-- vote.ballot (R268). -/
def execVoteBallot (sw : Bool) (d : BitVec 7) (b : Opnd) (s : State) : Host.Outcome State Fault Refusal :=
  runColl (.voteBallot sw d b) (laneVoteBallot (.voteBallot sw d b)) s

/-- elect (R268), for one thread. -/
def laneElect (ins : Instr) : LaneFn :=
  collLane ins

/-- elect (R268). -/
def execElect (sw : Bool) (d : BitVec 7) (s : State) : Host.Outcome State Fault Refusal :=
  runColl (.elect sw d) (laneElect (.elect sw d)) s

/-- match (R268), for one thread. -/
def laneMatchAny (ins : Instr) : LaneFn :=
  collLane ins

/-- match (R268). -/
def execMatchAny (sw : Bool) (d : BitVec 7) (b : Opnd) (s : State) : Host.Outcome State Fault Refusal :=
  runColl (.matchAny sw d b) (laneMatchAny (.matchAny sw d b)) s

/-- redux (R269, R270), for one thread. -/
def laneRedux (ins : Instr) : LaneFn :=
  collLane ins

/-- redux (R269, R270). -/
def execRedux (sw : Bool) (d : BitVec 7) (o : BitVec 3) (e : BitVec 4) (b : Opnd)
    (s : State) : Host.Outcome State Fault Refusal :=
  runColl (.redux sw d o e b) (laneRedux (.redux sw d o e b)) s

/-- scan.incl (R269, R270), for one thread. -/
def laneScanIncl (ins : Instr) : LaneFn :=
  collLane ins

/-- scan.incl (R269, R270). -/
def execScanIncl (sw : Bool) (d : BitVec 7) (o : BitVec 3) (e : BitVec 4) (b : Opnd)
    (s : State) : Host.Outcome State Fault Refusal :=
  runColl (.scanIncl sw d o e b) (laneScanIncl (.scanIncl sw d o e b)) s

/-- scan.excl (R269, R270), for one thread. -/
def laneScanExcl (ins : Instr) : LaneFn :=
  collLane ins

/-- scan.excl (R269, R270). -/
def execScanExcl (sw : Bool) (d : BitVec 7) (o : BitVec 3) (e : BitVec 4) (b : Opnd)
    (s : State) : Host.Outcome State Fault Refusal :=
  runColl (.scanExcl sw d o e b) (laneScanExcl (.scanExcl sw d o e b)) s

/-- pack6 (R271), for one thread. -/
def lanePack6 (ins : Instr) : LaneFn :=
  collLane ins

/-- pack6 (R271). -/
def execPack6 (sw : Bool) (d : BitVec 7) (u : Bool) (f : BitVec 5) (b : Opnd)
    (s : State) : Host.Outcome State Fault Refusal :=
  runColl (.pack6 sw d u f b) (lanePack6 (.pack6 sw d u f b)) s

/-- unpack6 (R271), for one thread. -/
def laneUnpack6 (ins : Instr) : LaneFn :=
  collLane ins

/-- unpack6 (R271). -/
def execUnpack6 (sw : Bool) (d : BitVec 7) (f : BitVec 5) (b : Opnd) (s : State) : Host.Outcome State Fault Refusal :=
  runColl (.unpack6 sw d f b) (laneUnpack6 (.unpack6 sw d f b)) s

/-- topk (R304, R305), for one thread. -/
def laneTopk (ins : Instr) : LaneFn :=
  collLane ins

/-- topk (R304, R305). -/
def execTopk (sw : Bool) (f : FT) (d : BitVec 7) (a : BitVec 7) (b : Opnd)
    (s : State) : Host.Outcome State Fault Refusal :=
  runColl (.topk sw f d a b) (laneTopk (.topk sw f d a b)) s

end Sys2Proof.Machine
end

