-- ==== Sys2Proof/Machine/MemoryOps.lean ====
section
/-! DEFINITION. Loads, stores, atomics, Well updates, fences, prefetch and round counters (R206 to R224, R230 to R232). -/

namespace Sys2Proof.Machine

/-! ### The steps of an access (R208) -/

/-- The checks of R36, the watchpoints (R401), and the inks of R120; then `k` performs the access at its place. -/
def withPlace (e : Env) (a : Access) (load store : Bool) (s : State) (k : Place → State → LaneOut) : LaneOut :=
  match checkAccess s a with
  | (.trap t, s) => .trap s t
  | (.fault key va, s) => .block s (.fault key va)
  | (.wait w, s) => .block s w
  | (.ok p, s) =>
    match watchHit s a.ctx a.va.toNat a.size load store with
    | some w => .trap s ⟨causeWatch, 0, a.va, BitVec.ofNat 64 w, 0, none, false⟩
    | none => withInks e (inksAt a.va p.inks) s (k p)

/-- An access of the Well window takes its size as its alignment (R207). -/
def alignIn (va : Word) (size other : Nat) : Nat :=
  match windowOf va size with
  | .well _ _ => size
  | _ => other

/-- well-direct on a window other than the Well (R51, R213). -/
def badDirect (va : Word) (size : Nat) (pol : BitVec 3) : Bool :=
  pol == 3#3 && (match windowOf va size with
    | .well _ _ => false
    | _ => true)

/-- A read at home, after what the core sent there before, raises ECC of poison (R53, R81). -/
def unpoisoned (e : Env) (s : State) (p : Place) (n : Nat) (k : State → LaneOut) : LaneOut :=
  let s := placeSettle s e.core p
  if placePoisoned s p n then .trap s (trapAt causeEcc e.addr) else k s

/-! ### Round regions (R145 to R157) -/

/-- The bound of a load: relative, or an absolute minimum with its timeout (R149). -/
inductive Bound where
  | rel (b : Nat)
  | abs (n : Word) (timeout : Nat)
  deriving DecidableEq, Repr

/-- The lower bound that a bound gives against an observed round (R149). -/
def Bound.low (b : Bound) (o : Word) : Word :=
  match b with
  | .rel d => if d < o.toNat then o - BitVec.ofNat 64 d else 0
  | .abs n _ => n

/-- Set a core's bit in the WAITERS of a counter block (R142, R149). -/
def registerWaiter (s : State) (core : Nat) (at_ : Nat × Nat) : State :=
  let w := wellNat s at_.1 (at_.2 + 24) 40
  wellUnit s at_.1 (at_.2 + 24) 40 (w ||| 2 ^ core)

/-- What a load to a region does before it is judged: the seeding query, and the query, registration and stall of an
absolute bound (R146, R149). A counter whose address fails the Well bounds raises WELLBOUND at the load's own data address
(DESIGN CHOICE, log entry 35). -/
def roundEntry (e : Env) (b : Bound) (rgn : Nat) (s : State) : Chk Unit × State :=
  match counterAt s e.ctx rgn with
  | none =>
    match observed s e.core e.ctx rgn, b with
    | some _, .rel _ => (.ok (), s)
    | some o, .abs n _ => if o.toNat < n.toNat then (.trap (pageTrap 9 e.addr), s) else (.ok (), s)
    | none, _ => (.trap (pageTrap 9 e.addr), s)
  | some c =>
    let known := observed s e.core e.ctx rgn
    let ask := match known, b with
      | none, _ => true
      | some o, .abs n _ => decide (o.toNat < n.toNat)
      | some _, .rel _ => false
    if !ask then (.ok (), s)
    else if wellFilling s (c.2 + 63) then (.wait .carve, s)
    else
      let (o, s) := roundQuery s e.core e.ctx rgn c
      match b with
      | .rel _ => (.ok (), s)
      | .abs n t =>
        if o.toNat < n.toNat then (.wait (.round rgn n t), registerWaiter s e.core c) else (.ok (), s)

/-- The regions of an access, lower page first. -/
def regionsOf (ps : List Piece) : List Nat := (ps.filter (fun p => leafR p.tlb.leaf)).map (fun p => leafRgn p.tlb.leaf)

def roundEntries (e : Env) (b : Bound) : List Nat → State → Chk Unit × State
  | [], s => (.ok (), s)
  | r :: rs, s =>
    match roundEntry e b r s with
    | (.ok (), s) => roundEntries e b rs s
    | x => x

/-! ### Loads -/

/-- Bytes of an outstanding load arrive. -/
def arrive (s : State) (key id pos : Nat) (bs : List Byte) : State :=
  s.updThread key (fun t => { t with outs := t.outs.map (fun o =>
    if o.id == id then
      { o with data := o.data.mapIdx (fun i b => if pos ≤ i ∧ i < pos + bs.length then some ((bs[i - pos]?).getD 0) else b) }
    else o) })

/-- The bytes `n` from offset `o` of a line. -/
def lineBytes (bs : List Byte) (o n : Nat) : List Byte := (bs.drop o).take n

/-- Whether a line of the L1 serves a load of region `rgn` with lower bound `lo`, or of no region (R58, R149). -/
def Line.admits (l : Line) (rgn : Option Nat) (lo : Word) : Bool :=
  match l.round, rgn with
  | none, none => true
  | some (g, f), some r => g == r && qualifies f lo
  | _, _ => false

/-- The region of a page. -/
def regionAt (t : TlbEntry) : Option Nat := if leafR t.leaf then some (leafRgn t.leaf) else none

/-- The lower bound that a bound gives on a page, 0 where it has no region (R149). -/
def lowAt (s : State) (e : Env) (b : Bound) (t : TlbEntry) : Word :=
  match regionAt t with
  | some r => b.low ((observed s e.core e.ctx r).getD 0)
  | none => 0

/-- The far copy of a line that a bound admits and that does not lag the core's observed round (R148, R149): after the core's own
requests for the line and the stores outstanding there (R54, R92, R154). -/
def farHit (s : State) (core ctx pline : Nat) (rgn : Option Nat) (lo : Word) : Option FarLine × State :=
  let die := dieOf core
  let s := settleLine s core pline
  ((s.die die).far.find? (fun l => l.line == pline && farLive s die (s.cid ctx) rgn l
    && (match l.round with
      | some (_, g, f) => qualifies f lo && !((observed s core ctx g).any (lagging f))
      | none => true)), s)

/-- The L1 line of an address that a bound admits. -/
def l1Hit (s : State) (e : Env) (va : Nat) (rgn : Option Nat) (lo : Word) : Option Line :=
  (l1Find s e.core e.ctx va).filter (fun k => k.admits rgn lo)

/-- The L1 line that a far copy of a round region fills, with the copy's round (R148). -/
def FarLine.filled (k : FarLine) (s : State) (e : Env) (va : Nat) (t : TlbEntry) (ink : Nat) (stream : Bool) : Line :=
  ⟨s.cid e.ctx, va / 128, leafW t.leaf, leafX t.leaf, leafI t.leaf, ink, (s.core e.core).epoch, k.round.map (fun r => r.2), k.bytes, k.bad,
    stream, false⟩

/-- Host and peer memory, to which bounded loads ignore their window (R157). -/
def outside (t : TlbEntry) : Bool := outsidePa (leafFrame t.leaf)

/-- A load of a round region that is performed at home whatever its policy: of a granule whose ink is held (R139, R156), or
outside the module (R157). -/
def atHome (t : TlbEntry) (ink : Nat) : Bool := leafR t.leaf && (ink != 0 || outside t)

/-- A line piece of an access: virtual address, length, physical address, page; and the ink of its granule (R33). -/
abbrev LinePart := (Nat × Nat × Nat × TlbEntry) × Nat

/-- The ink of every line piece: `js` are the inks of the granules of the inked pages, in order. A line lies in one granule. -/
def lineInks : List Piece → List Nat → List Nat
  | [], _ => []
  | p :: ps, js =>
    let ls := linePieces (p.len / 128 + 2) p.va p.len p.pa
    if leafI p.tlb.leaf then
      ls.map (fun l => (js[l.1 / 256 - p.va / 256]?).getD 0) ++ lineInks ps (js.drop (granulesOf p).length)
    else ls.map (fun _ => 0) ++ lineInks ps js

/-- The line pieces of a translated access with their inks. -/
def lineParts (ps : List Piece) (js : List Nat) : List LinePart := (accessLines ps).zip (lineInks ps js)

/-- The L1 line that serves a piece of a plain or bounded load: one that is there, or for a round region one that a far copy
fills (R50, R149); none sends a request. -/
def serving (e : Env) (b : Bound) (pol : Fill) (l : LinePart) (s : State) : Option Line × State :=
  let ((va, _, pa, t), ink) := l
  if pol = .bypass || atHome t ink then (none, s)
  else
    let lo := lowAt s e b t
    match l1Hit s e va (regionAt t) lo with
    | some k => (some k, s)
    | none =>
      if !leafR t.leaf then (none, s)
      else
        match farHit s e.core e.ctx (pa / 128) (regionAt t) lo with
        | (some k, s) =>
          let line := k.filled s e va t ink (pol == .stream)
          (some line, l1Fill s e.core 0 line)
        | (none, s) => (none, s)

/-- The serving lines of every piece. -/
def servings (e : Env) (b : Bound) (pol : Fill) : List LinePart → State → List (LinePart × Option Line) × State
  | [], s => ([], s)
  | l :: ls, s =>
    let (k, s) := serving e b pol l s
    let (ks, s) := servings e b pol ls s
    ((l, k) :: ks, s)

/-- One piece of a load: its line serves it, or it joins the collector (R71). A bypass load leaves no older copy in the L1
(R87; DEDUCED, log entry 32). -/
def loadPiece (e : Env) (id : Nat) (pol : Fill) (pos : Nat) (l : LinePart) (k : Option Line) (s : State) : State :=
  let ((va, n, pa, t), ink) := l
  match k with
  | some k => arrive s e.key id pos (lineBytes k.bytes (va % 128) n)
  | none =>
    let pol := if atHome t ink then .bypass else pol
    let s := if pol = .bypass && !leafR t.leaf then l1DropRange s e.core e.ctx va n else s
    collectLoad s e.core e.ctx va pa t pol ink
      ((regionAt t).map (fun r => (r, (observed s e.core e.ctx r).getD 0))) ⟨e.key, id, pos, va % 128, n, [], false⟩

/-- Every piece of a load. -/
def loadPieces (e : Env) (id : Nat) (pol : Fill) : Nat → List (LinePart × Option Line) → State → State
  | _, [], s => s
  | pos, (l, k) :: ls, s => loadPieces e id pol (pos + l.1.2.1) ls (loadPiece e id pol pos l k s)

/-- A load whose value is there at once. -/
def loadNow (i : Instr) (e : Env) (bs : List Byte) (s : State) : State := (addOut s i e (bs.map some) none 0).2

/-- A plain or bounded load of the global window (R50, R139, R149, R152, R156). A line that serves poisoned bytes raises ECC
(R81). -/
def loadGlobal (i : Instr) (e : Env) (b : Bound) (pol : Fill) (ps : List Piece) (js : List Nat) (n : Nat)
    (s : State) : LaneOut :=
  let (ls, s) := servings e b pol (lineParts ps js) s
  if ls.any (fun l => match l.2 with | some k => badPart k.bad (l.1.1.1 % 128) l.1.1.2.1 | none => false) then
    .trap s (trapAt causeEcc e.addr)
  else
    let (id, s) := addOut s i e (List.replicate n none) none 0
    .done (loadPieces e id pol 0 ls s)

/-- A line fetched within the step, as a default load of it: after the core's own requests for the line, and what is on its
way to the core (R53). `into` fills the L1. -/
def fetchLine (s : State) (core ctx va pa : Nat) (t : TlbEntry) (stream into : Bool) (ink : Nat) : Reply × State :=
  let s := settleLine s core (pa / 128)
  let s := replyAll core (s.core core).coll.length s
  let en := { Entry.opened s ctx va pa t with
    fill := true, stream := stream, ink := ink
    round := (regionAt t).map (fun r => (r, (observed s core ctx r).getD 0)) }
  let (r, s) := readLine s core en
  (r, if into then l1Fill s core 0 (en.filled s core r) else s)

/-- What one piece of a load reads within the step: its bytes, and whether one is poisoned. -/
abbrev Part := List Byte × Bool

/-- A piece read at home, after what the home sent the core earlier (R53). A bypass load, and an acquire of host or peer memory,
leave no older copy behind (R87; DEDUCED, log entries 32 and 53). -/
def homePart (e : Env) (pol : Fill) (l : LinePart) (s : State) : Part × State :=
  let ((va, n, pa, t), _) := l
  let s := replyFrom (settleLine s e.core (pa / 128)) e.core (homeCode pa)
  let part := (physRead s pa n, poisonedPhys s pa n)
  (part, if (pol = .bypass || outside t) && !leafR t.leaf then dropCopies s e.core e.ctx [⟨va, n, pa, t⟩] else s)

/-- A piece of a default load whose value is there within the step (R50, R139, R149, R157). -/
def heldPart (e : Env) (l : LinePart) (s : State) : Part × State :=
  let ((va, n, pa, t), ink) := l
  if atHome t ink then homePart e .default l s
  else
    match serving e (.rel 0) .default l s with
    | (some k, s) => ((lineBytes k.bytes (va % 128) n, badPart k.bad (va % 128) n), s)
    | (none, s) =>
      let (r, s) := fetchLine s e.core e.ctx va pa t false true ink
      ((lineBytes r.bytes (va % 128) n, badPart r.bad (va % 128) n), s)

/-- Every piece of a default load whose value is there within the step: `js` are the inks of its granules. -/
def loadHeld (e : Env) (ps : List Piece) (js : List Nat) (s : State) : Part × State :=
  (lineParts ps js).foldl (fun (a : Part × State) l =>
    let (p, s) := heldPart e l a.2
    ((a.1.1 ++ p.1, a.1.2 || p.2), s)) (([], false), s)

/-- A piece read from the far ways where a copy serves, else at home; it fills no line. -/
def farPart (e : Env) (pol : Fill) (l : LinePart) (s : State) : Part × State :=
  let ((_, n, pa, t), _) := l
  match farHit s e.core e.ctx (pa / 128) (regionAt t) (lowAt s e (.rel 0) t) with
  | (some k, s) => ((lineBytes k.bytes (pa % 128) n, badPart k.bad (pa % 128) n), replyFrom s e.core 0)
  | (none, s) => homePart e pol l s

/-- One piece of a load-acquire at its scope's point of coherence (R90, R139, R152, R157, R410): at team scope as a default
load, at cluster scope from the far ways or the home, wider at the home; of host memory at the host at every scope (DEDUCED, log
entry 53). -/
def acquirePart (e : Env) (sc : Nat) (pol : Fill) (l : LinePart) (s : State) : Part × State :=
  let ((va, n, pa, t), ink) := l
  if pol = .bypass || 3 ≤ sc || hostPa pa || atHome t ink then homePart e pol l s
  else if sc = 2 then farPart e pol l s
  else
    match l1Hit s e va (regionAt t) (lowAt s e (.rel 0) t) with
    | some k => ((lineBytes k.bytes (va % 128) n, badPart k.bad (va % 128) n), s)
    | none =>
      if leafR t.leaf then farPart e pol l s
      else
        let (r, s) := fetchLine s e.core e.ctx va pa t (pol == .stream) true ink
        ((lineBytes r.bytes (va % 128) n, badPart r.bad (va % 128) n), s)

/-- Every piece of a load-acquire. -/
def acquireParts (e : Env) (sc : Nat) (pol : Fill) : List LinePart → State → Part × State
  | [], s => (([], false), s)
  | l :: ls, s =>
    let (p, s) := acquirePart e sc pol l s
    let (q, s) := acquireParts e sc pol ls s
    ((p.1 ++ q.1, p.2 || q.2), s)

/-- What a load-acquire reads at its place. -/
def acquireRead (e : Env) (sc : Nat) (pol : Fill) (p : Place) (n : Nat) (s : State) : Part × State :=
  match p with
  | .glob ps js => acquireParts e sc pol (lineParts ps js) s
  | p =>
    let bad := placePoisoned s p n
    let (bs, s) := placeRead s e.core p n
    ((bs, bad), s)

/-- A load-acquire (R90, R93, R103, R211): its value is there before anything later of its thread. A device-remote one
promotes the release it meets once it has read. -/
def loadAcquire (i : Instr) (e : Env) (sc : Nat) (pol : Fill) (p : Place) (n : Nat) (s : State) : LaneOut :=
  let s := placeSettle s e.core p
  let met := if sc = 5 then tagMet s (placeTag p) else none
  let ((bs, bad), s) := acquireRead e sc pol p n s
  if bad then .trap s (trapAt causeEcc e.addr)
  else .done (acquireActions (promoteMet (loadNow i e bs s) (placeTag p) met) e.core sc)

/-- A plain or bounded load of any window. -/
def loadPlain (i : Instr) (e : Env) (b : Bound) (pol : Fill) (p : Place) (n : Nat) (s : State) : LaneOut :=
  match p with
  | .glob ps js => loadGlobal i e b pol ps js n s
  | p => unpoisoned e s p n (fun s =>
    let (bs, s) := placeRead s e.core p n
    .done (loadNow i e bs s))

/-- The lines of an access that are all in the L1, none of them of a round region with an ink: such a load uses no TLB
when they serve it (R42). -/
def fastLines (s : State) (e : Env) (n : Nat) : Option (List (Nat × Nat × Line)) :=
  let va := e.addr.toNat
  ((linePieces (n / 128 + 2) va n va).map (fun p => (p.1, p.2.1))).foldl (fun acc p =>
    match acc, l1Find s e.core e.ctx p.1 with
    | some ls, some l => if l.round.isNone || l.ink == 0 then some (ls ++ [(p.1, p.2, l)]) else none
    | _, _ => none) (some [])

/-- Whether a bound that asks no query admits a line of the L1 (R146, R149). -/
def quick (s : State) (e : Env) (b : Bound) (l : Line) : Bool :=
  match l.round with
  | none => true
  | some (g, f) =>
    match observed s e.core e.ctx g, b with
    | none, _ => false
    | some o, .abs n _ => decide (n.toNat ≤ o.toNat) && qualifies f n
    | some o, .rel d => qualifies f ((Bound.rel d).low o)

/-- The lines that serve a load of the global window that hits in the L1, under a bound. -/
def fastHit (s : State) (e : Env) (b : Bound) (n : Nat) : Option (List (Nat × Nat × Line)) :=
  match windowOf e.addr n with
  | .glob => (fastLines s e n).filter (fun ls => ls.all (fun l => quick s e b l.2.2))
  | _ => none

/-- A load that hits in the L1: its watchpoints, the inks of its lines, their poison, and then `k` on its bytes (R33, R42). -/
def withFast (e : Env) (ls : List (Nat × Nat × Line)) (n : Nat) (s : State) (k : List Byte → State → LaneOut) : LaneOut :=
  match watchHit s e.ctx e.addr.toNat n true false with
  | some w => .trap s ⟨causeWatch, 0, e.addr, BitVec.ofNat 64 w, 0, none, false⟩
  | none =>
    withInks e (inksAt e.addr (inkSet (ls.map (fun l => l.2.2.ink)))) s (fun s =>
      if ls.any (fun l => badPart l.2.2.bad (l.1 % 128) l.2.1) then .trap s (trapAt causeEcc e.addr)
      else k (ls.flatMap (fun l => lineBytes l.2.2.bytes (l.1 % 128) l.2.1)) s)

/-- A default or stream load that hits in the L1. -/
def loadFast (i : Instr) (e : Env) (ls : List (Nat × Nat × Line)) (n : Nat) (s : State) : LaneOut :=
  withFast e ls n s (fun bs s => .done (loadNow i e bs s))

/-- The policy of a load (R50). -/
def fillOf (pol : BitVec 3) : Fill := if pol = 1#3 then .bypass else if pol = 2#3 then .stream else .default

/-- The queries of a load's regions, then its access. -/
def withRounds (e : Env) (b : Bound) (p : Place) (s : State) (k : State → LaneOut) : LaneOut :=
  match roundEntries e b (match p with | .glob ps _ => regionsOf ps | _ => []) s with
  | (.trap t, s) => .trap s t
  | (.fault key va, s) => .block s (.fault key va)
  | (.wait w, s) => .block s w
  | (.ok (), s) => k s

/-- The policy's own check: well-direct names the Well only. It comes after the checks of R36 and the inks, and before the queries
of a round (R51, R149, R213; DEDUCED, log entry 52). -/
def withPolicy (va : Word) (n : Nat) (pol : BitVec 3) (s : State) (k : State → LaneOut) : LaneOut :=
  if badDirect va n pol then .trap s (pageTrap 8 va) else k s

/-- A plain or bounded load of one lane: checks, inks, the round's queries, the access. A default or stream load that hits in the
L1 uses no TLB (R42). -/
def loadLane (i : Instr) (z : IT) (pol : BitVec 3) (b : Bound) : LaneFn := fun e s =>
  let n := z.bits / 8
  match (if pol == 1#3 || pol == 3#3 then none else fastHit s e b n) with
  | some ls => loadFast i e ls n s
  | none =>
    withPlace e (laneAccess e n (alignIn e.addr n 1) .read false) true false s (fun p s =>
      withPolicy e.addr n pol s (fun s => withRounds e b p s (loadPlain i e b (fillOf pol) p n)))

/-- The lines that serve a load-acquire in the L1: one of team scope, of other memory than the host's, is performed as a default
load (R42, R90). -/
def acquireHit (s : State) (e : Env) (sc : Nat) (pol : BitVec 3) (n : Nat) : Option (List (Nat × Nat × Line)) :=
  if sc != 1 || pol == 1#3 || pol == 3#3 || e.addr.toNat % n != 0 then none
  else (fastHit s e (.rel 0) n).filter (fun ls => ls.all (fun l => !l.2.2.host))

/-- A load-acquire of one lane. -/
def acquireLane (i : Instr) (z : IT) (sc : Nat) (pol : BitVec 3) : LaneFn := fun e s =>
  let n := z.bits / 8
  match acquireHit s e sc pol n with
  | some ls => loadFast i e ls n s
  | none =>
    withPlace e (laneAccess e n n .read false) true false s (fun p s =>
      withPolicy e.addr n pol s (fun s => withRounds e (.rel 0) p s (loadAcquire i e sc (fillOf pol) p n)))

/-- The bound of an ldb, from what it captured (R214). -/
def ldbBound (o : BitVec 2) (e : Env) : Bound :=
  if o = 1#2 then .abs e.opD (bitsOf e.opC 31 0) else .rel (bitsOf e.opD 31 0)

/-- ld (R211), for one thread. -/
def laneLd (ins : Instr) (z : IT) (o : BitVec 2) (c : BitVec 3) (p : BitVec 3) : LaneFn :=
  fun e s =>
    if o = 1#2 then acquireLane ins z (e.hints.scopeOr c).toNat p e s else loadLane ins z p (.rel 0) e s

/-- ld (R211). -/
def execLd (sw : Bool) (z : IT) (d : BitVec 7) (a : BitVec 7) (o : BitVec 2) (c : BitVec 3) (p : BitVec 3)
    (s : State) : Host.Outcome State Fault Refusal :=
  runEach (.ld sw z d a o c p) (laneLd (.ld sw z d a o c p) z o c p) s

/-- ldb (R215), for one thread. -/
def laneLdb (ins : Instr) (z : IT) (o : BitVec 2) (p : BitVec 3) : LaneFn :=
  fun e s => loadLane ins z p (ldbBound o e) e s

/-- ldb (R215). -/
def execLdb (sw : Bool) (z : IT) (d : BitVec 7) (a : BitVec 7) (o : BitVec 2) (p : BitVec 3)
    (s : State) : Host.Outcome State Fault Refusal :=
  runEach (.ldb sw z d a o p) (laneLdb (.ldb sw z d a o p) z o p) s

/-! ### Stores (R212) -/

/-- What a release waits for before its own access: the thread's earlier loads, and the stores of R91. A system release
that waits for a store dropped with its link raises ECC (R415), at its own address (DESIGN CHOICE, log entry 35). -/
def releaseWait (e : Env) (sc : Nat) (s : State) (k : State → LaneOut) : LaneOut :=
  if sc = 4 && (s.core e.core).dropped then
    .trap (s.updCore e.core (fun c => { c with dropped := false })) (trapAt causeEcc e.addr)
  else k (waitRelease (performLoads s e.core e.key) e.core sc)

/-- A scope as a tag keeps it: device-remote is device (R89, R103). -/
def tagScope (sc : Nat) : Nat := if sc = 5 then 3 else sc

/-- A store of one lane. A team release to the global window is performed at the store ordering point, every other release
at its home (R90). -/
def storeLane (n : Nat) (release : Bool) (sc : Nat) (pol : BitVec 3) (i : Instr) : LaneFn := fun e s =>
  withPlace e (laneAccess e n (if release then n else alignIn e.addr n 1) .write false) false true s (fun p s =>
   withPolicy e.addr n pol s (fun s =>
    let bs := wordBytes n e.opC
    let plain (rel : Bool) (s : State) : State :=
      match p with
      | .glob ps _ => storeGlobal s e.core e.ctx (pol == 1#3) rel ps bs
      | p => placeWrite s e.core e.ctx .drop p bs
    let _ := i
    if !release then .done (plain false s)
    else releaseWait e sc s (fun s =>
      match p with
      | .glob _ _ =>
        if sc = 1 then .done (plain true s)
        else .done (setTag (placeWrite s e.core e.ctx (if pol = 1#3 then .drop else .update) p bs) (placeTag p) e.core
          (tagScope sc))
      | p => .done (setTag (placeWrite s e.core e.ctx .drop p bs) (placeTag p) e.core (tagScope sc)))))

/-- st (R212), for one thread. -/
def laneSt (ins : Instr) (z : IT) (o : BitVec 2) (c : BitVec 3) (p : BitVec 3) : LaneFn :=
  fun e s => storeLane (z.bits / 8) (o == 2#2) (e.hints.scopeOr c).toNat p ins e s

/-- st (R212). -/
def execSt (sw : Bool) (z : IT) (d : BitVec 7) (a : BitVec 7) (o : BitVec 2) (c : BitVec 3) (p : BitVec 3)
    (s : State) : Host.Outcome State Fault Refusal :=
  runEach (.st sw z d a o c p) (laneSt (.st sw z d a o c p) z o c p) s

/-! ### Atomics (R216 to R219) -/

/-- atom's operation on a `w`-bit value (R216, R217). -/
def atomOp (p : BitVec 3) (z : IT) (old x : Nat) : Nat :=
  let w := z.bits
  if p = 0#3 then (old + x) % 2 ^ w
  else if p = 1#3 then if intOf z old ≤ intOf z x then old else x
  else if p = 2#3 then if intOf z old ≤ intOf z x then x else old
  else if p = 3#3 then old &&& x
  else if p = 4#3 then old ||| x
  else if p = 5#3 then old ^^^ x
  else if p = 6#3 then x
  else (addRes .f32 .rne false (FT.decode .f32 old) (FT.decode .f32 x)).bits

/-- An atomic of one lane: `f` gives the new value, or none where nothing is written. -/
def atomicLane (i : Instr) (z : IT) (o : BitVec 2) (sc : Nat) (f : Env → Nat → Option Nat) : LaneFn := fun e s =>
  let n := z.bits / 8
  withPlace e (laneAccess e n n .write true) true true s (fun p s =>
    unpoisoned e s p n (fun s =>
      let perform (s : State) : LaneOut :=
        let met := if o.getLsbD 0 && sc = 5 then tagMet s (placeTag p) else none
        let (bs, s) := placeRead s e.core p n
        let old := bytesToNat bs
        let s := match f e old with
          | some x =>
            let s := placeWrite s e.core e.ctx .drop p (natToBytes n x)
            if o.getLsbD 1 then setTag s (placeTag p) e.core (tagScope sc) else s
          | none =>
            match p with
            | .glob ps _ => dropCopies s e.core e.ctx ps
            | _ => s
        let s := promoteMet (longResult s i e (extend z old) 0) (placeTag p) met
        .done (if o.getLsbD 0 then acquireActions s e.core sc else s)
      if o.getLsbD 1 then releaseWait e sc s perform else perform s))

/-- atom (R216, R217), for one thread. -/
def laneAtom (ins : Instr) (z : IT) (o : BitVec 2) (c : BitVec 3) (p : BitVec 3) : LaneFn :=
  fun e s => atomicLane ins z o (e.hints.scopeOr c).toNat (fun v old => some (atomOp p z old (v.opC.toNat % 2 ^ z.bits))) e s

/-- atom (R216, R217). -/
def execAtom (sw : Bool) (z : IT) (d : BitVec 7) (a : BitVec 7) (o : BitVec 2) (c : BitVec 3) (p : BitVec 3)
    (s : State) : Host.Outcome State Fault Refusal :=
  runEach (.atom sw z d a o c p) (laneAtom (.atom sw z d a o c p) z o c p) s

/-- cas (R218), for one thread. -/
def laneCas (ins : Instr) (z : IT) (o : BitVec 2) (c : BitVec 3) : LaneFn :=
  fun e s =>
    atomicLane ins z o (e.hints.scopeOr c).toNat (fun v old =>
      if old = v.opC.toNat % 2 ^ z.bits then some (v.opE.toNat % 2 ^ z.bits) else none) e s

/-- cas (R218). -/
def execCas (sw : Bool) (z : IT) (d : BitVec 7) (a : BitVec 7) (o : BitVec 2) (c : BitVec 3)
    (s : State) : Host.Outcome State Fault Refusal :=
  runEach (.cas sw z d a o c) (laneCas (.cas sw z d a o c) z o c) s

/-! ### Well updates and reductions (R220 to R223) -/

/-- The operation of one element (R220, R221): subnormals are kept and no flag is touched. -/
def updElem (o : BitVec 3) (e : BitVec 4) (old x : Nat) : Nat :=
  if e.toNat < 8 then intReduce o (intCode e) [old, x]
  else (floatNode o (floatCode e) false ⟨old, 0⟩ ⟨x, 0⟩).bits

/-- wupd of one lane (R221). -/
def wupdLane (o : BitVec 3) (c : BitVec 4) : LaneFn := fun e s =>
  withPlace e (laneAccess e 8 8 .write true) false true s (fun p s =>
    unpoisoned e s p 8 (fun s =>
      let w := (elemOfCode c).bits
      let (bs, s) := placeRead s e.core p 8
      let old := bytesWord bs
      let new := pack w ((List.range (64 / w)).map (fun j => updElem o c (elemAt w old j) (elemAt w e.opB j)))
      .done (placeWrite s e.core e.ctx .drop p (wordBytes 8 new))))

/-- One reduction of terms into an element (R222): float add is one exact sum, rounded once. -/
def redElem (o : BitVec 3) (c : BitVec 4) (old : Nat) (xs : List Nat) : Nat :=
  if c.toNat < 8 then intReduce o (intCode c) (old :: xs)
  else
    let f := floatCode c
    if o = 0#3 then ((sumTerms ((old :: xs).map (fun x => .val (f.decode x)))).round f .rne false).bits
    else xs.foldl (fun a x => (floatNode o f false ⟨a, 0⟩ ⟨x, 0⟩).bits) old

/-- The access of a lane of wred. -/
def wredAccess (c : BitVec 4) (e : Env) : Access :=
  laneAccess e ((elemOfCode c).bits / 8) ((elemOfCode c).bits / 8) .write true

/-- wred's checks and inks for one lane; the bundle's reduction is `wredBundle`. -/
def wredCheck (c : BitVec 4) : LaneFn := fun e s =>
  withPlace e (wredAccess c e) false true s (fun p s => unpoisoned e s p ((elemOfCode c).bits / 8) (fun s => .done s))

/-- The contributions of threads that name one address, reduced at the home as one operation (R222). -/
def wredGroup (o : BitVec 3) (c : BitVec 4) (es : List Env) (s : State) : State :=
  match es with
  | [] => s
  | e :: _ =>
    let w := (elemOfCode c).bits
    match checkAccess s (wredAccess c e) with
    | (.ok p, s) =>
      let (bs, s) := placeRead s e.core p (w / 8)
      let xs := es.flatMap (fun f => elems w f.opB)
      placeWrite s e.core e.ctx .drop p (natToBytes (w / 8) (redElem o c (bytesToNat bs) xs))
    | (_, s) => s

/-- The distinct addresses of a bundle, in ascending team thread index of their first thread. -/
def wredBundle (o : BitVec 3) (c : BitVec 4) (ds : List Env) (s : State) : State :=
  ((ds.map (fun e => e.addr)).dedup).foldl (fun s a => wredGroup o c (ds.filter (fun e => e.addr == a)) s) s

/-- The other lanes of a wred's bundle at its address, still waiting, that can go on now: they reduce with it (R38, R222). -/
def wredPeers (c : BitVec 4) (e : Env) : List (Nat × Thread) → State → List Env × State
  | [], s => ([], s)
  | (k, t) :: ps, s =>
    match t.status with
    | .blocked b | .waking b =>
      if k != e.key && b.env.msg == e.msg && b.env.addr == e.addr && !b.env.replay then
        match wredCheck c b.env s with
        | .done s =>
          let (es, s) := wredPeers c e ps s
          (b.env :: es, s)
        | _ => wredPeers c e ps s
      else wredPeers c e ps s
    | _ => wredPeers c e ps s

/-- wred of a lane that goes on after a wait, with the lanes of its bundle that waited with it at its address. -/
def wredAgain (o : BitVec 3) (c : BitVec 4) : LaneFn := fun e s =>
  match wredCheck c e s with
  | .done s =>
    if e.replay then .done (wredGroup o c [e] s)
    else
      let (es, s) := wredPeers c e (s.threadsOf e.team) s
      let s := wredGroup o c ((e :: es).sortBy (fun a b => decide (a.tid ≤ b.tid))) s
      .done (es.foldl (fun s f => finishBlocked s f.key) s)
  | x => x

/-- wupd (R221), for one thread. -/
def laneWupd (o : BitVec 3) (e : BitVec 4) : LaneFn :=
  wupdLane o e

/-- wupd (R221). -/
def execWupd (sw : Bool) (o : BitVec 3) (e : BitVec 4) (a : BitVec 7) (b : Opnd)
    (s : State) : Host.Outcome State Fault Refusal :=
  runEach (.wupd sw o e a b) (laneWupd o e) s

/-- wred (R222), for one thread. -/
def laneWred (e : BitVec 4) : LaneFn :=
  wredCheck e

/-- wred (R222). -/
def execWred (sw : Bool) (o : BitVec 3) (e : BitVec 4) (a : BitVec 7) (b : Opnd)
    (s : State) : Host.Outcome State Fault Refusal :=
  runBundle (.wred sw o e a b) (fun _ _ => none) (laneWred e)
    (fun _ ds s => wredBundle o e ds s) s

/-! ### Fences and prefetch (R224, R230) -/

/-- The scope of a hint, device without one (R195). -/
def hintScope (h : Hints) : Nat := (h.scopeOr 3#3).toNat

/-- fence: the release part waits under R91, the acquire part acts under R93 once earlier loads are performed (R224). At
cluster scope or wider the stores leave the core (R73). -/
def fenceLane (k : BitVec 2) : LaneFn := fun e s =>
  let sc := hintScope e.hints
  let acq (s : State) : LaneOut :=
    .done (if k.getLsbD 0 then acquireActions (performLoads s e.core e.key) e.core sc else s)
  if k.getLsbD 1 then releaseWait e sc s acq else acq (if sc = 1 then s else flushStores s e.core)

/-- The translation of a prefetch: it never walks (R230). -/
def tlbOnly (s : State) (core ctx va : Nat) : Option TlbEntry :=
  let has (l : List TlbEntry) : Option TlbEntry :=
    (l.find? (fun t => t.covers (s.cid ctx) va)).filter (fun t => (t.reached s).isOk)
  (has (s.core core).tlb).orElse (fun _ => has (s.die (dieOf core)).tlb)

/-- pref: a fill as a default load's, or nothing (R230). A line of a round region whose observed round is unknown is filled after
the seeding query, as that load's (R146, R148); a query that cannot be made drops the pref. -/
def prefLane (far : Bool) : LaneFn := fun e s =>
  let va := e.addr.toNat
  match window e.addr with
  | .glob =>
    match tlbOnly s e.core e.ctx va with
    | none => .done s
    | some t =>
      let pa := t.pa va
      let clear := !leafI t.leaf || (match tlbOnly s e.core e.ctx (inkMapVa s e.ctx pa) with
        | some m => !leafI m.leaf && bytesToNat (physRead s (m.pa (inkMapVa s e.ctx pa)) 2) % 4096 == 0
        | none => false)
      let inside := match homeOf pa with
        | .hbm _ | .tier2 => true
        | _ => false
      let fill (s : State) : LaneOut :=
        let lo := lowAt s e (.rel 0) t
        if !far && (l1Hit s e va (regionAt t) lo).isSome then .done s
        else
          match farHit s e.core e.ctx (pa / 128) (regionAt t) lo with
          | (some k, s) =>
            if far then .done s
            else if leafR t.leaf then .done (l1Fill s e.core 0 (k.filled s e va t 0 false))
            else .done (fetchLine s e.core e.ctx va pa t false true 0).2
          | (none, s) => .done (fetchLine s e.core e.ctx va pa t false (!far) 0).2
      if !clear || !inside then .done s
      else
        match roundEntries e (.rel 0) (regionAt t).toList s with
        | (.ok (), s) => fill s
        | _ => .done s
  | _ => .done s

/-- fence (R224), for one thread. -/
def laneFence (k : BitVec 2) : LaneFn :=
  fenceLane k

/-- fence (R224). -/
def execFence (sw : Bool) (k : BitVec 2) (s : State) : Host.Outcome State Fault Refusal :=
  runEach (.fence sw k) (laneFence k) s

/-- pref (R230), for one thread. -/
def lanePref (f : Bool) : LaneFn :=
  prefLane f

/-- pref (R230). -/
def execPref (sw : Bool) (f : Bool) (a : BitVec 7) (s : State) : Host.Outcome State Fault Refusal :=
  runEach (.pref sw f a) (lanePref f) s

/-! ### Round counters (R143, R144, R231, R232) -/

/-- The region of an operand (R231). -/
def regionOf (x : Word) : Nat := bitsOf x 9 0

/-- The address of a region's counter block in the Well window (R34). -/
def counterVa (s : State) (ctx g : Nat) : Word := (s.ctx ctx).roundbase + BitVec.ofNat 64 (64 * g)

/-- An operation on a region's counter; a block outside the Well bounds raises PAGE (R35), and a poisoned one ECC (R81). The trap's
address is the counter's (log entry 35). -/
def withCounter (e : Env) (s : State) (k : Nat × Nat → State → LaneOut) : LaneOut :=
  let g := regionOf e.opB
  match counterAt s e.ctx g with
  | none => .trap s (pageTrap 9 (counterVa s e.ctx g))
  | some c =>
    if wellFilling s (c.2 + 63) then .block s .carve
    else if poisonedRange s poisonWell (wellKey c.1 c.2) 8 then .trap s (trapAt causeEcc (counterVa s e.ctx g))
    else k c s

/-- ldround, plain and acquire (R144). -/
def ldroundLane (i : Instr) (acq : Bool) : LaneFn := fun e s =>
  withCounter e s (fun c s =>
    let sc := hintScope e.hints
    let tag := some (tagWell (wellKey c.1 c.2))
    let met := if acq && sc = 5 then tagMet s tag else none
    let (n, s) := roundQuery s e.core e.ctx (regionOf e.opB) c
    let s := promoteMet (longResult s i e n 0) tag met
    .done (if acq then acquireActions s e.core sc else s))

/-- The dies whose SUBS bit is set. -/
def subscribers (x : Word) : List Nat := (List.range Config.dies).filter (fun d => bitAt x (56 + d))

/-- The cores registered in a counter's WAITERS are sent a wake (R143, R150). -/
def wakeRound (s : State) (ctx rgn : Nat) (waiters : Nat) (n : Word) : State :=
  let cores := (List.range (Config.dies * Config.coresPerDie)).filter (fun c => waiters.testBit c)
  cores.foldl (fun s c => s.updCore c (fun x => { x with wakes := x.wakes ++ [(ctx, rgn, n)] })) s

/-- The counter advances at its bank (R143): SUBS get a beacon, WAITERS are woken. -/
def advanceRound (s : State) (core ctx rgn : Nat) (c : Nat × Nat) (sc : Nat) : Word × State :=
  let old := bytesWord (wellRead s c.1 c.2 8)
  let n := if old = BitVec.allOnes 64 then old else old + 1
  let s := wellUnit s c.1 c.2 8 n.toNat
  let s := setTag s (some (tagWell (wellKey c.1 c.2))) core (tagScope sc)
  let subs := subscribers (bytesWord (wellRead s c.1 (c.2 + 8) 8))
  let s := subs.foldl (fun s d => s.updDie d (fun x => { x with beacons := x.beacons ++ [(ctx, rgn, n)] })) s
  let waiters := wellNat s c.1 (c.2 + 24) 40
  let s := wellUnit s c.1 (c.2 + 24) 40 0
  let s := wakeRound s ctx rgn waiters n
  (n, raiseObserved s core ctx rgn n)

/-- round of one lane (R143, R232). -/
def roundLane (i : Instr) : LaneFn := fun e s =>
  withCounter e s (fun c s =>
    let sc := hintScope e.hints
    releaseWait { e with addr := counterVa s e.ctx (regionOf e.opB) } sc s (fun s =>
      let (n, s) := advanceRound s e.core e.ctx (regionOf e.opB) c sc
      .done (longResult s i e n 0)))

/-- ldround (R232), for one thread. -/
def laneLdround (ins : Instr) : LaneFn :=
  ldroundLane ins false

/-- ldround (R232). -/
def execLdround (sw : Bool) (d : BitVec 7) (b : Opnd) (s : State) : Host.Outcome State Fault Refusal :=
  runEach (.ldround sw d b) (laneLdround (.ldround sw d b)) s

/-- ldround.acq (R232), for one thread. -/
def laneLdroundAcq (ins : Instr) : LaneFn :=
  ldroundLane ins true

/-- ldround.acq (R232). -/
def execLdroundAcq (sw : Bool) (d : BitVec 7) (b : Opnd) (s : State) : Host.Outcome State Fault Refusal :=
  runEach (.ldroundAcq sw d b) (laneLdroundAcq (.ldroundAcq sw d b)) s

/-- round (R232), for one thread. -/
def laneRound (ins : Instr) : LaneFn :=
  roundLane ins

/-- round (R232). -/
def execRound (sw : Bool) (d : BitVec 7) (b : Opnd) (s : State) : Host.Outcome State Fault Refusal :=
  runEach (.round sw d b) (laneRound (.round sw d b)) s

end Sys2Proof.Machine
end

