-- ==== Sys2Proof/Machine/Control.lean ====
section
/-! DEFINITION. Control flow, the return stack, the ends of threads and teams, barriers, traps by instruction, RTT and hint words (R158 to R169, R190 to R195, R239 to R250). -/

namespace Sys2Proof.Machine

/-! ### Branches and jumps (R198, R199, R239, R240) -/

/-- A thread's next PC. -/
def goTo (s : State) (e : Env) (a : Word) : State := s.updThread e.key (fun t => { t with pc := a })

/-- The target of an offset in words from the following word (R198 to R200). -/
def target {n : Nat} (e : Env) (o : BitVec n) : Word := e.npc + 4 * o.signExtend 64

/-- Whether a thread takes a branch (R198). -/
def takes (s : State) (m : BitVec 3) (p : Bool) (e : Env) : Bool := ((s.thread e.key).getM m.toNat).getLsbD 0 == p

/-- A jump to a register's address, which must be a multiple of 4 (R176, R240). -/
def aligned (a : Word) (s : State) (k : State → LaneOut) : LaneOut :=
  if a.toNat % 4 = 0 then k s else .trap s (trapAt causeAlign a)

/-- br (R239), for one thread. -/
def laneBr (m : BitVec 3) (p : Bool) (o : BitVec 21) : LaneFn :=
  fun e s => .done (goTo s e (if takes s m p e then target e o else e.npc))

/-- br (R239). -/
def execBr (sw : Bool) (m : BitVec 3) (p : Bool) (o : BitVec 21) (s : State) : Host.Outcome State Fault Refusal :=
  runEach (.br sw m p o) (laneBr m p o) s

/-- jmp (R240), for one thread. -/
def laneJmp (o : BitVec 25) : LaneFn :=
  fun e s => .done (goTo s e (target e o))

/-- jmp (R240). -/
def execJmp (sw : Bool) (o : BitVec 25) (s : State) : Host.Outcome State Fault Refusal :=
  runEach (.jmp sw o) (laneJmp o) s

/-- jmpr (R240), for one thread. -/
def laneJmpr : LaneFn :=
  fun e s => aligned e.opA s (fun s => .done (goTo s e e.opA))

/-- jmpr (R240). -/
def execJmpr (sw : Bool) (a : BitVec 7) (s : State) : Host.Outcome State Fault Refusal :=
  runEach (.jmpr sw a) laneJmpr s

/-! ### The return stack (R241 to R243) -/

/-- The checks of a return-stack access: it takes no ink, and a page with I = 1 raises INK_PAGE (R241). A write waits for a
snap that has its page still to copy (R338). -/
def stackAccess (e : Env) (va : Word) (need : Need) (s : State) : Chk (List Piece) × State :=
  let a : Access := ⟨e.core, e.ctx, e.team, va, 8, 1, need, false, false⟩
  let fail (x : XErr) (at_ : Nat) (s : State) : Chk (List Piece) × State :=
    match raiseX s a x at_ false with
    | (.trap t, s) => (.trap t, s)
    | (.fault k va, s) => (.fault k va, s)
    | (.wait w, s) => (.wait w, s)
    | (.ok _, s) => (.trap (pageTrap 8 va), s)
  match windowOf va 8 with
  | .glob =>
    match translatePieces s e.core e.ctx (pagePieces va.toNat 8) with
    | (.error (x, v), s) => fail x v s
    | (.ok ps, s) =>
      match firstDenied need ps with
      | some (x, v) => fail x v s
      | none =>
        if ps.any (fun p => leafI p.tlb.leaf) then (.trap (trapAt causeInkPage va), s)
        else if need = .write then
          match snapWait s e.ctx ps with
          | (some key, s) => (.fault key va, s)
          | (none, s) => (.ok ps, s)
        else (.ok ps, s)
  | _ => (.trap (pageTrap 8 va), s)

/-- The access checked, its watchpoints met, and then `k`. -/
def withStack (e : Env) (va : Word) (need : Need) (s : State) (k : List Piece → State → LaneOut) : LaneOut :=
  match stackAccess e va need s with
  | (.trap t, s) => .trap s t
  | (.fault key va, s) => .block s (.fault key va)
  | (.wait w, s) => .block s w
  | (.ok ps, s) =>
    match watchHit s e.ctx va.toNat 8 (need == .read) (need == .write) with
    | some w => .trap s ⟨causeWatch, 0, va, BitVec.ofNat 64 w, 0, none, false⟩
    | none => k ps s

/-- A call to a target (R160, R242): a plain store of the return address, then FD and the PC. -/
def callTo (a : Word) : LaneFn := fun e s =>
  let t := s.thread e.key
  if t.fd = 65535 then .trap s (trapOf causeIllegal)
  else aligned a s (fun s =>
    withStack e (stackSlot s t (t.fd + 1)) .write s (fun ps s =>
      let s := storeGlobal s e.core e.ctx false false ps (wordBytes 8 e.npc)
      .done (s.updThread e.key (fun t => { t with fd := t.fd + 1, pc := a }))))

/-- call (R242), for one thread. -/
def laneCall (o : BitVec 25) : LaneFn :=
  fun e s => callTo (target e o) e s

/-- call (R242). -/
def execCall (sw : Bool) (o : BitVec 25) (s : State) : Host.Outcome State Fault Refusal :=
  runEach (.call sw o) (laneCall o) s

/-- callr (R242), for one thread. -/
def laneCallr : LaneFn :=
  fun e s => callTo e.opA e s

/-- callr (R242). -/
def execCallr (sw : Bool) (a : BitVec 7) (s : State) : Host.Outcome State Fault Refusal :=
  runEach (.callr sw a) laneCallr s

/-! ### Ends of frames, threads and teams (R126, R159, R243, R244) -/

/-- The holds that a return at frame depth `fd` releases, highest first (R126); in handler mode, those taken in it
(R138). -/
def retReleases (t : Thread) : List Nat :=
  ((t.holds.filter (fun k => k.depth == t.fd && (k.h || !t.handler))).map (fun k => k.ink)).reverse

/-- Inks a thread is to release one by one; the commands of their holds come first. -/
def releasing (inks : List Nat) (after : After) (s : State) (k : State → LaneOut) : LaneOut :=
  if inks.isEmpty then k s else .block s (.releasing inks after)

/-- A return to `ra`, once the holds are released. -/
def returnTo (s : State) (key : Nat) (ra : Word) : State :=
  s.updThread key (fun t => { t with fd := t.fd - 1, pc := ra })

/-- The lines that serve the load of a return-stack slot in the L1, which then uses no TLB (R42); lines of a page with I = 1 go to the
page's own check (R241). -/
def retHit (s : State) (e : Env) : Option (List (Nat × Nat × Line)) :=
  (fastHit s e (.rel 0) 8).filter (fun ls => ls.all (fun l => !l.2.2.i))

/-- A return to the address that its slot holds, once the holds are released. -/
def retFrom (e : Env) (t : Thread) (bs : List Byte) (s : State) : LaneOut :=
  let ra := bytesWord bs
  aligned ra s (fun s => releasing (retReleases t) (.ret ra) s (fun s => .done (returnTo s e.key ra)))

/-- ret (R243), for one thread. -/
def laneRet : LaneFn :=
  fun e s =>
    let t := s.thread e.key
    if t.fd = 0 then .trap s (trapOf causeIllegal)
    else
      let va := stackSlot s t t.fd
      match retHit s { e with addr := va } with
      | some ls => withFast { e with addr := va } ls 8 s (retFrom e t)
      | none => withStack e va .read s (fun ps s =>
        match roundEntries { e with addr := va } (.rel 0) (regionsOf ps) s with
        | (.trap x, s) => .trap s x
        | (.fault key va, s) => .block s (.fault key va)
        | (.wait w, s) => .block s w
        | (.ok (), s) =>
          let ((bs, bad), s) := loadHeld e ps [] s
          if bad then .trap s (trapAt causeEcc va) else retFrom e t bs s)

/-- ret (R243). -/
def execRet (sw : Bool) (s : State) : Host.Outcome State Fault Refusal :=
  runEach (.ret sw) laneRet s

/-- The barrier of an id of a team, and its cluster's. -/
def barOf (s : State) (team id : Nat) : Barrier := Tbl.getD (s.team team).bars id ⟨[], 0⟩
def setBar (s : State) (team id : Nat) (b : Barrier) : State :=
  s.updTeam team (fun t => { t with bars := Tbl.set t.bars id b })
def cbarKey (s : State) (team id : Nat) : Nat := ((s.team team).launch * 2 ^ 24 + (s.team team).cluster) * 4 + id
def cbarOf (s : State) (team id : Nat) : Barrier :=
  Tbl.getD (s.ctx (s.team team).ctx).cbars (cbarKey s team id) ⟨[], 0⟩
def setCbar (s : State) (team id : Nat) (b : Barrier) : State :=
  s.updCtx (s.team team).ctx (fun c => { c with cbars := Tbl.set c.cbars (cbarKey s team id) b })

/-- Threads of a team that have not exited; those in quire memory count (R245). -/
def liveCount (s : State) (team : Nat) : Nat := ((s.threadsOf team).filter (fun p => p.2.live)).length

/-- The teams of a team's cluster. -/
def clusterTeams (s : State) (team : Nat) : List Nat :=
  let t := s.team team
  (s.teams.filter (fun p => p.2.launch == t.launch && p.2.cluster == t.cluster)).map (fun p => p.1)
def clusterLive (s : State) (team : Nat) : Nat := (clusterTeams s team).foldl (fun n u => n + liveCount s u) 0

/-- A team barrier completes: every arrived thread leaves (R245). -/
def completeBar (s : State) (team id : Nat) : State :=
  let b := barOf s team id
  b.arrived.foldl (fun s tid => finishBlocked s (threadKey team tid)) (setBar s team id ⟨[], b.phase + 1⟩)

/-- A cluster barrier completes: every departure is an acquire at cluster scope (R246). -/
def completeCbar (s : State) (team id : Nat) : State :=
  let b := cbarOf s team id
  let s := b.arrived.foldl (fun s k => finishBlocked s k) (setCbar s team id ⟨[], b.phase + 1⟩)
  ((b.arrived.map (fun k => (s.thread k).core)).dedup).foldl (fun s c => acquireActions s c 2) s

/-- An exit may complete a barrier (R245). -/
def settleBars (s : State) (team : Nat) : State :=
  let s := (List.range 16).foldl (fun s id =>
    let b := barOf s team id
    if !b.arrived.isEmpty && decide (liveCount s team ≤ b.arrived.length) then completeBar s team id else s) s
  (List.range 4).foldl (fun s id =>
    let b := cbarOf s team id
    if !b.arrived.isEmpty && decide (clusterLive s team ≤ b.arrived.length) then completeCbar s team id else s) s

/-- Groups per team of a team's launch (R372). -/
def groupsPerTeam (s : State) (team : Nat) : Nat :=
  match s.launch (s.team team).launch with
  | some l => fieldAt l.record 38 1
  | none => 1

/-- A slot with no thread left drains while its commands are outstanding, and then frees (R159): a spawn slot goes back
to its team while that lives (R168). -/
def freeSlot (s : State) (core ctx slot : Nat) : State :=
  match Tbl.get? (s.core core).slots (slotKey ctx slot) with
  | none => s
  | some si =>
    let tm := s.team si.team
    if !(slotThreads s core ctx slot).isEmpty || tm.spawnSlots.contains slot then s
    else if slotBusy s si.team slot then setSlotInfo s core ctx slot { si with draining := true }
    else if !tm.exited && (tm.groups.drop (groupsPerTeam s si.team)).any (fun g => g.slot == slot) then
      let s := setSlotInfo s core ctx slot ⟨si.team, false, [], false, none⟩
      s.updTeam si.team (fun t => { t with
        groups := t.groups.filter (fun g => g.slot != slot)
        spawnSlots := (t.spawnSlots ++ [slot]).sortBy (fun a b => decide (a ≤ b)) })
    else s.updCore core (fun c => { c with slots := Tbl.erase c.slots (slotKey ctx slot) })

/-- A context is the last owner of a block of a core's scratchpad (R59): the one whose team was placed on it, had it restored after a
swap, or ended on it last (DESIGN CHOICE, log entry 59). -/
def ownedBy (core ctx blk : Nat) (s : State) : State :=
  s.updCore core (fun c => { c with owner := Tbl.set c.owner blk (s.cid ctx + 1) })

/-- A team whose threads have all exited: its launch counts it (R379), its free spawn slots free, its context owned its scratchpad last
(R59), and the records it was launched with leave their node's queue (R378). -/
def endTeam (s : State) (team : Nat) : State :=
  let tm := s.team team
  let s := (List.range (tm.scrSize / 4096)).foldl (fun s b => ownedBy tm.core tm.ctx (tm.scrBase / 4096 + b) s) s
  let s := tm.spawnSlots.foldl (fun s g =>
    s.updCore tm.core (fun c => { c with slots := Tbl.erase c.slots (slotKey tm.ctx g) })) s
  let s := s.updTeam team (fun t => { t with exited := true, spawnSlots := [] })
  match s.launch tm.launch with
  | none => s
  | some l =>
    let s := s.setLaunch tm.launch { l with exits := l.exits + 1 }
    match l.node with
    | none => s
    | some n =>
      let s := s.updCtx tm.ctx (fun c => { c with nodes := match Tbl.get? c.nodes n with
        | some x => Tbl.set c.nodes n { x with busy := x.busy.filter (fun k => !(tm.nodeRecs.contains k)) }
        | none => c.nodes })
      s.wakeAll (fun t w => t.ctx == tm.ctx && w == .nodeFull n)

/-- A thread ends (R244). -/
def endThread (s : State) (key : Nat) : State :=
  let t := s.thread key
  let s := s.updThread key (fun t => { t with status := .exited, hints := Hints.empty, unit := none, trap := none
                                              replay := [], age := 0 })
  let s := settleBars s t.team
  let s := settleRendezvous s t.team
  let s := freeSlot s t.core t.ctx t.slot
  if liveCount s t.team = 0 then endTeam s t.team else s

/-- exit (R244), for one thread. -/
def laneExit : LaneFn :=
  fun e s =>
    let t := s.thread e.key
    if !t.outs.isEmpty then .block s .parkFirst
    else releasing ((t.holds.map (fun k => k.ink)).reverse) .exit s (fun s => .done (endThread s e.key))

/-- exit (R244). -/
def execExit (sw : Bool) (s : State) : Host.Outcome State Fault Refusal :=
  runEach (.exit sw) laneExit s

/-! ### brs (R167 to R169) -/

/-- Bytes of a core's quire memory in use. The teams of both contexts share it: the spec gives a team's part no size (DESIGN
CHOICE, log entry 36). -/
def quireUsed (s : State) (core : Nat) : Nat :=
  (s.teams.filter (fun p => p.2.core == core)).foldl (fun n p => p.2.spawns.foldl (fun n r => n + r.bytes) n) 0

/-- The registers that a spawn carries (R192). -/
def liveRegs (s : State) (e : Env) : List Nat :=
  if e.hints.live.isEmpty then List.range (groupOf s (s.thread e.key)).allot
  else ((e.hints.live.flatMap (fun r =>
    (List.range (r.2.toNat + 1 - r.1.toNat)).map (fun i => r.1.toNat + i))).sortBy (fun a b => decide (a ≤ b))).dedup

/-- Bytes of a spawn record (R167). -/
def spawnBytes (s : State) (e : Env) : Nat := 256 + 8 * (liveRegs s e).length

/-- A thread ends in its group, and its record goes to quire memory with the registers its own LIVE words name (R167, R192). -/
def spawnThread (s : State) (e : Env) : State :=
  let t := s.thread e.key
  let live := liveRegs s e
  let s := s.setThread e.key { t with
    status := .spawned, v := t.v.filter (fun p => live.contains p.1), bad := t.bad.filter live.contains }
  s.updTeam e.team (fun tm => { tm with spawns := tm.spawns ++ [⟨e.tid, t.pc, live, 256 + 8 * live.length, 0⟩] })

/-- The branch of a brs whose threads have all parked: each goes to its side, and the minority is spawned, where there is
room (R167, R169). -/
def splitBundle (i : Instr) (m : BitVec 3) (p : Bool) (o : BitVec 21) (es : List Env) (s : State) : State :=
  let taken := es.filter (fun e => takes s m p e)
  let fall := es.filter (fun e => !takes s m p e)
  let s := es.foldl (fun s e =>
    let s := completeLane (goTo s e (if takes s m p e then target e o else e.npc)) e.key i e
    s.updThread e.key (fun t => { t with pending := [] })) s
  if taken.isEmpty || fall.isEmpty then s
  else
    match es with
    | [] => s
    | e :: _ =>
      let minority := if taken.length ≤ fall.length then taken else fall
      if !(s.team e.team).hadSpawn
        || decide (Config.quireBytes < minority.foldl (fun n f => n + spawnBytes s f) (quireUsed s e.core)) then s
      else
        let slot := (s.thread e.key).slot
        freeSlot (minority.foldl spawnThread s) e.core e.ctx slot

/-- The threads of a brs that have not trapped while they parked. -/
def brsPeers (s : State) (b : Blocked) : List Env :=
  (s.threadsOf b.env.team).filterMap (fun p =>
    match p.2.status with
    | .blocked c => if c.why = .parkFirst && c.env.msg == b.env.msg && p.2.trap.isNone then some c.env else none
    | _ => none)

/-- Whether every one of them has its long results. -/
def brsReady (s : State) (b : Blocked) : Bool := (brsPeers s b).all (fun e => (s.thread e.key).outs.isEmpty)

/-- The park at a brs or an exit is over: the long results have returned, at a brs those of every thread that parked with it (R169,
R186, R244). -/
def parkOver (s : State) (b : Blocked) : Bool :=
  match b.instr with
  | .brs .. => brsReady s b
  | _ => (s.thread b.env.key).outs.isEmpty

/-- A brs at issue: every thread parks, and with nothing outstanding the branch is evaluated at once. -/
def brsIssued (i : Instr) (m : BitVec 3) (p : Bool) (o : BitVec 21) (es : List Env) (s : State) : State :=
  if es.all (fun e => (s.thread e.key).outs.isEmpty) then splitBundle i m p o es s else s

/-- brs (R167, R239), for one thread. -/
def laneBrs : LaneFn :=
  fun _ s => .block s .parkFirst

/-- brs (R167, R239). -/
def execBrs (sw : Bool) (m : BitVec 3) (p : Bool) (o : BitVec 21) (s : State) : Host.Outcome State Fault Refusal :=
  runBundle (.brs sw m p o) (fun _ _ => none) laneBrs
    (fun es _ s => brsIssued (.brs sw m p o) m p o es s) s

/-! ### Traps and returns (R249, R250, R387) -/

/-- trap (R249), for one thread. -/
def laneTrap : LaneFn :=
  fun e s => .trap s (trapAt causeBkpt e.opB)

/-- trap (R249). -/
def execTrap (sw : Bool) (b : Opnd) (s : State) : Host.Outcome State Fault Refusal :=
  runEach (.trap sw b) laneTrap s

/-- A read of a save slot that fails, at address `va`: a kind of R37 that is offered to host waits for it, any other traps. -/
def slotFails (s : State) (t : Thread) (x : XErr) (va : Nat) : LaneOut :=
  match x with
  | .inkPage => .trap s (trapAt causeInkPage (BitVec.ofNat 64 va))
  | .page k bits =>
    if 8 ≤ k then .trap s (pageTrap k (BitVec.ofNat 64 va))
    else
      let (key, s) := openFault s t.ctx (BitVec.ofNat 64 va) k bits 0 t.core true
      .block s (.fault key (BitVec.ofNat 64 va))

/-- The end of RTT (R387): a PC that is not a multiple of 4 raises ALIGN. -/
def finishRtt (e : Env) (s : State) : LaneOut :=
  let t := s.thread e.key
  match slotRead s t.core t.ctx (laneVa s t) 64 with
  | (.error x, s) => slotFails s t x (laneVa s t)
  | (.ok lane, s) =>
    aligned (BitVec.ofNat 64 (fieldAt lane 0 8)) s (fun s =>
      match slotRead s t.core t.ctx (replayVa s t) 576 with
      | (.ok queue, s) => .done (returnThread s e.key lane queue)
      | (.error _, s) => .done (returnThread s e.key lane []))

/-- rtt (R250, R387), for one thread. -/
def laneRtt : LaneFn :=
  fun e s =>
    let t := s.thread e.key
    if !t.handler then .trap s (trapOf causeIllegal)
    else
      match slotRead s t.core t.ctx (laneVa s t) 64 with
      | (.error x, s) => slotFails s t x (laneVa s t)
      | (.ok lane, s) =>
        aligned (BitVec.ofNat 64 (fieldAt lane 0 8)) s (fun s =>
          releasing ((rttReleases s t (fieldAt lane 8 2)).map (fun k => k.ink)) .rtt s (finishRtt e))

/-- rtt (R250, R387). -/
def execRtt (sw : Bool) (s : State) : Host.Outcome State Fault Refusal :=
  runEach (.rtt sw) laneRtt s

/-- Breakpoint halts are enabled (R249, R399). -/
def bkptHalts (c : Ctx) : Bool := bitAt c.dbgctl 0 && bitAt c.dbgctl 3

/-- bkpt (R249), for one thread. -/
def laneBkpt : LaneFn :=
  fun e s =>
    if bkptHalts (s.ctx e.ctx) then .done (haltTeam s e.team 2) else .trap s (trapAt causeBkpt 0)

/-- bkpt (R249). -/
def execBkpt (sw : Bool) (s : State) : Host.Outcome State Fault Refusal :=
  runEach (.bkpt sw) laneBkpt s

/-! ### Barriers, sleep and nop (R245 to R248) -/

/-- bar (R245, R246), for one thread. -/
def laneBar (i : BitVec 4) : LaneFn :=
  fun e s =>
    let s := performLoads s e.core e.key
    let b := barOf s e.team i.toNat
    if b.arrived.length + 1 < liveCount s e.team then
      .block (setBar s e.team i.toNat { b with arrived := b.arrived ++ [e.tid] }) (.bar i.toNat)
    else .done (completeBar s e.team i.toNat)

/-- bar (R245, R246). -/
def execBar (sw : Bool) (i : BitVec 4) (s : State) : Host.Outcome State Fault Refusal :=
  runEach (.bar sw i) (laneBar i) s

/-- cbar (R245, R246), for one thread. -/
def laneCbar (i : BitVec 2) : LaneFn :=
  fun e s =>
    let s := waitRelease (performLoads s e.core e.key) e.core 2
    let b := cbarOf s e.team i.toNat
    if b.arrived.length + 1 < clusterLive s e.team then
      .block (setCbar s e.team i.toNat { b with arrived := b.arrived ++ [e.key] }) (.cbar i.toNat)
    else .done (acquireActions (completeCbar s e.team i.toNat) e.core 2)

/-- cbar (R245, R246). -/
def execCbar (sw : Bool) (i : BitVec 2) (s : State) : Host.Outcome State Fault Refusal :=
  runEach (.cbar sw i) (laneCbar i) s

/-- sleep (R248), for one thread. -/
def laneSleep : LaneFn :=
  fun e s => if bitsOf e.opB 31 0 = 0 then .done s else .block s (.sleep (bitsOf e.opB 31 0))

/-- sleep (R248). -/
def execSleep (sw : Bool) (b : Opnd) (s : State) : Host.Outcome State Fault Refusal :=
  runEach (.sleep sw b) laneSleep s

/-- nop (R248), for one thread. -/
def laneNop : LaneFn :=
  fun _ s => .done s

/-- nop (R248). -/
def execNop (sw : Bool) (s : State) : Host.Outcome State Fault Refusal :=
  runEach (.nop sw) laneNop s

/-! ### Hint words (R190 to R195) -/

/-- pre (R191), for one thread. -/
def lanePre (m : BitVec 3) (z : Bool) (r : BitVec 3) (f : Bool) (b : BitVec 8) : LaneFn :=
  hintLane (fun x => { x with pre := some ⟨m, z, r, f, b⟩ })

/-- pre (R191). -/
def execPre (sw : Bool) (m : BitVec 3) (z : Bool) (r : BitVec 3) (f : Bool) (b : BitVec 8)
    (s : State) : Host.Outcome State Fault Refusal :=
  runEach (.pre sw m z r f b) (lanePre m z r f b) s

/-- live (R192), for one thread. -/
def laneLive (l : BitVec 7) (h : BitVec 7) : LaneFn :=
  hintLane (fun x => { x with live := x.live ++ [(l, h)] })

/-- live (R192). -/
def execLive (sw : Bool) (l : BitVec 7) (h : BitVec 7) (s : State) : Host.Outcome State Fault Refusal :=
  runEach (.live sw l h) (laneLive l h) s

/-- yield (R164, R193): held for the next n slots after this one, for one thread. -/
def laneYield (n : BitVec 8) : LaneFn :=
  fun e s => .done (s.updThread e.key (fun t => { t with status := .yielding (n.toNat + 1), age := 0 }))

/-- yield (R164, R193): held for the next n slots after this one. -/
def execYield (sw : Bool) (n : BitVec 8) (s : State) : Host.Outcome State Fault Refusal :=
  runEach (.yield sw n) (laneYield n) s

/-- off (R194), for one thread. -/
def laneOff (o : BitVec 22) : LaneFn :=
  hintLane (fun x => { x with off := some o })

/-- off (R194). -/
def execOff (sw : Bool) (o : BitVec 22) (s : State) : Host.Outcome State Fault Refusal :=
  runEach (.off sw o) (laneOff o) s

/-- scope (R195), for one thread. -/
def laneScope (c : BitVec 3) : LaneFn :=
  hintLane (fun x => { x with scope := some c })

/-- scope (R195). -/
def execScope (sw : Bool) (c : BitVec 3) (s : State) : Host.Outcome State Fault Refusal :=
  runEach (.scope sw c) (laneScope c) s

end Sys2Proof.Machine
end

