-- ==== Sys2Proof/Machine/InkOps.lean ====
section
/-! DEFINITION. ink, inkq, inkwait and inksig (R133 to R136, R225 to R229). -/

namespace Sys2Proof.Machine

/-! ### Recolouring (R136, R226, R227) -/

/-- Whether a virtual address maps into a granule. -/
def mapsInto (s : State) (ctx va pa : Nat) : Bool :=
  match pageOf s ctx (va / 2 ^ 16) with
  | some t => t.pa va / 256 == pa / 256
  | none => false

/-- The ink tags of every line of a granule, on every core, and of those on their way (R226): those of an inked page, for no other page
gives its granules an ink (R111). -/
def tagGranule (s : State) (ctx va pa new : Nat) : State :=
  let mine (line : Nat) : Bool := line * 128 / 256 == va / 256 || mapsInto s ctx (line * 128) pa
  { s with cores := s.cores.map (fun (k, c) =>
      (k, { c with l1 := c.l1.map (fun l => if l.ctx == s.cid ctx && l.i && mine l.line then { l with ink := new } else l)
                   coll := c.coll.map (fun e => if e.ctx == ctx && e.i && mine e.line then { e with ink := new } else e) })) }

/-- One granule gets its new ink: the map entry at home, by the device's own access, and the tags (R32, R226). -/
def recolour (s : State) (core ctx va pa new : Nat) : State :=
  let a := inkMapVa s ctx pa
  match lookup s core ctx a with
  | (.ok m, s) =>
    let s := beforeWrite s [⟨a, 2, m.pa a, m⟩]
    tagGranule (hwWrite s (m.pa a) (natToBytes 2 new)) ctx va pa new
  | (.error _, s) => s

/-- The wait of a recolouring whose map entry a snap has still to copy (R338). -/
def mapWait (s : State) (core ctx pa : Nat) : Option Nat × State :=
  match lookup s core ctx (inkMapVa s ctx pa) with
  | (.ok m, s) => snapKey s ctx m
  | (.error _, s) => (none, s)

/-- A lane's access at a granule. -/
def granuleAccess (e : Env) (va : Word) : Access := ⟨e.core, e.ctx, e.team, va, 256, 1, .write, false, false⟩

/-- A wait at a granule, which its number stays with (R226). -/
def granuleWait (i : Nat) : Why → Why
  | .carve => .inkCarve i
  | .fault key _ => .inkFault key i
  | w => w

/-- What a check at a granule comes to, where it does not pass. -/
def granuleStop {α : Type} (i : Nat) (s : State) (r : Chk α) (k : α → LaneOut) : LaneOut :=
  match r with
  | .trap x => .trap s x
  | .fault key _ => .block s (.inkFault key i)
  | .wait w => .block s (granuleWait i w)
  | .ok a => k a

/-- The granules of an ink, in ascending address, from number `i` on: each waits for its old ink where another thread
holds it (R136). -/
def inkGranules (e : Env) (t : TlbEntry) (new : Nat) : Nat → Nat → State → LaneOut
  | 0, _, s => .done s
  | n + 1, i, s =>
    let va := e.addr + BitVec.ofNat 64 (256 * i)
    let pa := t.pa va.toNat
    let go (s : State) : LaneOut :=
      match mapWait s e.core e.ctx pa with
      | (some key, s) => .block s (.inkFault key i)
      | (none, s) => inkGranules e t new n (i + 1) (recolour s e.core e.ctx va.toNat pa new)
    match inkOf s false e.core e.ctx pa with
    | (.error x, s) =>
      let (r, s) := raiseX s (granuleAccess e va) x va.toNat true
      granuleStop i s r (fun _ => .done s)
    | (.ok j, s) =>
      let th := s.thread e.key
      if j = 0 || j = new || th.holdsInk j then go s
      else
        let (r, s) := resolveInk s e.core e.ctx va false j
        granuleStop i s r (fun d =>
          if !monHeld s d.blk then go s
          else if !d.device && dieOf e.core != d.home then .trap s (inkTrap causeInkScope va j)
          else if j < th.maxHeld then .trap s (inkTrap causeInkOrder va j)
          else if wellFilling s (d.mon + 63) then .block s (.inkCarve i)
          else
            let (_, tk, s) := takeTicket s d.blk e.core th.tag j (s.ctx e.ctx).ctxid
            .block s (.inkOld j tk d.blk i))

/-- Where an ink goes on: past the granule whose old ink it waited for, or at the one it stood at. -/
def inkStart (t : Thread) : Nat :=
  match t.status with
  | .waking b =>
    match b.why with
    | .inkOld _ _ _ i => i + 1
    | .inkFault _ i | .inkCarve i => i
    | _ => 0
  | _ => 0

/-- The checks at the granule where the ink goes on, and then the granules: the page and its ink map (R36), the watchpoints of the
granules still to come (R401), and the new ink. A new ink whose
descriptor is valid is not checked for its monitor block: one whose block fails the Well bounds is taken all the same (DESIGN
CHOICE, log entry 47). -/
def inkPage (e : Env) (n new : Nat) (p : Piece) (s : State) : LaneOut :=
  let i := inkStart (s.thread e.key)
  let va := e.addr + BitVec.ofNat 64 (256 * i)
  if !leafI p.tlb.leaf then .trap s (trapAt causeInkPage va)
  else if !leafW p.tlb.leaf then
    let (r, s) := raiseX s (granuleAccess e va) (.page 1 p.tlb.bits) va.toNat false
    granuleStop i s r (fun _ => .trap s (pageTrap 1 va))
  else
    match inkOf s false e.core e.ctx (p.tlb.pa va.toNat) with
    | (.error x, s) =>
      let (r, s) := raiseX s (granuleAccess e va) x va.toNat true
      granuleStop i s r (fun _ => .done s)
    | (.ok _, s) =>
      match watchHit s e.ctx va.toNat (256 * (n - i)) false true with
      | some w => .trap s ⟨causeWatch, 0, va, BitVec.ofNat 64 w, 0, none, false⟩
      | none =>
        if new = 0 then inkGranules e p.tlb new (n - i) i s
        else
          match resolveInk s e.core e.ctx va false new with
          | (.trap x, s) => if x.cause = causeInkScope then .trap s x else inkGranules e p.tlb new (n - i) i s
          | (r, s) => granuleStop i s r (fun _ => inkGranules e p.tlb new (n - i) i s)

/-- ink (R136, R226), for one thread. One that has waited at its last granule is done. -/
def laneInk : LaneFn :=
  fun e s =>
    let n := bitsOf e.opB 40 32
    let new := bitsOf e.opB 11 0
    if n ≤ inkStart (s.thread e.key) then .done s
    else
      match window e.addr with
      | .glob =>
        if e.addr.toNat % 256 != 0 || decide (2 ^ 16 < e.addr.toNat % 2 ^ 16 + 256 * n) then
          .trap s (trapAt causeAlign e.addr)
        else
          let i := inkStart (s.thread e.key)
          let va := e.addr + BitVec.ofNat 64 (256 * i)
          match translatePieces s e.core e.ctx [(e.addr.toNat, 256 * n)] with
          | (.error (x, _), s) =>
            let (r, s) := raiseX s (granuleAccess e va) x va.toNat false
            granuleStop i s r (fun _ => .done s)
          | (.ok [], s) => .done s
          | (.ok (p :: _), s) => inkPage e n new p s
      | _ => .trap s (pageTrap 8 e.addr)

/-- ink (R136, R226). -/
def execInk (sw : Bool) (a : BitVec 7) (b : Opnd) (s : State) : Host.Outcome State Fault Refusal :=
  runEach (.ink sw a b) laneInk s

/-! ### The state of a granule (R228) -/

/-- inkq (R228), for one thread. -/
def laneInkq (ins : Instr) : LaneFn :=
  fun e s =>
    match checkAccess s (laneAccess e 1 1 .read false) with
    | (.trap t, s) => .trap s t
    | (.fault key va, s) => .block s (.fault key va)
    | (.wait w, s) => .block s w
    | (.ok p, s) =>
      match watchHit s e.ctx e.addr.toNat 1 true false with
      | some w => .trap s ⟨causeWatch, 0, e.addr, BitVec.ofNat 64 w, 0, none, false⟩
      | none =>
        let x := match p with
          | .glob ps js =>
            let j := (js.head?).getD 0
            (if ps.any (fun q => leafI q.tlb.leaf) then 2 ^ 13 else 0)
              + (if j != 0 && (s.thread e.key).holdsInk j then 2 ^ 12 else 0) + j
          | _ => 0
        .done (longResult s ins e (BitVec.ofNat 64 x) 0)

/-- inkq (R228). -/
def execInkq (sw : Bool) (d : BitVec 7) (a : BitVec 7) (s : State) : Host.Outcome State Fault Refusal :=
  runEach (.inkq sw d a) (laneInkq (.inkq sw d a)) s

/-! ### Waiting inside a monitor (R133, R134, R229) -/

/-- The word at an address as its home holds it, for a watch that is armed (R133). -/
def watchedWord (s : State) (core ctx team : Nat) (va : Word) : Option Word :=
  match checkAccess s ⟨core, ctx, team, va, 8, 8, .read, false, false⟩ with
  | (.ok (.glob ps _), s) => some (bytesWord (ps.flatMap (fun p => physRead s p.pa p.len)))
  | (.ok (.well d o), s) => some (bytesWord (wellRead s d o 8))
  | _ => none

/-- A fresh wait: the read, the arming of the watch and the release form one step (R133). -/
def inkwaitFresh (e : Env) (k : Nat) (p : Place) (s : State) : LaneOut :=
  unpoisoned e s p 8 (fun s =>
    let (bs, s) := placeRead s e.core p 8
    let d := heldDesc s e.core e.ctx k
    let s0 := monSig s d.blk
    let s := s.updThread e.key (fun t => t.suspendHold k true)
    let s := releaseInk s e.key k false
    .block s (.watch e.addr (bytesWord bs) k s0))

/-- inkwait (R133, R229), for one thread. One that takes its suspended ink up again asks for it as any acquisition does, its
descriptor checked first (R114). -/
def laneInkwait : LaneFn :=
  fun e s =>
    match windowOf e.addr 8 with
    | .scr _ _ => .trap s (pageTrap 8 e.addr)
    | _ =>
      match checkAccess s (laneAccess e 8 8 .read false) with
      | (.trap t, s) => .trap s t
      | (.fault key va, s) => .block s (.fault key va)
      | (.wait w, s) => .block s w
      | (.ok p, s) =>
        let t := s.thread e.key
        let j := e.opB.toNat
        match t.holds.find? (fun k => k.ink == j) with
        | none => .trap s (inkTrap causeInkOrder e.addr j)
        | some k =>
          if j < t.maxHeld then .trap s (inkTrap causeInkOrder e.addr j)
          else if k.w then
            if e.replay && e.watch then .block s (.watch e.addr e.opC j (e.opD.setWidth 32))
            else
              match inkDesc s e.core e.ctx e.addr false j with
              | (.trap x, s) => .trap s x
              | (.fault key va, s) => .block s (.fault key va)
              | (.wait w, s) => .block s w
              | (.ok _, s) => .block s (.inkReq j e.msg e.addr)
          else if !k.cmds.isEmpty then .block s .holdCmds
          else inkwaitFresh e j p s

/-- inkwait (R133, R229). -/
def execInkwait (sw : Bool) (a : BitVec 7) (b : Opnd) (s : State) : Host.Outcome State Fault Refusal :=
  runEach (.inkwait sw a b) laneInkwait s

/-- inksig (R134, R229), for one thread. It has no data address: its INK_SCOPE records ADDR 0, and a failure of the
descriptor's own page or of its Well bounds the descriptor's address (DESIGN CHOICE, log entry 37). -/
def laneInksig : LaneFn :=
  fun e s =>
    let j := e.opB.toNat
    if j = 0 || 4095 < j then .trap s (inkTrap causeInkScope 0 j)
    else
      match inkDesc s e.core e.ctx ((s.ctx e.ctx).inkdesc + BitVec.ofNat 64 (8 * j)) false j with
      | (.trap t, s) => .trap s (if t.cause = causeInkScope then { t with addr := 0 } else t)
      | (.fault key va, s) => .block s (.fault key va)
      | (.wait w, s) => .block s w
      | (.ok d, s) =>
        if wellFilling s (d.mon + 63) then .block s .carve
        else .done (monWrite s d.blk 2 (setBits (monRead s d.blk 2) 63 32 ((monSig s d.blk).toNat + 1)))

/-- inksig (R134, R229). -/
def execInksig (sw : Bool) (b : Opnd) (s : State) : Host.Outcome State Fault Refusal :=
  runEach (.inksig sw b) laneInksig s

end Sys2Proof.Machine
end

