-- ==== Sys2Proof/Machine/Engine.lean ====
section
/-! DEFINITION. What every engine command shares: its issue (R328, R330), its accesses (R41, R106, R128), its end
and the record of it (R107, R329, R346), and what a wait for it does (R108, R344). -/

namespace Sys2Proof.Machine

/-! ### Engine accesses -/

/-- What an access of an engine comes to: done, waiting for a block of the scratchpad or of the Well, stopped at a fault
offered to host (R41), or failed with an EKIND, a PAGE kind and an address (R331). -/
inductive Eng (α : Type) where
  | ok (a : α) (s : State)
  | wait (s : State)
  | fault (key : Nat) (va : Word) (s : State)
  | fail (ekind pkind : Nat) (addr : Word) (s : State)

/-- One access after another. -/
def Eng.bind {α β : Type} (x : Eng α) (f : α → State → Eng β) : Eng β :=
  match x with
  | .ok a s => f a s
  | .wait s => .wait s
  | .fault k va s => .fault k va s
  | .fail e p a s => .fail e p a s

/-- Whether the issuer of a command holds an ink (R128). -/
def issuerHolds (s : State) (c : Cmd) (j : Nat) : Bool := j == 0 || (s.thread (threadKey c.team c.tid)).holdsInk j

/-- A fault offered to host suspends the command. -/
def engFault {α : Type} (s : State) (c : Cmd) (va kind bits : Nat) (write ink : Bool) : Eng α :=
  let (key, s) := openFault s c.ctx (BitVec.ofNat 64 va) kind bits (accessByte write false true ink false) c.core false
  .fault key (BitVec.ofNat 64 va) s

/-- One page's piece of a global access: translation, permission, and the inks of its granules (R36, R41, R128). An entry that
raises INK_PAGE fails the ink check (log entry 18). A write of another command to a page that a snap has still to copy waits
for it (R338). -/
def engPiece (c : Cmd) (write : Bool) (va n : Nat) (s : State) : Eng Piece :=
  match dieLookup s c.core c.ctx va with
  | (.error .inkPage, s) => .fail 2 0 (BitVec.ofNat 64 va) s
  | (.error (.page k bits), s) => engFault s c va k bits write false
  | (.ok t, s) =>
    if write && !leafW t.leaf then engFault s c va 1 t.bits write false
    else
      let p : Piece := ⟨va, n, t.pa va, t⟩
      let ready (s : State) : Eng Piece :=
        if write && c.op != .snap then
          match snapKey s c.ctx t with
          | (some key, s) => .fault key (BitVec.ofNat 64 va) s
          | (none, s) => .ok p s
        else .ok p s
      if leafI t.leaf then
        match inksOfGranules s true c.core c.ctx p (granulesOf p) with
        | (.error (.inkPage, _), s) => .fail 2 0 (BitVec.ofNat 64 va) s
        | (.error (.page k bits, _), s) => engFault s c va k bits write true
        | (.ok js, s) => if js.all (issuerHolds s c) then ready s else .fail 2 0 (BitVec.ofNat 64 va) s
      else ready s

/-- The pieces of a range, page by page of 64 KiB. -/
def rangePieces : Nat → Nat → Nat → List (Nat × Nat)
  | 0, _, _ => []
  | k + 1, va, n =>
    if n = 0 then []
    else
      let m := min n (2 ^ 16 - va % 2 ^ 16)
      (va, m) :: rangePieces k (va + m) (n - m)

def engPieces (c : Cmd) (write : Bool) : List (Nat × Nat) → State → Eng (List Piece)
  | [], s => .ok [] s
  | (va, n) :: ps, s =>
    (engPiece c write va n s).bind (fun p s => (engPieces c write ps s).bind (fun qs s => .ok (p :: qs) s))

/-- Whether a command is another's: the one that a link belongs to goes on (R359). -/
def Cmd.same (c d : Cmd) : Bool := c.core == d.core && c.cls == d.cls && c.seq == d.seq

/-- Where an access of a command stands. One that meets a block not restored demands it, and one that meets a bucket head held by
another's link waits (R359, R390). -/
def engPlace (c : Cmd) (write : Bool) (va : Word) (n : Nat) (s : State) : Eng Place :=
  match windowOf va n with
  | .bad => .fail 1 8 va s
  | .well d o =>
    if !wellBounds s c.ctx d o n then .fail 1 9 va s
    else if wellFilling s (o + n - 1) || headHeld s (wellKey d o) n c.same then .wait s
    else .ok (.well d o) s
  | .scr i o =>
    match scratchAt s c.team i o n with
    | none => .fail 1 10 va s
    | some (key, core) =>
      if awaited s core key n then .wait (demand s core (awaitedBlock s core key n)) else .ok (.scr key core) s
  | .glob => (engPieces c write (rangePieces (n / 2 ^ 16 + 2) va.toNat n) s).bind (fun ps s => .ok (.glob ps []) s)

/-- A read at home, at a bank or at a scratchpad (R106); poison ends the command (R81). -/
def engRead (c : Cmd) (va : Word) (n : Nat) (s : State) : Eng (List Byte) :=
  if n = 0 then .ok [] s
  else (engPlace c false va n s).bind (fun p s =>
    let s := placeSettle s c.core p
    if placePoisoned s p n then .fail 3 0 va s
    else
      let (bs, s) := placeRead s c.core p n
      .ok bs s)

/-- A write of an engine, which updates no L1 line (R106). -/
def engPut (s : State) (p : Place) (bs : List Byte) : State :=
  match p with
  | .glob ps _ =>
    ((ps.foldl (fun (a : State × List Byte) q => (physWrite a.1 q.pa (a.2.take q.len), a.2.drop q.len))
      (beforeWrite s ps, bs))).1
  | .well d o => wellWrite s d o bs
  | .scr k _ => scratchWrite s k bs

/-- The places of several writes. -/
def engPlaces (c : Cmd) : List (Word × List Byte) → State → Eng (List (Place × List Byte))
  | [], s => .ok [] s
  | (va, bs) :: ws, s =>
    if bs.isEmpty then engPlaces c ws s
    else (engPlace c true va bs.length s).bind (fun p s =>
      (engPlaces c ws s).bind (fun qs s => .ok ((p, bs) :: qs) s))

/-- Several writes: all are translated before the first is performed. -/
def engWrites (c : Cmd) (ws : List (Word × List Byte)) (s : State) : Eng Unit :=
  (engPlaces c ws s).bind (fun ps s => .ok () (ps.foldl (fun s p => engPut s p.1 p.2) s))

/-! ### Ends of waits for a fault or a snap -/

/-- A fault closes; commands, trap entries and spills no longer wait for it. -/
def closeFault (s : State) (ctx key : Nat) : State :=
  let s := s.updCtx ctx (fun c => { c with faults := c.faults.filter (fun f => f.key != key) })
  let clear (x : Option Nat) : Option Nat := if x = some key then none else x
  { s with cores := s.cores.map (fun p => (p.1, { p.2 with
      cmds := p.2.cmds.map (fun q => (q.1, { q.2 with fault := clear q.2.fault }))
      slots := p.2.slots.map (fun q => (q.1, { q.2 with wait := clear q.2.wait }))
      spillWait := clear p.2.spillWait })) }

/-- Every waiting access translates again. -/
def resolveFault (s : State) (ctx key : Nat) : State :=
  (closeFault s ctx key).wakeAll (fun _ w => w.onFault key)

/-! ### The table of commands (R330) -/

def getCmd (s : State) (core cls seq : Nat) : Option Cmd := Tbl.get? (s.core core).cmds (cmdKey cls seq)
def setCmd (s : State) (c : Cmd) : State :=
  s.updCore c.core (fun x => { x with cmds := Tbl.set x.cmds (cmdKey c.cls c.seq) c })

/-- The handle of a command. -/
def cmdHandle (s : State) (c : Cmd) : Word := handleWord (s.ctx c.ctx).ctxid c.core c.cls c.slot c.seq

/-- Status codes (R331). -/
def stQueued : Nat := 0
def stRunning : Nat := 1
def stDone : Nat := 2
def stCancelled : Nat := 3
def stError : Nat := 4
def stStopped : Nat := 5

/-- A handle whose command is recorded as complete, or no longer kept (R330). -/
def handleDone (s : State) (h : Word) : Bool :=
  bitsOf h 31 0 == 0 || (match handleParts h with
    | none => true
    | some (core, k) => match Tbl.get? (s.core core).cmds k with | some c => c.recorded | none => true)

/-- A handle whose command is complete, recorded or not. -/
def handleEnded (s : State) (h : Word) : Bool :=
  handleDone s h || (match handleParts h with
    | none => true
    | some (core, k) => match Tbl.get? (s.core core).cmds k with | some c => decide (2 ≤ c.status) | none => true)

/-- The class-3 commands of a context that name a set and are not complete (R353). -/
def ligRunning (s : State) (ctx set : Nat) : List Cmd :=
  s.cores.flatMap (fun p => (p.2.cmds.filter (fun q => q.2.cls == 3 && q.2.ctx == ctx && q.2.setNo == set
    && decide (q.2.status < 2))).map (fun q => q.2))

/-- Those commands by core and SEQ, and whether those of a list have completed: the ones that passed issue before a closing operation
(R352, R353). -/
def ligBefore (s : State) (ctx set : Nat) : List (Nat × Nat) := (ligRunning s ctx set).map (fun c => (c.core, c.seq))
def drainedOf (s : State) (ctx set : Nat) (cmds : List (Nat × Nat)) : Bool := cmds.all (fun x => !(ligBefore s ctx set).contains x)

/-- Threads whose wait for commands has ended. -/
def commandWakes (s : State) : State :=
  s.wakeAll (fun t w => match w with
    | .waith h => handleDone s h
    | .waitc cls n => decide (Tbl.getD (s.team t.team).counters (t.slot * 4 + cls) 0 ≤ n)
    | .palette hs => hs.all (handleEnded s)
    | .holdCmds => true
    | .snap => (s.ctx t.ctx).snap.isNone
    | .ligDrain set _ cmds => drainedOf s t.ctx set cmds
    | _ => false)

/-! ### Ends of commands -/

/-- Forms that write STATUS and PROG into their descriptor (R329). -/
def writesDesc : Op → Bool
  | .cpy | .cpyt | .snap | .gath | .scatadd | .kstore | .lgather | .lgsig => true
  | _ => false

/-- STATUS at byte 40 and PROG at bytes 36 to 39 of the descriptor (R329). -/
def writeDesc (s : State) (c : Cmd) : State :=
  match window c.addr with
  | .scr i o =>
    match scratchAt s c.team i o 64 with
    | some (key, _) => scratchWrite s (key + 36) (natToBytes 4 c.prog ++ natToBytes 1 c.status)
    | none => s
  | _ => s

/-- A class counter of a group changes (R107). -/
def addCounter (s : State) (team slot cls : Nat) (d : Int) : State :=
  s.updTeam team (fun t =>
    let k := slot * 4 + cls
    { t with counters := Tbl.put 0 t.counters k (Tbl.getD t.counters k 0 + d).toNat })

/-- A completion is recorded (R107): the class counter falls, and the holds that recorded the command forget it (R129). -/
def recordNow (s : State) (c : Cmd) : State :=
  let h := cmdHandle s c
  let s := setCmd s { c with recorded := true }
  let s := addCounter s c.team c.slot c.cls (-1)
  let s := s.updThread (threadKey c.team c.tid) (fun t => { t with holds := t.holds.map (fun k =>
    { k with cmds := k.cmds.filter (fun x => x != h) }) })
  let s := if c.op = .lgproj && c.status = stCancelled then reopenSet s c.ctx c.setNo else s
  freeSlot s c.core c.ctx c.slot

/-- Commands of a group and class issued before one and not yet recorded. -/
def olderOpen (s : State) (c : Cmd) : Bool :=
  (s.core c.core).cmds.any (fun p => p.2.cls == c.cls && p.2.team == c.team && p.2.slot == c.slot
    && decide (p.2.seq < c.seq) && !p.2.recorded)

/-- One command's turn to be recorded: behind every older one of its class and group; a queued one that was cancelled is
complete then (R345), and one with .evt is recorded when its event record is posted (R346). -/
def recordOne (s : State) (core cls seq : Nat) : State :=
  match getCmd s core cls seq with
  | none => s
  | some c =>
    if c.recorded || olderOpen s c then s
    else
      let c := if c.status = stQueued && c.cancel then { c with status := stCancelled } else c
      if c.status < 2 then s
      else if c.evt then
        if c.held then s
        else
          let s := setCmd s { c with held := true }
          pushEvent s c.ctx ⟨cmdHandle s c, c.status, c.ekind, c.prog, some (core, cls, seq)⟩
      else recordNow s c

/-- Every command of a class takes its turn, in issue order. -/
def recordClass (s : State) (core cls : Nat) : State :=
  let seqs := ((s.core core).cmds.filter (fun p => p.2.cls == cls && !p.2.recorded)).map (fun p => p.2.seq)
  commandWakes (seqs.foldl (fun s n => recordOne s core cls n) s)

/-- A command ends with a status, an EKIND, a PAGE kind, an address and its progress index; a head that it held is free. -/
def finishCmd (s : State) (c : Cmd) (status ekind pkind : Nat) (addr : Word) (prog : Nat) : State :=
  let held := c.link.isSome
  let c := { c with status := status, ekind := ekind, pkind := pkind, eaddr := addr, prog := prog, fault := none, link := none }
  let s := if writesDesc c.op then writeDesc s c else s
  recordClass (if held then (setCmd s c).wakeAll (fun _ w => w == .bucket) else setCmd s c) c.core c.cls

/-- What a run of rows comes to: the command ends, or goes on later from row `r`. -/
def runRows (row : Nat → State → Eng Unit) (c : Cmd) (total : Nat) : Nat → State → State
  | 0, s => finishCmd s c stDone 0 0 0 total
  | n + 1, s =>
    let r := total - (n + 1)
    match row r s with
    | .ok () s => runRows row c total n s
    | .wait s => setCmd s { c with at_ := r }
    | .fault key va s => setCmd s { c with at_ := r, fault := some key, faultVa := va }
    | .fail ek pk a s => finishCmd s c stError ek pk a r

/-- A command that can run now: not complete, not cancelled while queued, not suspended by a fault. -/
def canRun (s : State) (c : Cmd) : Bool :=
  decide (c.status < 2) && !(c.status == stQueued && c.cancel) && c.fault.isNone && !(s.ctx c.ctx).stopped

/-- A command starts: before its first access every store of the core is performed (R106). -/
def startCmd (s : State) (c : Cmd) : Cmd × State :=
  if c.started then (c, s)
  else
    let c := { c with started := true, status := stRunning }
    (c, setCmd (waitRelease s c.core 3) c)

/-! ### Waits for commands -/

/-- A descriptor as R333, R339 and R362 read it. -/
def descNat (c : Cmd) (o n : Nat) : Nat := fieldAt c.desc o n

/-- Rows of a range: `rows` of `len` bytes, `stride` apart. -/
def rowRanges (base len stride rows : Nat) : List (Nat × Nat) :=
  if rows ≤ 1 || stride = len then [(base, len * (rows - 1) + len)]
  else (List.range rows).map (fun r => (base + r * stride, len))

/-- Bytes of an element of cpyt (R332). -/
def copyEs (op : Op) (es : Nat) : Nat := if op = .cpyt then 2 ^ es else 1

/-- The destination ranges that a command writes (R108). -/
def destRanges (c : Cmd) : List (Nat × Nat) :=
  let d := descNat c
  match c.op with
  | .cpy => rowRanges (d 8 8) (d 16 4) (d 28 4) (d 20 4)
  | .cpyt => rowRanges (d 8 8) (d 20 4 * copyEs .cpyt (d 34 1)) (d 28 4) (d 16 4)
  | .gath => rowRanges (d 8 8) (d 26 2) (d 34 2) (d 24 2)
  | .snap =>
    (List.range (d 8 2)).map (fun i => ((c.idx[3 * i + 2]?).getD 0, (c.idx[3 * i + 1]?).getD 0))
  | .scatadd =>
    let es := if fieldAt c.cfg 28 1 = 1 ∨ fieldAt c.cfg 28 1 = 2 then 2 else 4
    [(d 0 8, 64), (fieldAt c.cfg 0 8, 16 * fieldAt c.cfg 8 4), (fieldAt c.cfg 16 8, es * fieldAt c.cfg 24 4)]
  | .ast => [(c.addr.toNat, 512 * (bitsOf c.opnd 22 16 + 1))]
  | .kstore => rowRanges (d 8 8) (2 * fieldAt c.cfg 0 2) (d 18 2) (d 24 2) ++ c.idx.map (fun a => (a, 12))
  | _ => []

/-- The far-way copies of a global range of a context go. -/
def farDropRange (s : State) (die ctx va n : Nat) : State :=
  (rangePieces (n / 2 ^ 16 + 2) va n).foldl (fun s p =>
    match pageOf s ctx (p.1 / 2 ^ 16) with
    | some t => farDrop s die (t.pa p.1) p.2
    | none => s) s

/-- The waiter's L1 lines and its die's far-way copies of what a command wrote go (R108, R109). -/
def coverCmd (s : State) (core : Nat) (c : Cmd) : State :=
  ((destRanges c).filter (fun r => decide (r.1 < 2 ^ 56) && decide (0 < r.2))).foldl (fun s r =>
    farDropRange (l1DropRange s core c.ctx r.1 r.2) (dieOf core) c.ctx r.1 r.2) s

/-- The trap that a wait raises for a command's error (R344, R385). -/
def errorTrap (s : State) (c : Cmd) : Trap :=
  let h := cmdHandle s c
  let prog := BitVec.ofNat 64 c.prog
  let mk (cause kind : Nat) (addr : Word) : Trap := ⟨cause, kind, addr, h, prog, none, false⟩
  match c.ekind with
  | 1 => mk causePage c.pkind c.eaddr
  | 2 => mk causeInkAsync 0 0
  | 3 => mk causeEcc 0 c.eaddr
  | 4 => mk causeMxFault 0 c.eaddr
  | 5 => mk causeLigDense 0 0
  | 6 => mk causeLigPool 0 0
  | _ => mk causeLigState 0 0

/-- A command whose error no wait and no test has reported. -/
def Cmd.unreported (c : Cmd) : Bool := c.recorded && c.status == stError && !c.reported

/-- A core keeps the status of this command no longer: 65,536 later commands of its class have been issued, and it has no error
still to report (R330). Its destination ranges are kept, for the waits that cover it still (R108). -/
def Cmd.forgotten (c : Cmd) (s : State) : Bool :=
  c.recorded && !c.unreported && decide (c.seq + 65536 ≤ Tbl.getD (s.core c.core).seqs c.cls 0)

/-- An error is reported: the issue that 256 of them held goes on (R330). -/
def reportCmd (s : State) (c : Cmd) : State :=
  (setCmd s { c with reported := true }).wakeAll (fun t w => t.core == c.core && w == .errors c.cls)

/-! ### Issue (R328, R330) -/

/-- A command with nothing done. -/
def Cmd.fresh (cls seq now : Nat) (op : Op) (t : Thread) (evt : Bool) : Cmd where
  cls := cls; seq := seq; op := op; ctx := t.ctx; core := t.core; team := t.team; tid := t.tid; slot := t.slot; issued := now
  past := false; evt := evt; addr := 0; opnd := 0; desc := []; idx := []; status := stQueued; ekind := 0; pkind := 0; eaddr := 0
  prog := 0; cancel := false; reported := false; recorded := false; held := false; at_ := 0; ks := 0
  started := false; leave := none; retired := false; stop := none; fault := none; faultVa := 0; gen := 0
  cfg := []; setNo := 0; drains := []; link := none

/-- The command exists (R328): the handle is written, to be read in the next cycle (R184), the class counter rises (R107), and every
valid hold records it (R129). Earlier loads of the thread are performed first (R106). 256 unreported errors of the class hold the issue. -/
def createCmd (e : Env) (h : BitVec 4) (cls : Nat) (op : Op) (evt : Bool) (f : Cmd → Cmd) (s : State) : LaneOut :=
  if 256 ≤ ((s.core e.core).cmds.filter (fun p => p.2.cls == cls && p.2.unreported)).length then
    .block s (.errors cls)
  else
    let s := performLoads s e.core e.key
    let t := s.thread e.key
    let seq := Tbl.getD (s.core e.core).seqs cls 0 + 1
    let c := f (Cmd.fresh cls seq s.now op t evt)
    let s := s.updCore e.core (fun x => { x with seqs := Tbl.set x.seqs cls seq })
    let s := setCmd s c
    let w := cmdHandle s c
    let s := s.updThread e.key (fun t =>
      { t.setH h.toNat w with
        holds := t.holds.map (fun k => { k with cmds := k.cmds ++ [w] })
        ilock := Tbl.set t.ilock (136 + h.toNat) (s.now + 1) })
    .done (addCounter s e.team t.slot cls 1)

/-- Step 2 of R328: a descriptor of `n` bytes, aligned to its size, in the scratchpad window. -/
def withDesc (e : Env) (n : Nat) (s : State) (k : List Byte → State → LaneOut) : LaneOut :=
  match (s.thread e.key).hasRead e.msg with
  | some r => k r.desc s
  | none =>
    match windowOf e.addr n with
    | .scr _ _ =>
      match checkAccess s (laneAccess e n n .read false) with
      | (.trap t, s) => .trap s t
      | (.fault key va, s) => .block s (.fault key va)
      | (.wait w, s) => .block s w
      | (.ok p, s) => unpoisoned e s p n (fun s =>
        let (bs, s) := placeRead s e.core p n
        (k bs s).keepRead e (fun r => { r with desc := bs }))
    | _ => .trap s (pageTrap 8 e.addr)

/-- A list that an issue reads once, by `read`, which hands it on. -/
def withList (e : Env) (s : State) (read : State → (List Nat → State → LaneOut) → LaneOut) (k : List Nat → State → LaneOut) :
    LaneOut :=
  match ((s.thread e.key).hasRead e.msg).bind IssueRead.list with
  | some xs => k xs s
  | none => read s (fun xs s => (k xs s).keepRead e (fun r => { r with list := some xs }))

/-- A malformed field: MX_FAULT names its address (R328). -/
def mxTrap (va : Word) (o : Nat) : Trap := trapAt causeMxFault (va + BitVec.ofNat 64 o)

/-- The offset of the first field whose check fails. -/
def firstBad : List (Nat × Bool) → Option Nat
  | [] => none
  | (o, ok) :: fs => if ok then firstBad fs else some o

/-- Reserved bytes `lo` to `hi` are zero. -/
def zeros (bs : List Byte) (lo hi : Nat) : List (Nat × Bool) :=
  (List.range (hi + 1 - lo)).map (fun i => (lo + i, fieldAt bs (lo + i) 1 == 0))

/-- The checks of a descriptor's fields (step 3 of R328). -/
def withFields (e : Env) (fs : List (Nat × Bool)) (s : State) (k : State → LaneOut) : LaneOut :=
  match firstBad fs with
  | some o => .trap s (mxTrap e.addr o)
  | none => k s

/-- A range of `n` bytes lies in one window, one die of the Well or one scratchpad (R17, R18), and within the team's
scratchpad allocation (R328). -/
def rangeOk (s : State) (team va n : Nat) : Bool :=
  decide (0 < n) && decide (va + n ≤ 2 ^ 64) && (match windowOf (BitVec.ofNat 64 va) n with
    | .bad => false
    | .scr i o => (scratchAt s team i o n).isSome
    | _ => true)

/-- A range that must lie in the scratchpad window. -/
def scrRange (s : State) (team va n : Nat) : Bool :=
  match window (BitVec.ofNat 64 va) with
  | .scr _ _ => n == 0 || rangeOk s team va n
  | _ => false

/-- An address in the global window. -/
def inGlobal (va : Nat) : Bool := decide (va < 2 ^ 56)

/-- The inks of the first bytes of global operands, each with its operand (R128). -/
def firstInks (e : Env) : List Word → State → Chk (List (Nat × Word)) × State
  | [], s => (.ok [], s)
  | a :: as, s =>
    match window a with
    | .glob =>
      match checkGlobal s { laneAccess e 1 1 .read false with va := a } with
      | (.ok p, s) =>
        match firstInks e as s with
        | (.ok js, s) => (.ok (p.inks.map (fun j => (j, a)) ++ js), s)
        | r => r
      | (.trap t, s) => (.trap t, s)
      | (.fault k va, s) => (.fault k va, s)
      | (.wait w, s) => (.wait w, s)
    | _ => firstInks e as s

/-- The distinct inks of operands, rising, each with the first operand that has it. -/
def inkPairs (js : List (Nat × Word)) : List (Nat × Word) :=
  (js.sortBy (fun a b => decide (a.1 ≤ b.1))).foldr (fun p acc => match acc with
    | q :: rest => if q.1 == p.1 then p :: rest else p :: acc
    | [] => [p]) []

/-- Step 5 of R328: the first byte of each global operand is translated, and the thread takes its ink. -/
def withFirst (e : Env) (ops : List Word) (s : State) (k : State → LaneOut) : LaneOut :=
  match firstInks e ops s with
  | (.trap t, s) => .trap s t
  | (.fault key va, s) => .block s (.fault key va)
  | (.wait w, s) => .block s w
  | (.ok js, s) =>
    withInks e (inkPairs js) s k

/-- A list of 32-bit entries read as plain scratchpad loads, one by one (R36). -/
def readIndex (e : Env) : Nat → Word → State → Chk (List Nat) × State
  | 0, _, s => (.ok [], s)
  | n + 1, a, s =>
    match windowOf a 4 with
    | .scr _ _ =>
      match checkAccess s { laneAccess e 4 1 .read false with va := a } with
      | (.ok p, s) =>
        if placePoisoned s p 4 then (.trap (trapAt causeEcc a), s)
        else
          let (bs, s) := placeRead s e.core p 4
          match readIndex e n (a + 4) s with
          | (.ok xs, s) => (.ok (bytesToNat bs :: xs), s)
          | r => r
      | (.trap t, s) => (.trap t, s)
      | (.fault k va, s) => (.fault k va, s)
      | (.wait w, s) => (.wait w, s)
    | _ => (.trap (pageTrap 8 a), s)

/-- The index vector of a command (step 4 of R328, step 6 of R313): each entry is 0xFFFF_FFFF or below a bound. Every entry is loaded
before any is held against the bound (DESIGN CHOICE, log entry 68). -/
def withIndex (e : Env) (n : Nat) (a : Word) (bound : Option Nat) (s : State) (k : List Nat → State → LaneOut) :
    LaneOut :=
  withList e s (fun s k => match readIndex e n a s with
  | (.trap t, s) => .trap s t
  | (.fault key va, s) => .block s (.fault key va)
  | (.wait w, s) => .block s w
  | (.ok xs, s) =>
    match bound with
    | none => k xs s
    | some b =>
      match xs.findIdx? (fun x => x != 0xFFFF_FFFF && decide (b ≤ x)) with
      | some i => .trap s (mxTrap a (4 * i))
      | none => k xs s) k

end Sys2Proof.Machine
end

