-- ==== Sys2Proof/Machine/System.lean ====
section
/-! DEFINITION. Moves between register files (R263, R264), the system registers (R183, R251) and FPF (R252). -/

namespace Sys2Proof.Machine

/-! ### Register files (R263, R264) -/

/-- A short form that writes one word. -/
def wordOp (i : Instr) (d : BitVec 7) (f : Env → State → Word) : LaneFn := fun e s =>
  .done (writeShort s i e d.toNat (f e s))

/-- Every thread of a bundle gives one value, or all raise NONUNIFORM (R172, R183). -/
def uniform (es : List Env) : Option Trap :=
  match es with
  | [] => none
  | e :: rest => if rest.all (fun f => f.opB == e.opB) then none else some (trapOf causeNonuniform)

/-- A lane that does nothing of its own: the bundle acts as one. -/
def bundleOnly : LaneFn := fun _ s => .done s

/-- A write of a team-common register stands from the next cycle on (R172). -/
def lateWrite (r : Nat) (es : List Env) (s : State) : State :=
  match es with
  | [] => s
  | e :: _ =>
    let t := s.thread e.key
    { s with late := s.late ++ [(t.core * 8 + t.slot % 8, t.team, r, e.opB)] }

/-- A short result in register `r` is read by a thread of the bundle L cycles on, and no earlier (R184): 136 + n stands for
h(n), 152 + n for q(n). -/
def lockRegister (i : Instr) (r : Nat) (es : List Env) (s : State) : State :=
  es.foldl (fun s e => s.updThread e.key (fun t => { t with ilock := Tbl.set t.ilock r (s.now + i.latency) })) s

/-- At the end of a cycle the writes are made; of several to one register the highest-numbered nib's stands (R172). -/
def applyLate (s : State) : State :=
  (s.late.sortBy (fun a b => decide (a.1 ≤ b.1))).foldl (fun s w =>
    s.updTeam w.2.1 (fun t => if w.2.2.1 < 64 then t.setC w.2.2.1 w.2.2.2 else t.setQ (w.2.2.1 - 64) w.2.2.2))
    { s with late := [] }

/-- setc (R172, R263), for one thread. -/
def laneSetc : LaneFn :=
  bundleOnly

/-- setc (R172, R263). -/
def execSetc (sw : Bool) (c : BitVec 6) (b : Opnd) (s : State) : Host.Outcome State Fault Refusal :=
  runBundle (.setc sw c b) (fun es _ => uniform es) laneSetc
    (fun es _ s => lateWrite c.toNat es s) s

/-- movk (R263), for one thread. -/
def laneMovk (ins : Instr) (d : BitVec 7) (k : BitVec 3) : LaneFn :=
  wordOp ins d (fun e s => (s.thread e.key).getK k.toNat)

/-- movk (R263). -/
def execMovk (sw : Bool) (d : BitVec 7) (k : BitVec 3) (s : State) : Host.Outcome State Fault Refusal :=
  runEach (.movk sw d k) (laneMovk (.movk sw d k) d k) s

/-- movm (R263), for one thread. -/
def laneMovm (ins : Instr) (d : BitVec 7) (m : BitVec 3) : LaneFn :=
  wordOp ins d (fun e s => ((s.thread e.key).getM m.toNat).zeroExtend 64)

/-- movm (R263). -/
def execMovm (sw : Bool) (d : BitVec 7) (m : BitVec 3) (s : State) : Host.Outcome State Fault Refusal :=
  runEach (.movm sw d m) (laneMovm (.movm sw d m) d m) s

/-- setm (R263), for one thread. -/
def laneSetm (ins : Instr) (m : BitVec 3) : LaneFn :=
  fun e s => .done (writeMask s ins e m.toNat (e.opB.setWidth 8))

/-- setm (R263). -/
def execSetm (sw : Bool) (m : BitVec 3) (b : Opnd) (s : State) : Host.Outcome State Fault Refusal :=
  runEach (.setm sw m b) (laneSetm (.setm sw m b) m) s

/-- movq (R263), for one thread. -/
def laneMovq (ins : Instr) (d : BitVec 7) (q : BitVec 3) : LaneFn :=
  wordOp ins d (fun e s => (s.team e.team).getQ q.toNat)

/-- movq (R263). -/
def execMovq (sw : Bool) (d : BitVec 7) (q : BitVec 3) (s : State) : Host.Outcome State Fault Refusal :=
  runEach (.movq sw d q) (laneMovq (.movq sw d q) d q) s

/-- setq (R263), for one thread. -/
def laneSetq : LaneFn :=
  bundleOnly

/-- setq (R263). -/
def execSetq (sw : Bool) (q : BitVec 3) (b : Opnd) (s : State) : Host.Outcome State Fault Refusal :=
  runBundle (.setq sw q b) (fun es _ => uniform es) laneSetq
    (fun es _ s => lockRegister (.setq sw q b) (152 + q.toNat) es (lateWrite (64 + q.toNat) es s)) s

/-- movi (R200, R264), for one thread. -/
def laneMovi (ins : Instr) (d : BitVec 7) (i : BitVec 18) : LaneFn :=
  wordOp ins d (fun _ _ => i.signExtend 64)

/-- movi (R200, R264). -/
def execMovi (sw : Bool) (d : BitVec 7) (i : BitVec 18) (s : State) : Host.Outcome State Fault Refusal :=
  runEach (.movi sw d i) (laneMovi (.movi sw d i) d i) s

/-- lea (R200, R264), for one thread. -/
def laneLea (ins : Instr) (d : BitVec 7) (i : BitVec 18) : LaneFn :=
  wordOp ins d (fun e _ => e.npc + 4 * i.signExtend 64)

/-- lea (R200, R264). -/
def execLea (sw : Bool) (d : BitVec 7) (i : BitVec 18) (s : State) : Host.Outcome State Fault Refusal :=
  runEach (.lea sw d i) (laneLea (.lea sw d i) d i) s

/-! ### System registers (R183, R251) -/

/-- A context has a halted team (DBGCTL.HALTED, R399). -/
def anyHalted (s : State) (ctx : Nat) : Bool := (s.teamsOf ctx).any (fun p => p.2.halted)

/-- WELLCFG (R75). -/
def wellcfgWord (s : State) : Word :=
  BitVec.ofNat 64 (s.wellStatus % 4 * 2 ^ 30 + s.wellCur % 32 * 2 ^ 16 + s.wellReq % 32 * 2 ^ 8 + s.farReq % 8)

/-- A context holds Well bounds that reach an offset on some die (R78). -/
def boundsReach (c : Ctx) (off : Nat) : Bool :=
  (List.range Config.dies).any (fun d =>
    let b := Tbl.getD c.wb d 0
    decide (bitsOf b 27 0 < bitsOf b 59 32) && decide (off < bitsOf b 59 32))

/-- The Well at and beyond an offset is emptied on every die: its ways are released, or filled with zeros (R77, R78). -/
def discardWell (s : State) (off : Nat) : State :=
  { s with well := s.well.filter (fun c => decide (c.1 % 2 ^ 28 < off))
           poison := s.poison.filter (fun p => !(p / 2 ^ 60 == 1 && decide (off ≤ p % 2 ^ 60 * 64 % 2 ^ 28)))
           tags := s.tags.filter (fun p => !(p.1 / 2 ^ 50 == 1 && decide (off ≤ p.1 % 2 ^ 50 * 64 % 2 ^ 28))) }

/-- The lines of ways whose role is another now: those of the far ways are invalidated, those of the home ways written back
first (R77). -/
def roleLines (s : State) : State :=
  let role (w : Nat) : WayRole := wayRole s.wellCur s.farCur w
  let s : State := { s with diesT := s.diesT.map (fun p =>
    (p.1, { p.2 with far := p.2.far.filter (fun l => role l.way == .far) })) }
  s.diesT.foldl (fun s p => (p.2.home.filter (fun h => role h.way != .home)).foldl (fun s h => evictHome s p.1 h) s) s

/-- A request to WELLCFG (R76 to R78). -/
def wellRequest (s : State) (x : Word) : State :=
  let n := bitsOf x 12 8
  let f := bitsOf x 2 0
  if s.wellStatus = 1 then s
  else if n < 1 || 16 < n || 4 < f || 20 < n + f + 2 then { s with wellStatus := 3 }
  else if n = s.wellCur && f = s.farCur then { s with wellStatus := 0 }
  else if n < s.wellCur then
    if s.ctxs.any (fun p => boundsReach p.2 (n * 2 ^ 23)) then { s with wellStatus := 2 }
    else
      let s := roleLines (discardWell { s with wellCur := n, wellReq := n } (n * 2 ^ 23))
      if f = s.farCur then { s with wellStatus := 0 } else { s with wellStatus := 1, farReq := f }
  else { s with wellStatus := 1, wellCur := n, wellReq := n, farReq := f
                wellFrom := if s.wellCur < n then some s.wellCur else none }

/-- What mfs reads (R183). -/
def sysRead (s : State) (t : Thread) (r : Nat) : Word :=
  let c := s.ctx t.ctx
  let tm := s.team t.team
  match r with
  | 0x00 => BitVec.ofNat 64 c.ctxid
  | 0x01 => c.trapbase
  | 0x02 => c.savebase
  | 0x03 => setBits c.dbgctl 4 4 (if anyHalted s t.ctx then 1 else 0)
  | 0x08 => c.inkmap
  | 0x09 => c.inkdesc
  | 0x0A => c.inktmo
  | 0x0C => c.roundbase
  | 0x0D => c.ligbase
  | 0x0E => c.evqbase
  | 0x0F => wellcfgWord s
  | 0x10 => c.fairt
  | 0x11 => c.fairdis
  | 0x12 => c.wdlim
  | 0x13 => c.colltmo
  | 0x18 => t.fpctl
  | 0x19 => t.fpf.zeroExtend 64
  | 0x1A => tm.mxf.zeroExtend 64
  | 0x20 => s.cycle
  | 0x21 => tm.gtime
  | 0x22 => tm.gtcmp
  | 0x28 => c.sampcfg
  | 0x29 => c.sampbuf
  | _ => 0

/-- Registers whose write from a user context raises PRIV (R15, R183). -/
def privileged (r : Nat) : Bool :=
  [0x01, 0x02, 0x03, 0x08, 0x09, 0x0C, 0x0D, 0x0E, 0x0F, 0x10, 0x11, 0x28, 0x29].contains r

/-- Registers held per thread (R183). -/
def perThread (r : Nat) : Bool := r == 0x18 || r == 0x19

/-- The bits of a word that a field map lets a write change (R12, R14). -/
def maskWrite (mask old x : Word) : Word := (old &&& ~~~mask) ||| (x &&& mask)

/-- Bits `[hi:lo]` set. -/
def onesAt (hi lo : Nat) : Word := BitVec.ofNat 64 (2 ^ (hi + 1) - 2 ^ lo)

/-- A SIZE field above its limit stores the limit. -/
def capSize (x : Word) (cap : Nat) : Word := if cap < bitsOf x 3 0 then setBits x 3 0 cap else x

/-- SAMPCFG (R406): a PERIOD below 16 stores 16. -/
def sampcfgWrite (x : Word) : Word :=
  let x := x &&& (onesAt 39 8 ||| 1)
  if bitsOf x 39 8 < 16 then setBits x 39 8 16 else x

/-- FAIRT (R166): a write below 32 stores 32. -/
def fairtWrite (x : Word) : Word := BitVec.ofNat 64 (max 32 (bitsOf x 15 0))

/-- A write of a register held per context (R12, R14). -/
def ctxWrite (c : Ctx) (r : Nat) (x : Word) : Ctx :=
  match r with
  | 0x01 => { c with trapbase := x &&& onesAt 55 2 }
  | 0x02 => { c with savebase := x &&& onesAt 55 15 }
  | 0x03 => { c with dbgctl := maskWrite 7 c.dbgctl x }
  | 0x08 => { c with inkmap := x &&& onesAt 55 45 }
  | 0x09 => { c with inkdesc := x &&& onesAt 55 15 }
  | 0x0A => { c with inktmo := x &&& onesAt 31 0 }
  | 0x0C => { c with roundbase := maskWrite (onesAt 30 16) c.roundbase x }
  | 0x0D => { c with ligbase := maskWrite (onesAt 30 12) c.ligbase x
                     heads := c.heads.map (fun p => (p.1, { p.2 with cfg := none })) }
  | 0x0E => { c with evqbase := capSize (x &&& (onesAt 55 12 ||| onesAt 3 0)) 12 }
  | 0x10 => { c with fairt := fairtWrite x }
  | 0x11 => { c with fairdis := x &&& 1 }
  | 0x12 => { c with wdlim := x &&& onesAt 31 0 }
  | 0x13 => { c with colltmo := x &&& onesAt 31 0 }
  | 0x28 => { c with sampcfg := sampcfgWrite x }
  | 0x29 => { c with sampbuf := capSize (x &&& (onesAt 55 12 ||| onesAt 3 0)) 14 }
  | _ => c

/-- Whether mts writes FPF, MXF and GTIME with the value given (R396). -/
def inKeepHandler (s : State) (t : Thread) : Bool := t.handler && keepFrame s t

/-- A write of a register that the team, the context or the module holds. -/
def sharedWrite (s : State) (t : Thread) (r : Nat) (x : Word) : State :=
  match r with
  | 0x0F => wellRequest s x
  | 0x1A =>
    s.updTeam t.team (fun tm =>
      { tm with mxf := if inKeepHandler s t then x.setWidth 6 &&& 0x1F else tm.mxf &&& ~~~(x.setWidth 6) })
  | 0x21 => if inKeepHandler s t then s.updTeam t.team (fun tm => { tm with gtime := x }) else s
  | 0x22 => s.updTeam t.team (fun tm => { tm with gtcmp := x })
  | _ => s.updCtx t.ctx (fun c => ctxWrite c r x)

/-- A write of a register that each thread holds. -/
def threadWrite (s : State) (key : Nat) (r : Nat) (x : Word) : State :=
  let t := s.thread key
  match r with
  | 0x18 => s.setThread key { t with fpctl := fpctlWrite x }
  | 0x19 =>
    s.setThread key { t with fpf := if inKeepHandler s t then x.setWidth 6 else t.fpf &&& ~~~(x.setWidth 6) }
  | _ => s

/-- The checks of mts on the bundle: PRIV before uniformity (R183). -/
def mtsCheck (r : Nat) (es : List Env) (s : State) : Option Trap :=
  match es with
  | [] => none
  | e :: _ =>
    if privileged r && !(s.ctx e.ctx).priv then some ⟨causePriv, 0, 0, BitVec.ofNat 64 r, 0, none, false⟩
    else if perThread r then none
    else uniform es

/-- mts of a shared register acts once for the bundle. -/
def mtsShared (r : Nat) (es : List Env) (s : State) : State :=
  match es with
  | [] => s
  | e :: _ => if perThread r then s else sharedWrite s (s.thread e.key) r e.opB

/-- mfs (R251): long for CYCLE and GTIME, for one thread. -/
def laneMfs (ins : Instr) (d : BitVec 7) (r : BitVec 7) : LaneFn :=
  fun e s =>
    let x := sysRead s (s.thread e.key) r.toNat
    if (ins : Instr).isLong then .done (longResult s ins e x 0) else .done (writeShort s ins e d.toNat x)

/-- mfs (R251): long for CYCLE and GTIME. -/
def execMfs (sw : Bool) (d : BitVec 7) (r : BitVec 7) (s : State) : Host.Outcome State Fault Refusal :=
  runEach (.mfs sw d r) (laneMfs (.mfs sw d r) d r) s

/-- mts (R251), for one thread. -/
def laneMts (r : BitVec 7) : LaneFn :=
  fun e s => .done (threadWrite s e.key r.toNat e.opB)

/-- mts (R251). -/
def execMts (sw : Bool) (r : BitVec 7) (b : Opnd) (s : State) : Host.Outcome State Fault Refusal :=
  runBundle (.mts sw r b) (mtsCheck r.toNat) (laneMts r)
    (fun es _ s => mtsShared r.toNat es s) s

/-- rdfpf (R252), for one thread. -/
def laneRdfpf (ins : Instr) (d : BitVec 7) : LaneFn :=
  wordOp ins d (fun e s => (s.thread e.key).fpf.zeroExtend 64)

/-- rdfpf (R252). -/
def execRdfpf (sw : Bool) (d : BitVec 7) (s : State) : Host.Outcome State Fault Refusal :=
  runEach (.rdfpf sw d) (laneRdfpf (.rdfpf sw d) d) s

/-- clfpf (R252), for one thread. -/
def laneClfpf : LaneFn :=
  fun e s => .done (s.updThread e.key (fun t => { t with fpf := t.fpf &&& ~~~(e.opB.setWidth 6) }))

/-- clfpf (R252). -/
def execClfpf (sw : Bool) (b : Opnd) (s : State) : Host.Outcome State Fault Refusal :=
  runEach (.clfpf sw b) laneClfpf s

end Sys2Proof.Machine
end

