-- ==== Sys2Proof/Machine/Async.lean ====
section
/-! DEFINITION. The feed engine, the request collector's gathers, the bin engine, waits on handles, stage rings and emit (R328 to R348). -/

namespace Sys2Proof.Machine

/-! ### Copies (R332, R333) -/

/-- The checks of a cpy or cpyt descriptor, by the offset of the field (R332). A range is checked where the fields that
give its size are within their limits (log entry 19). -/
def copyFields (op : Op) (team : Nat) (s : State) (bs : List Byte) : List (Nat × Bool) :=
  let f := fieldAt bs
  let es := copyEs op (if f 34 1 ≤ 2 then f 34 1 else 0)
  let src := f 0 8
  let dst := f 8 8
  let width := f 16 4
  let rows := f 20 4
  let mcast := f 32 2
  let t := op = .cpyt
  let srcLen := (rows - 1) * f 24 4 + width * es
  let dstLen := if t then (width - 1) * f 28 4 + rows * es else (rows - 1) * f 28 4 + width
  let dstAt := if mcast = 0 then dst else 2 ^ 57 + 15 * 2 ^ 20 + dst % 2 ^ 20
  let widthOk := decide (1 ≤ width) && decide (width ≤ if t then 1024 else 2 ^ 24)
  let rowsOk := decide (1 ≤ rows) && decide (rows ≤ if t then 1024 else 65535)
  let esOk := if t then decide (f 34 1 ≤ 2) else f 34 1 == 0
  let sized := widthOk && rowsOk && esOk
  [(0, decide (src / 2 ^ 56 ≤ 2) && src % es == 0 && (!sized || rangeOk s team src srcLen)),
   (8, decide (dst / 2 ^ 56 ≤ 2) && dst % es == 0 && (mcast == 0 || (dst / 2 ^ 56 == 2 && dst % 2 ^ 56 / 2 ^ 24 == 0))
      && (!sized || rangeOk s team dstAt dstLen)),
   (16, widthOk), (20, rowsOk),
   (24, decide (rows ≤ 1) || decide (width * es ≤ f 24 4)),
   (28, !t || decide (width ≤ 1) || decide (rows * es ≤ f 28 4)),
   (32, decide (mcast < 2 ^ min 12 (rectCores s team))),
   (34, esOk), (35, decide (f 35 1 ≤ 1))] ++ zeros bs 41 63

/-- The issue of a copy (R328). -/
def copyLane (op : Op) (evt : Bool) (h : BitVec 4) : LaneFn := fun v s =>
  withDesc v 64 s (fun bs s =>
    withFields v (copyFields op v.team s bs) s (fun s =>
      let dst := if fieldAt bs 32 2 = 0 then [BitVec.ofNat 64 (fieldAt bs 8 8)] else []
      withFirst v (BitVec.ofNat 64 (fieldAt bs 0 8) :: dst) s
        (createCmd v h 0 op evt (fun c => { c with addr := v.addr, desc := bs }))))

/-- The destinations of an address: DST's own, or the same offset at each named core (R333). -/
def copyTargets (c : Cmd) (va : Nat) : List Word :=
  let m := descNat c 32 2
  if m = 0 then [BitVec.ofNat 64 va]
  else ((List.range 12).filter (fun i => m.testBit i)).map (fun i =>
    BitVec.ofNat 64 (2 ^ 57 + i * 2 ^ 20 + va % 2 ^ 20))

/-- Row `r` of a copy: the whole source row is read before its destination is written (R333). -/
def copyRow (c : Cmd) (r : Nat) (s : State) : Eng Unit :=
  let d := descNat c
  let es := copyEs c.op (d 34 1)
  (engRead c (BitVec.ofNat 64 (d 0 8 + r * d 24 4)) (d 16 4 * es) s).bind (fun row s =>
    let ws : List (Nat × List Byte) :=
      if c.op = .cpyt then (List.range (d 16 4)).map (fun x => (d 8 8 + x * d 28 4 + r * es, (row.drop (x * es)).take es))
      else [(d 8 8 + r * d 28 4, row)]
    engWrites c (ws.flatMap (fun w => (copyTargets c w.1).map (fun a => (a, w.2)))) s)

/-- A background command is served in issue order: one that is suspended at a fault keeps its place in the stream (R334). -/
def backgroundTurn (s : State) (c : Cmd) : Bool :=
  descNat c 35 1 == 0 || !((s.core c.core).cmds.any (fun p => p.2.cls == 0 && (p.2.op == .cpy || p.2.op == .cpyt)
    && descNat p.2 35 1 == 1 && decide (p.2.seq < c.seq) && canRun s { p.2 with fault := none }))

/-- A command of a class and of some forms that can run. -/
def runnable (s : State) (core cls seq : Nat) (ops : List Op) : Option Cmd :=
  match getCmd s core cls seq with
  | some c => if ops.contains c.op && canRun s c then some c else none
  | none => none

/-- cpy (R328, R332), for one thread. -/
def laneCpy (e : Bool) (h : BitVec 4) : LaneFn :=
  copyLane .cpy e h

/-- cpy (R328, R332). -/
def execCpy (sw : Bool) (e : Bool) (h : BitVec 4) (a : BitVec 7) (s : State) : Host.Outcome State Fault Refusal :=
  runEach (.cpy sw e h a) (laneCpy e h) s

/-- cpyt (R328, R332), for one thread. -/
def laneCpyt (e : Bool) (h : BitVec 4) : LaneFn :=
  copyLane .cpyt e h

/-- cpyt (R328, R332). -/
def execCpyt (sw : Bool) (e : Bool) (h : BitVec 4) (a : BitVec 7) (s : State) : Host.Outcome State Fault Refusal :=
  runEach (.cpyt sw e h a) (laneCpyt e h) s

/-- COPY_RUN (R333): the feed engine runs a copy, row by row. -/
def execCopyRun (core : Nat) (seq : Nat) (s : State) : Host.Outcome State Fault Refusal :=
  .next (match runnable s core 0 seq [.cpy, .cpyt] with
    | none => s
    | some c =>
      if backgroundTurn s c then
        let (c, s) := startCmd s c
        let n := descNat c 20 4
        runRows (copyRow c) c n (n - c.at_) s
      else s)

/-! ### The facsimile (R335 to R338) -/

/-- The checks of a snap descriptor (R335). -/
def snapFields (bs : List Byte) : List (Nat × Bool) :=
  let f := fieldAt bs
  let countOk := decide (1 ≤ f 8 2) && decide (f 8 2 ≤ 256)
  [(0, inGlobal (f 0 8) && f 0 8 % 8 == 0 && (!countOk || decide (f 0 8 + 24 * f 8 2 ≤ 2 ^ 56))),
   (8, countOk), (10, decide (f 10 1 ≤ 1))] ++ zeros bs 11 35

/-- The numbers of the range list: SRC, LEN and DST of each entry. -/
def listNats (bs : List Byte) (n : Nat) : List Nat := (List.range (3 * n)).map (fun i => fieldAt bs (8 * i) 8)

/-- The checks of the list's entries, each by its offset in the list (R335). Where LEN breaks its own limits it is the field that
fails: no range is formed with it. -/
def snapEntries (xs : List Nat) (n : Nat) : List (Nat × Bool) :=
  let x (i : Nat) := (xs[i]?).getD 0
  (List.range n).flatMap (fun e =>
    let src := x (3 * e)
    let len := x (3 * e + 1)
    let lenOk := len != 0 && len % 2 ^ 16 == 0
    let whole (a : Nat) : Bool := a % 2 ^ 16 == 0 && decide (a < 2 ^ 56) && (!lenOk || decide (a + len ≤ 2 ^ 56))
    [(24 * e, whole src && (!lenOk || (List.range e).all (fun d =>
        decide (x (3 * d) + x (3 * d + 1) ≤ src) || decide (src + len ≤ x (3 * d))))),
     (24 * e + 8, lenOk), (24 * e + 16, whole (x (3 * e + 2)))])

/-- A plain load of the global window whose value is there within the step: its checks, inks and rounds. One that hits in the L1
uses no TLB (R42). -/
def plainGlobal (v : Env) (va : Word) (n align : Nat) (s : State) (k : List Byte → State → LaneOut) : LaneOut :=
  let v := { v with addr := va }
  match (if va.toNat % align = 0 then fastHit s v (.rel 0) n else none) with
  | some ls => withFast v ls n s k
  | none => withPlace v (laneAccess v n align .read false) true false s (fun p s =>
    withRounds v (.rel 0) p s (fun s =>
      match p with
      | .glob ps js =>
        let ((bs, bad), s) := loadHeld v ps js s
        if bad then .trap s (trapAt causeEcc va) else k bs s
      | p => unpoisoned v s p n (fun s =>
        let (bs, s) := placeRead s v.core p n
        k bs s)))

/-- Every page of the ranges, with its image. -/
def snapPages (xs : List Nat) (n : Nat) : List (Nat × Nat) :=
  (List.range n).flatMap (fun e =>
    let x (i : Nat) := (xs[3 * e + i]?).getD 0 / 2 ^ 16
    (List.range (x 1)).map (fun i => (x 0 + i, x 2 + i)))

/-- The cut (R336): every store on its way is performed, F is set in the leaf of every page, and the pages'
translations go from every TLB. -/
def snapCut (s : State) (ctx : Nat) (pages : List (Nat × Nat)) : State :=
  let s := s.cores.foldl (fun s p => waitRelease s p.1 3) s
  let s := pages.foldl (fun s p => match pageOf s ctx p.1 with | some t => orLeaf s t.addr 11 | none => s) s
  let hit (t : TlbEntry) : Bool := pages.any (fun p => t.covers (s.cid ctx) (p.1 * 2 ^ 16))
  { s with cores := s.cores.map (fun p => (p.1, { p.2 with tlb := p.2.tlb.filter (fun t => !hit t) }))
           diesT := s.diesT.map (fun p => (p.1, { p.2 with tlb := p.2.tlb.filter (fun t => !hit t) })) }

/-- The pages that have no leaf in which the cut sets F: a write that comes once host has mapped one waits all the same (R337;
DEDUCED, log entry 54). -/
def unmappedPages (s : State) (ctx : Nat) (pages : List (Nat × Nat)) : List Nat :=
  (pages.filter (fun p => (pageOf s ctx p.1).isNone)).map (fun p => p.1)

/-- CKPT is raised in every live thread of a team, with its INFO (R338, R392). -/
def raiseCkpt (s : State) (team info : Nat) : State :=
  { s with threads := s.threads.map (fun p =>
      if p.2.team == team && p.2.live then (p.1, { p.2 with ckptPend := some info }) else p) }

/-- The issue of a snap once its list is read: at most one of a context at a time (R336). -/
def snapIssue (v : Env) (h : BitVec 4) (evt : Bool) (bs : List Byte) (xs : List Nat) (s : State) : LaneOut :=
  if (s.ctx v.ctx).snap.isSome then .block s .snap
  else
    let n := fieldAt bs 8 2
    match createCmd v h 0 .snap evt (fun c => { c with addr := v.addr, desc := bs, idx := xs, started := true
                                                       status := stRunning }) s with
    | .done s =>
      let pages := snapPages xs n
      let s := snapCut s v.ctx pages
      let s := s.updCtx v.ctx (fun c => { c with snap := some ⟨v.core, Tbl.getD (s.core v.core).seqs 0 0, pages, 0, [],
        unmappedPages s v.ctx pages, []⟩ })
      .done (if fieldAt bs 10 1 = 1 then (s.teamsOf v.ctx).foldl (fun s p => raiseCkpt s p.1 2) s else s)
    | r => r

/-- snap (R328, R335, R336), for one thread. -/
def laneSnap (e : Bool) (h : BitVec 4) : LaneFn :=
  fun v s =>
    withDesc v 64 s (fun bs s =>
      withFields v (snapFields bs) s (fun s =>
        let list := BitVec.ofNat 64 (fieldAt bs 0 8)
        let n := fieldAt bs 8 2
        withList v s (fun s k => plainGlobal v list (24 * n) 8 s (fun ls s =>
          match firstBad (snapEntries (listNats ls n) n) with
          | some o => .trap s (mxTrap list o)
          | none => k (listNats ls n) s)) (fun xs s =>
            withFirst v ((List.range n).flatMap (fun i => [0, 2].map (fun k => BitVec.ofNat 64 ((xs[3 * i + k]?).getD 0)))) s
              (snapIssue v h e bs xs))))

/-- snap (R328, R335, R336). -/
def execSnap (sw : Bool) (e : Bool) (h : BitVec 4) (a : BitVec 7) (s : State) : Host.Outcome State Fault Refusal :=
  runEach (.snap sw e h a) (laneSnap e h) s

/-- A snap ends: F goes from every page still to copy, the writes that waited for it go on, and a later snap may take its cut
(R336, R338). -/
def endSnap (s : State) (c : Cmd) (sn : Snap) (status ekind pkind : Nat) (addr : Word) : State :=
  let s := sn.pages.foldl (fun s p => match pageOf s c.ctx p.1 with | some t => clearF s c.ctx t.addr [] | none => s) s
  let s := s.updCtx c.ctx (fun x => { x with snap := none })
  let s := sn.ahead.foldl (fun s p => resolveFault s c.ctx p.2) s
  finishCmd s c status ekind pkind addr sn.done

/-- The frame of a virtual 64 KiB page, where a walk finds one. -/
def frameOf (s : State) (ctx vpage : Nat) : Option Nat := (pageOf s ctx vpage).map (fun t => t.pa (vpage * 2 ^ 16) / 2 ^ 16)

/-- The pages still to copy, other than `p`, that stand in the frame of `p`'s image. -/
def imageHits (s : State) (ctx : Nat) (sn : Snap) (p : Nat × Nat) : List (Nat × Nat) :=
  match frameOf s ctx p.2 with
  | none => []
  | some a => sn.pages.filter (fun q => q != p && frameOf s ctx q.1 == some a)

/-- The page to copy before page `p`: where the image of `p` is itself a page still to copy, that page goes first (R338). -/
def pageBefore (s : State) (ctx : Nat) (sn : Snap) : Nat → Nat × Nat → Nat × Nat
  | 0, p => p
  | n + 1, p =>
    match imageHits s ctx sn p with
    | q :: _ => pageBefore s ctx sn n q
    | [] => p

/-- The page that a snap copies next: one that a write waits for, ahead of its turn, else the next of the list (R338). -/
def nextPage (s : State) (ctx : Nat) (sn : Snap) : Option (Nat × Nat) :=
  let first := match sn.ahead.findSome? (fun a => (sn.under s ctx a.1).head?) with
    | some p => some p
    | none => sn.pages.head?
  first.map (pageBefore s ctx sn sn.pages.length)

/-- The writes that waited for a leaf go on once no page under it is still to copy. -/
def settleAhead (s : State) (ctx : Nat) (sn : Snap) : State :=
  let done := sn.ahead.filter (fun a => (sn.under s ctx a.1).isEmpty)
  let s := s.updCtx ctx (fun x => { x with snap := some { sn with ahead := sn.ahead.filter (fun a => !(done.contains a)) } })
  done.foldl (fun s a => resolveFault s ctx a.2) s

/-- The bytes of a page that a snap copies: as they stand, or as they stood before an image took their frame. -/
def snapSource (c : Cmd) (sn : Snap) (p : Nat × Nat) (s : State) : Eng (List Byte) :=
  match sn.saved.find? (fun q => q.1 == p) with
  | some q => .ok q.2 s
  | none => engRead c (BitVec.ofNat 64 (p.1 * 2 ^ 16)) (2 ^ 16) s

/-- Pages with their bytes, read before an image takes their frame: where images lie in a ring over pages of the ranges, none can go
first (R337; DEDUCED, log entry 54). -/
def savePages (c : Cmd) (sn : Snap) : List (Nat × Nat) → State → Eng (List ((Nat × Nat) × List Byte))
  | [], s => .ok [] s
  | q :: qs, s => (snapSource c sn q s).bind (fun bs s => (savePages c sn qs s).bind (fun xs s => .ok ((q, bs) :: xs) s))

/-- One page of a snap read and written to its image. What its frame held of pages still to copy comes with the end. -/
def copyPage (c : Cmd) (sn : Snap) (p : Nat × Nat) (s : State) : Eng (List ((Nat × Nat) × List Byte)) :=
  (snapSource c sn p s).bind (fun bs s => (savePages c sn (imageHits s c.ctx sn p) s).bind (fun xs s =>
    (engWrites c [(BitVec.ofNat 64 (p.2 * 2 ^ 16), bs)] s).bind (fun _ s =>
      .ok (sn.saved.filter (fun q => q.1 != p && !(xs.any (fun x => x.1 == q.1))) ++ xs) s)))

/-- One page of a snap is copied, and its F cleared (R338). -/
def snapStep (s : State) (c : Cmd) (sn : Snap) : State :=
  match nextPage s c.ctx sn with
  | none => endSnap s c sn stDone 0 0 0
  | some p =>
    let rest := sn.pages.filter (fun q => q != p)
    match copyPage c sn p s with
    | .wait s => s
    | .fault key va s => setCmd s { c with fault := some key, faultVa := va }
    | .fail ek pk a s => endSnap s c sn stError ek pk a
    | .ok saved s =>
      let s := match pageOf s c.ctx p.1 with | some t => clearF s c.ctx t.addr rest | none => s
      let sn := { sn with pages := rest, done := sn.done + 1, saved := saved }
      if rest.isEmpty then endSnap s c sn stDone 0 0 0 else settleAhead s c.ctx sn

/-- The snap under way of a command. -/
def snapOf (s : State) (c : Cmd) : Option Snap :=
  match (s.ctx c.ctx).snap with
  | some sn => if sn.core = c.core && sn.seq = c.seq then some sn else none
  | none => none

/-- SNAP_COPY (R338): the feed engine copies the next page of a snap. -/
def execSnapCopy (core : Nat) (seq : Nat) (s : State) : Host.Outcome State Fault Refusal :=
  .next (match runnable s core 0 seq [.snap] with
    | none => s
    | some c => match snapOf s c with | some sn => snapStep s c sn | none => s)

/-! ### Gathers (R339) -/

/-- The checks of a gath descriptor (R339). -/
def gathFields (team : Nat) (s : State) (bs : List Byte) : List (Nat × Bool) :=
  let f := fieldAt bs
  let n := f 24 2
  let nOk := decide (1 ≤ n) && decide (n ≤ 4096)
  let rowOk := decide (1 ≤ f 26 2)
  [(0, decide (f 0 8 / 2 ^ 56 = 0 ∨ f 0 8 / 2 ^ 56 = 2)
      && (f 28 4 == 0 || !rowOk || rangeOk s team (f 0 8) ((f 28 4 - 1) * f 32 2 + f 26 2))),
   (8, decide (f 8 8 / 2 ^ 56 ≤ 2) && (!(nOk && rowOk) || rangeOk s team (f 8 8) ((n - 1) * f 34 2 + f 26 2))),
   (16, f 16 8 % 4 == 0 && scrRange s team (f 16 8) (if nOk then 4 * n else 0)), (24, nOk), (26, rowOk), (32, decide (f 26 2 ≤ f 32 2)),
   (34, decide (f 26 2 ≤ f 34 2))]

/-- Row `i` of a gather. -/
def gathRow (c : Cmd) (i : Nat) (s : State) : Eng Unit :=
  let d := descNat c
  let x := (c.idx[i]?).getD 0xFFFF_FFFF
  let dst := BitVec.ofNat 64 (d 8 8 + i * d 34 2)
  if x = 0xFFFF_FFFF then engWrites c [(dst, List.replicate (d 26 2) 0)] s
  else (engRead c (BitVec.ofNat 64 (d 0 8 + x * d 32 2)) (d 26 2) s).bind (fun row s => engWrites c [(dst, row)] s)

/-- gath (R328, R339), for one thread. -/
def laneGath (e : Bool) (h : BitVec 4) : LaneFn :=
  fun v s =>
    withDesc v 64 s (fun bs s =>
      withFields v (gathFields v.team s bs) s (fun s =>
        let f := fieldAt bs
        withIndex v (f 24 2) (BitVec.ofNat 64 (f 16 8)) (some (f 28 4)) s (fun xs s =>
          withFirst v [BitVec.ofNat 64 (f 0 8), BitVec.ofNat 64 (f 8 8)] s
            (createCmd v h 2 .gath e (fun c => { c with addr := v.addr, desc := bs, idx := xs })))))

/-- gath (R328, R339). -/
def execGath (sw : Bool) (e : Bool) (h : BitVec 4) (a : BitVec 7) (s : State) : Host.Outcome State Fault Refusal :=
  runEach (.gath sw e h a) (laneGath e h) s

/-- GATHER_RUN (R339): the collector gathers rows in ascending order. -/
def execGatherRun (core : Nat) (seq : Nat) (s : State) : Host.Outcome State Fault Refusal :=
  .next (match runnable s core 2 seq [.gath] with
    | none => s
    | some c =>
      let (c, s) := startCmd s c
      let n := descNat c 24 2
      runRows (gathRow c) c n (n - c.at_) s)

/-! ### Bins (R340 to R342) -/

/-- The checks of a scatadd descriptor (R341). Whether VAL's range fits the allocation is the engine's check (R328). -/
def scataddFields (team : Nat) (s : State) (bs : List Byte) : List (Nat × Bool) :=
  let f := fieldAt bs
  let n := f 24 2
  let drain := f 26 1 = 1
  let nOk := decide (1 ≤ n) && decide (n ≤ 4096)
  [(0, inGlobal (f 0 8) && f 0 8 % 64 == 0),
   (8, if drain then f 8 8 == 0 else scrRange s team (f 8 8) 0),
   (16, if drain then f 16 8 == 0 else scrRange s team (f 16 8) (if nOk then 4 * n else 0)),
   (24, if drain then n == 0 else nOk),
   (26, decide (f 26 1 ≤ 1))] ++ zeros bs 27 35

/-- scatadd (R328, R341), for one thread. -/
def laneScatadd (e : Bool) (h : BitVec 4) : LaneFn :=
  fun v s =>
    withDesc v 64 s (fun bs s =>
      withFields v (scataddFields v.team s bs) s (fun s =>
        let f := fieldAt bs
        let drain := f 26 1 = 1
        withIndex v (f 24 2) (BitVec.ofNat 64 (f 16 8)) none s (fun xs s =>
          withFirst v [BitVec.ofNat 64 (f 0 8)] s (fun s =>
            let n := (s.thread v.key).appendOrd
            match createCmd v h 2 .scatadd e
                (fun c => { c with addr := v.addr, desc := bs, idx := xs, gen := n }) s with
            | .done s =>
              .done (if drain then s else s.updThread v.key (fun t => { t with appendOrd := n + 1 }))
            | r => r))))

/-- scatadd (R328, R341). -/
def execScatadd (sw : Bool) (e : Bool) (h : BitVec 4) (a : BitVec 7) (s : State) : Host.Outcome State Fault Refusal :=
  runEach (.scatadd sw e h a) (laneScatadd e h) s

/-- The element type of a bin set (R340): the float types, or none for .i32. -/
def binType (set : List Byte) : Option FT :=
  match fieldAt set 28 1 with
  | 0 => some .f32 | 1 => some .f16 | 2 => some .bf16 | _ => none

/-- Bytes of an element of a bin set. -/
def binEs (set : List Byte) : Nat := match binType set with | some f => f.bits / 8 | none => 4

/-- The set is malformed (R341): the address of what fails. -/
def binBad (s : State) (c : Cmd) (set : List Byte) : Option Word :=
  match firstBad ([(28, decide (fieldAt set 28 1 ≤ 3))] ++ zeros set 29 63) with
  | some o => some (BitVec.ofNat 64 (descNat c 0 8 + o))
  | none =>
    if descNat c 26 1 = 0 && !scrRange s c.team (descNat c 8 8) (descNat c 24 2 * binEs set) then
      some (c.addr + 8)
    else none

/-- The set is read when the command starts. -/
def readSet (c : Cmd) (s : State) : Eng (List Byte) := engRead c (BitVec.ofNat 64 (descNat c 0 8)) 64 s

/-- The 16 bytes of an entry (R340). -/
def binEntry (s : State) (c : Cmd) (i elem : Nat) (value : List Byte) : List Byte :=
  natToBytes 4 elem ++ natToBytes 4 ((s.team c.team).ordinal * 1024 + c.tid)
    ++ natToBytes 4 (c.gen % 2 ^ 20 * 4096 + i) ++ natToBytes 4 (bytesToNat value)

/-- Element `i` of an append: it claims a slot of the set as it stands (R341). -/
def appendElem (c : Cmd) (i : Nat) (s : State) : Eng Unit :=
  let elem := (c.idx[i]?).getD 0xFFFF_FFFF
  let es := binEs c.cfg
  let at_ : Word := BitVec.ofNat 64 (descNat c 16 8 + 4 * i)
  let set := descNat c 0 8
  if elem = 0xFFFF_FFFF then .ok () s
  else if fieldAt c.cfg 24 4 ≤ elem then .fail 4 0 at_ s
  else
    (engRead c (BitVec.ofNat 64 (set + 12)) 4 s).bind (fun n s =>
      if fieldAt c.cfg 8 4 ≤ bytesToNat n then .fail 4 0 at_ s
      else (engRead c (BitVec.ofNat 64 (descNat c 8 8 + i * es)) es s).bind (fun x s =>
        engWrites c [(BitVec.ofNat 64 (fieldAt c.cfg 0 8 + 16 * bytesToNat n), binEntry s c i elem x),
          (BitVec.ofNat 64 (set + 12), natToBytes 4 (bytesToNat n + 1))] s))

/-- A bin command that starts reads its set once; `k` goes on with it. -/
def withSet (s : State) (c : Cmd) (k : Cmd → State → State) : State :=
  if !c.cfg.isEmpty then k c s
  else
    match readSet c s with
    | .wait s => s
    | .fault key va s => setCmd s { c with fault := some key, faultVa := va }
    | .fail ek pk a s => finishCmd s c stError ek pk a 0
    | .ok set s =>
      match binBad s c set with
      | some a => finishCmd s c stError 4 0 a 0
      | none => k { c with cfg := set } (setCmd s { c with cfg := set })

/-- SCATADD_APPEND_RUN (R341): the bin engine appends entries to a set. -/
def execScataddAppendRun (core : Nat) (seq : Nat) (s : State) : Host.Outcome State Fault Refusal :=
  .next (match runnable s core 2 seq [.scatadd] with
    | none => s
    | some c =>
      if descNat c 26 1 = 1 then s
      else
        let (c, s) := startCmd s c
        withSet s c (fun c s => runRows (appendElem c) c (descNat c 24 2) (descNat c 24 2 - c.at_) s))

/-- An entry of a set: element, thread id, sequence, value. -/
structure BinEntry where
  elem : Nat
  thread : Nat
  seq : Nat
  value : Nat
  deriving DecidableEq, Repr

def binEntries : Nat → List Byte → List BinEntry
  | 0, _ => []
  | n + 1, bs => ⟨fieldAt bs 0 4, fieldAt bs 4 4, fieldAt bs 8 4, fieldAt bs 12 4⟩ :: binEntries n (bs.drop 16)

/-- The order of a drain: element, thread id, sequence (R342). -/
def BinEntry.le (a b : BinEntry) : Bool :=
  if a.elem ≠ b.elem then decide (a.elem ≤ b.elem)
  else if a.thread ≠ b.thread then decide (a.thread ≤ b.thread)
  else decide (a.seq ≤ b.seq)

/-- One addition to a target element (R342). -/
def binAdd (set : List Byte) (old x : Nat) : Nat :=
  match binType set with
  | some f => (addRes f .rne false (f.decode old) (f.decode (x % 2 ^ f.bits))).bits
  | none => (old + x) % 2 ^ 32

/-- The entries of one element applied in order to its value, in ascending elements. -/
def drainWrites (c : Cmd) (set : List Byte) : List BinEntry → State → List (Nat × Nat) → Eng (List (Nat × Nat))
  | [], s, acc => .ok acc s
  | x :: xs, s, acc =>
    let es := binEs set
    match acc with
    | (e, v) :: rest =>
      if e = x.elem then drainWrites c set xs s ((e, binAdd set v x.value) :: rest)
      else (engRead c (BitVec.ofNat 64 (fieldAt set 16 8 + es * x.elem)) es s).bind (fun bs s =>
        drainWrites c set xs s ((x.elem, binAdd set (bytesToNat bs) x.value) :: (e, v) :: rest))
    | [] => (engRead c (BitVec.ofNat 64 (fieldAt set 16 8 + es * x.elem)) es s).bind (fun bs s =>
        drainWrites c set xs s [(x.elem, binAdd set (bytesToNat bs) x.value)])

/-- A drain, as one operation: every access is translated before the first write (R342). -/
def drainAll (c : Cmd) (s : State) : Eng Nat :=
  (readSet c s).bind (fun set s =>
    let n := fieldAt set 12 4
    (engRead c (BitVec.ofNat 64 (fieldAt set 0 8)) (16 * n) s).bind (fun bs s =>
      (drainWrites c set ((binEntries n bs).sortBy BinEntry.le) s []).bind (fun ws s =>
        (engWrites c ((ws.map (fun w =>
          (BitVec.ofNat 64 (fieldAt set 16 8 + binEs set * w.1), natToBytes (binEs set) w.2)))
            ++ [(BitVec.ofNat 64 (descNat c 0 8 + 12), natToBytes 4 0)]) s).bind (fun _ s => .ok n s))))

/-- SCATADD_DRAIN_RUN (R342): the bin engine applies the entries of a set in order. -/
def execScataddDrainRun (core : Nat) (seq : Nat) (s : State) : Host.Outcome State Fault Refusal :=
  .next (match runnable s core 2 seq [.scatadd] with
    | none => s
    | some c =>
      if descNat c 26 1 = 0 then s
      else
        let (c, s) := startCmd s c
        withSet s c (fun c s =>
          match drainAll c s with
          | .wait s => s
          | .fault key va s => setCmd s { c with fault := some key, faultVa := va }
          | .fail ek pk a s => finishCmd s c stError ek pk a 0
          | .ok n s => finishCmd s c stDone 0 0 0 n))

/-! ### Waits, tests, cancels and moves of handles (R343 to R345) -/

/-- What a handle names, for a thread (R330, R343). -/
inductive Named where
  | null
  | trap (t : Trap)
  /-- Its status is no longer kept. -/
  | gone (c : Option Cmd)
  | cmd (c : Cmd)

def named? (s : State) (ctx : Nat) (h : Word) : Named :=
  if bitsOf h 31 0 = 0 then .null
  else if bitsOf h 63 48 ≠ (s.ctx ctx).ctxid % 2 ^ 16 then .trap ⟨causePriv, 0, 0, h, 0, none, false⟩
  else
    match handleParts h with
    | none => .trap (trapOf causeIllegal)
    | some (core, k) =>
      if Tbl.getD (s.core core).seqs (bitsOf h 38 37) 0 < bitsOf h 31 0 then .trap (trapOf causeIllegal)
      else match Tbl.get? (s.core core).cmds k with
        | some c => if c.forgotten s then .gone (some c) else .cmd c
        | none => .gone none

/-- What a wait that covers a command invalidates, whether or not its status is kept (R108). -/
def coverGone (s : State) (core : Nat) (c : Option Cmd) : State :=
  match c with
  | some c => coverCmd s core c
  | none => s

/-- The commands of a group and class, oldest first; not those of a group that stood in its slot before it (R169). -/
def groupCmds (s : State) (core team slot cls : Nat) : List Cmd :=
  (((s.core core).cmds.filter (fun p => p.2.cls == cls && p.2.team == team && p.2.slot == slot && !p.2.past)).map
    (fun p => p.2)).sortBy (fun a b => decide (a.seq ≤ b.seq))

/-- The commands that a wait for all but the newest `n` covers (R107). -/
def coveredCmds (s : State) (core team slot cls n : Nat) : List Cmd :=
  let all := groupCmds s core team slot cls
  all.take (all.length - n)

/-- An error is raised once (R344). -/
def raiseError (s : State) (c : Cmd) : LaneOut := .trap (reportCmd s c) (errorTrap s c)

/-- The word of testh (R331). -/
def statusWord (c : Cmd) : Word :=
  let canc := if c.cancel then 8 else 0
  BitVec.ofNat 64 (if c.recorded then
      c.prog % 2 ^ 32 * 2 ^ 32 + (if c.ekind = 1 then c.pkind else 0) * 2 ^ 16 + c.ekind * 2 ^ 8 + canc + c.status
    else canc + (if c.started then stRunning else stQueued))

/-- waitc (R107, R343, R344), for one thread. -/
def laneWaitc (c : BitVec 2) : LaneFn :=
  fun v s =>
    let t := s.thread v.key
    let n := bitsOf v.opB 31 0
    if n < Tbl.getD (s.team v.team).counters (t.slot * 4 + c.toNat) 0 then .block s (.waitc c.toNat n)
    else
      let covered := coveredCmds s v.core v.team t.slot c.toNat n
      let s := covered.foldl (fun s x => coverCmd s v.core x) s
      match covered.find? Cmd.unreported with
      | some x => raiseError s x
      | none => .done s

/-- waitc (R107, R343, R344). -/
def execWaitc (sw : Bool) (c : BitVec 2) (b : Opnd) (s : State) : Host.Outcome State Fault Refusal :=
  runEach (.waitc sw c b) (laneWaitc c) s

/-- waith (R189, R343, R344), for one thread. -/
def laneWaith : LaneFn :=
  fun v s =>
    match named? s v.ctx v.opA with
    | .null => .done s
    | .gone c => .done (coverGone s v.core c)
    | .trap t => .trap s t
    | .cmd c =>
      if !c.recorded then .block s (.waith v.opA)
      else
        let s := coverCmd s v.core c
        if c.unreported then raiseError s c else .done s

/-- waith (R189, R343, R344). -/
def execWaith (sw : Bool) (h : BitVec 4) (s : State) : Host.Outcome State Fault Refusal :=
  runEach (.waith sw h) laneWaith s

/-- testh (R331, R343), for one thread. -/
def laneTesth (ins : Instr) (d : BitVec 7) : LaneFn :=
  fun v s =>
    match named? s v.ctx v.opA with
    | .null => .done (writeShort s ins v d.toNat (BitVec.ofNat 64 stDone))
    | .gone c => .done (coverGone (writeShort s ins v d.toNat (BitVec.ofNat 64 stDone)) v.core c)
    | .trap t => .trap s t
    | .cmd c =>
      let s := writeShort s ins v d.toNat (statusWord c)
      let s := if c.recorded then coverCmd s v.core c else s
      .done (if c.unreported then reportCmd s c else s)

/-- testh (R331, R343). -/
def execTesth (sw : Bool) (d : BitVec 7) (h : BitVec 4) (s : State) : Host.Outcome State Fault Refusal :=
  runEach (.testh sw d h) (laneTesth (.testh sw d h) d) s

/-- cancelh (R343, R345), for one thread. C is set in a running command too, which goes on, and not in a completed one (DESIGN CHOICE, log
entry 71). -/
def laneCancelh : LaneFn :=
  fun v s =>
    match named? s v.ctx v.opA with
    | .null | .gone _ => .done s
    | .trap t => .trap s t
    | .cmd c => .done (if 2 ≤ c.status then s else recordClass (setCmd s { c with cancel := true }) c.core c.cls)

/-- cancelh (R343, R345). -/
def execCancelh (sw : Bool) (h : BitVec 4) (s : State) : Host.Outcome State Fault Refusal :=
  runEach (.cancelh sw h) laneCancelh s

/-- movh to v (R343), for one thread. -/
def laneMovhToV (ins : Instr) (d : BitVec 7) : LaneFn :=
  fun v s => .done (writeShort s ins v d.toNat v.opA)

/-- movh to v (R343). -/
def execMovhToV (sw : Bool) (d : BitVec 7) (h : BitVec 4) (s : State) : Host.Outcome State Fault Refusal :=
  runEach (.movhToV sw d h) (laneMovhToV (.movhToV sw d h) d) s

/-- movh to h (R343), for one thread. -/
def laneMovhToH (ins : Instr) (h : BitVec 4) : LaneFn :=
  fun v s => .done (lockRegister ins (136 + h.toNat) [v] (s.updThread v.key (fun t => t.setH h.toNat v.opB)))

/-- movh to h (R343). -/
def execMovhToH (sw : Bool) (h : BitVec 4) (b : Opnd) (s : State) : Host.Outcome State Fault Refusal :=
  runEach (.movhToH sw h b) (laneMovhToH (.movhToH sw h b) h) s

/-! ### Stage rings (R174, R347) -/

/-- A stage of a ring: its state and its phase bit. -/
def stageOf (s : State) (team ring stage : Nat) : Stage × Bool :=
  Tbl.getD (s.team team).rings (ring * 16 + stage) (.free, false)
def setStage (s : State) (team ring stage : Nat) (x : Stage × Bool) : State :=
  s.updTeam team (fun t => { t with rings := Tbl.set t.rings (ring * 16 + stage) x })

/-- The threads that wait at a stage, in arrival order (R174). -/
def stageWaiters (s : State) (team : Nat) (p : Why → Option Nat) : List Nat :=
  (((s.threadsOf team).filterMap (fun q =>
    match q.2.why? with
    | some w => (p w).map (fun n => (n, q.1))
    | none => none)).sortBy (fun a b => decide (a.1 ≤ b.1))).map (fun q => q.2)

def givers (s : State) (team ring stage : Nat) : List Nat :=
  stageWaiters s team (fun w => match w with
    | .ringGive r g n => if r = ring ∧ g = stage then some n else none
    | _ => none)
def takers (s : State) (team ring stage : Nat) : List Nat :=
  stageWaiters s team (fun w => match w with
    | .ringTake r g n => if r = ring ∧ g = stage then some n else none
    | _ => none)

/-- The threads that a stage's state now lets go on. -/
def settleStage (s : State) (team ring stage : Nat) : Nat → State
  | 0 => s
  | n + 1 =>
    let (st, ph) := stageOf s team ring stage
    match st, givers s team ring stage, takers s team ring stage with
    | .free, k :: _, _ => settleStage (finishBlocked (setStage s team ring stage (.full, ph)) k) team ring stage n
    | .full, _, k :: _ => settleStage (finishBlocked (setStage s team ring stage (.taken, ph)) k) team ring stage n
    | _, _, _ => s

/-- The checks of R347 on a lane's ring and stage, and then `k`. -/
def withStage (v : Env) (r : BitVec 3) (s : State) (k : Nat → Stage × Bool → LaneOut) : LaneOut :=
  let count := Tbl.getD (s.team v.team).ringStages r.toNat 0
  if count ≤ v.opB.toNat then .trap s (trapOf causeIllegal)
  else k v.opB.toNat (stageOf s v.team r.toNat v.opB.toNat)

/-- The arrival of a thread at a stage: the cycle, and the team thread index that breaks ties (R174). -/
def arrival (s : State) (v : Env) : Nat := s.now * 1024 + v.tid

/-- rgive (R174, R347), for one thread. -/
def laneRgive (r : BitVec 3) : LaneFn :=
  fun v s =>
    withStage v r s (fun g st =>
      let s := performLoads s v.core v.key
      match st.1 with
      | .free => .done (settleStage (setStage s v.team r.toNat g (.full, st.2)) v.team r.toNat g 2)
      | _ => .block s (.ringGive r.toNat g (arrival s v)))

/-- rgive (R174, R347). -/
def execRgive (sw : Bool) (r : BitVec 3) (b : Opnd) (s : State) : Host.Outcome State Fault Refusal :=
  runEach (.rgive sw r b) (laneRgive r) s

/-- rtake (R174, R347), for one thread. -/
def laneRtake (r : BitVec 3) : LaneFn :=
  fun v s =>
    withStage v r s (fun g st =>
      match st.1 with
      | .full => .done (setStage s v.team r.toNat g (.taken, st.2))
      | _ => .block s (.ringTake r.toNat g (arrival s v)))

/-- rtake (R174, R347). -/
def execRtake (sw : Bool) (r : BitVec 3) (b : Opnd) (s : State) : Host.Outcome State Fault Refusal :=
  runEach (.rtake sw r b) (laneRtake r) s

/-- rfree (R174, R347), for one thread. -/
def laneRfree (r : BitVec 3) : LaneFn :=
  fun v s =>
    withStage v r s (fun g st =>
      match st.1 with
      | .taken => .done (settleStage (setStage s v.team r.toNat g (.free, !st.2)) v.team r.toNat g 2)
      | _ => .trap s (trapOf causeIllegal))

/-- rfree (R174, R347). -/
def execRfree (sw : Bool) (r : BitVec 3) (b : Opnd) (s : State) : Host.Outcome State Fault Refusal :=
  runEach (.rfree sw r b) (laneRfree r) s

/-! ### Graph records (R348, R378) -/

/-- The node a launch record names as one of its successors (R372). -/
def namesSuccessor (s : State) (team node : Nat) : Bool :=
  match s.launch (s.team team).launch with
  | some l => decide (node ≠ 0xFFFF) && (List.range 4).any (fun i => fieldAt l.record (88 + 2 * i) 2 == node)
  | none => false

/-- A record goes to the next slot of a node's queue, through the context's page tables; where that slot is not free, or the
node is not registered yet, the thread blocks (R378, log entry 25). -/
def appendRecord (v : Env) (node : Nat) (bs : List Byte) (s : State) : LaneOut :=
  match Tbl.get? (s.ctx v.ctx).nodes node with
  | none => .block s (.nodeFull node)
  | some x =>
    let cap := fieldAt x.record 84 4
    if cap ≤ x.waiting.length || x.busy.contains (x.tail % cap) then .block s (.nodeFull node)
    else
      let va := BitVec.ofNat 64 (fieldAt x.record 76 8 + x.tail % cap * 32)
      let a : Access := { laneAccess v 32 1 .write false with va := va }
      match translatePieces s v.core v.ctx (pagePieces va.toNat 32) with
      | (.error (e, at_), s) =>
        match raiseX s a e at_ false with
        | (.fault key va, s) => .block s (.fault key va)
        | (.trap t, s) => .trap s t
        | (_, s) => .done s
      | (.ok ps, s) =>
        match firstDenied .write ps with
        | some (e, at_) =>
          match raiseX s a e at_ false with
          | (.fault key va, s) => .block s (.fault key va)
          | (.trap t, s) => .trap s t
          | (_, s) => .done s
        | none =>
          match snapWait s v.ctx ps with
          | (some key, s) => .block s (.fault key va)
          | (none, s) =>
            let s := writeHome s v.core v.ctx .drop ps bs
            let x := { x with tail := x.tail + 1, waiting := x.waiting ++ [s.now] }
            .done (s.updCtx v.ctx (fun c => { c with nodes := Tbl.set c.nodes node x }))

/-- emit (R348), for one thread. A node that is no successor raises ILLEGAL before the record's address is checked (DESIGN CHOICE, log
entry 70). -/
def laneEmit : LaneFn :=
  fun v s =>
    let node := bitsOf v.opB 15 0
    if !namesSuccessor s v.team node then .trap s (trapOf causeIllegal)
    else
      match windowOf v.addr 32 with
      | .well _ _ => .trap s (pageTrap 8 v.addr)
      | _ => plainGlobal v v.addr 32 32 s (fun bs s => releaseWait v 3 s (appendRecord v node bs))

/-- emit (R348). -/
def execEmit (sw : Bool) (a : BitVec 7) (b : Opnd) (s : State) : Host.Outcome State Fault Refusal :=
  runEach (.emit sw a b) laneEmit s

end Sys2Proof.Machine
end

