-- ==== Sys2Proof/Machine/MatrixEngine.lean ====
section
/-! DEFINITION. The matrix engine (R306 to R327, R380). -/

namespace Sys2Proof.Machine

/-! ### Palette records (R311, R312) -/

/-- Bytes of an element of a record's format. -/
def palEs (p : PalRec) : Nat := if p.fmt = 0x20 ∨ p.fmt = 0x21 then 2 else 1

/-- The record's format is INT8. -/
def palInt (p : PalRec) : Bool := p.fmt == 0x22

/-- The value of an element of a format code. -/
def palDecode (fmt x : Nat) : FVal :=
  if fmt = 0x20 then FT.f16.decode x
  else if fmt = 0x21 then FT.bf16.decode x
  else if fmt = 0x22 then intVal (toSigned 8 x)
  else (Tiny.ofCode 8 (BitVec.ofNat 5 fmt)).decode x

/-- Elements of a scale block. -/
def palBlock (p : PalRec) : Nat := 8 * 2 ^ p.blk

/-- The .es8p1 scale of element k of row r; BLK 0 is the scale 1 (R284). -/
def palScale (p : PalRec) (r k : Nat) : FVal :=
  if p.blk = 0 then .fin false 1 0
  else (Tiny.ofCode 8 1#5).decode (fieldAt p.scales (r * p.stride + k / palBlock p) 1)

/-- An element with its scale, exactly. -/
def scaled (p : PalRec) (r k x : Nat) : Term := FVal.mul (palDecode p.fmt x) (palScale p r k)

/-- The product of two scaled elements (R284, R315). A zero times a negative element is a −0 term, for INT8 too, which has no −0
of its own (DESIGN CHOICE, log entry 50). -/
def Term.times : Term → Term → Term
  | a, .val w => Term.mul a w
  | _, .invalid => .invalid

/-- The key of a record of a team. -/
def palKey (team id : Nat) : Nat := team * 64 + id
def palRec? (s : State) (team id : Nat) : Option PalRec := Tbl.get? s.palette (palKey team id)

/-- Palette lines of a record. -/
def palLines (p : PalRec) : Nat := 1 + (p.rows * p.stride + 63) / 64

/-- Lines of a team's records, but for record `id`. -/
def palUsed (s : State) (team id : Nat) : Nat :=
  (s.palette.filter (fun p => p.1 / 64 == team && p.1 != palKey team id)).foldl (fun n p => n + palLines p.2) 0

/-- A part of the active context's tiles, palette or margin is not restored yet (R390). -/
def partAwaited (s : State) (core ctx block : Nat) : Bool :=
  (s.core core).active == some ctx && (s.core core).unrestored.contains block

/-- The class-1 commands of the team that name a record and are not complete. -/
def palCmds (s : State) (core team id : Nat) : List Word :=
  ((s.core core).cmds.filter (fun q =>
    let c := q.2
    c.cls == 1 && c.team == team && decide (c.status < 2) && (c.op == .mma || c.op == .mmas)
      && (fieldAt c.desc 34 1 % 64 == id || fieldAt c.desc 35 1 % 64 == id))).map (fun q => cmdHandle s q.2)

/-- The blocks of 4 KiB of the palette, of a tile of the core and of its margin (R390). -/
def palBlocks : List Nat := (List.range 64).map (fun i => 384 + i)
def tileBlocks (tile : Nat) : List Nat := (List.range 16).map (fun i => 256 + tile % 8 * 16 + i)
def margBlocks (base n : Nat) : List Nat :=
  if n = 0 then [] else (List.range ((base + n - 1) / 4096 + 1 - base / 4096)).map (fun i => 448 + base / 4096 + i)

/-- A palres or palrel waits for the commands that name its record and were issued before it, once (R312). -/
def withPalette (v : Env) (id : Nat) (s : State) (k : State → LaneOut) : LaneOut :=
  let waited := match (s.thread v.key).status with
    | .waking b => (match b.why with | .palette _ | .restore .. => true | _ => false)
    | _ => false
  let hs := if waited then [] else palCmds s v.core v.team id
  if !hs.isEmpty then .block s (.palette hs)
  else
    match palBlocks.find? (partAwaited s v.core v.ctx) with
    | some b => .block (demand s v.core b) (.restore v.core b)
    | none => k s

/-- Plain loads of a range of the scratchpad window. -/
def scrLoad (v : Env) (va : Word) (n : Nat) (s : State) (k : List Byte → State → LaneOut) : LaneOut :=
  if n = 0 then k [] s
  else
    match windowOf va n with
    | .scr _ _ =>
      match checkAccess s { laneAccess v n 1 .read false with va := va } with
      | (.trap t, s) => .trap s t
      | (.fault key va, s) => .block s (.fault key va)
      | (.wait w, s) => .block s w
      | (.ok p, s) => unpoisoned { v with addr := va } s p n (fun s =>
        let (bs, s) := placeRead s v.core p n
        k bs s)
    | _ => .trap s (pageTrap 8 va)

/-- The checks of a record image's header. -/
def palFields (bs : List Byte) : List (Nat × Bool) :=
  let f := fieldAt bs
  let fmt := f 0 1
  [(0, (decide (1 ≤ fmt) && decide (fmt ≤ 0x1F) && fmt % 8 != 0) || (decide (0x20 ≤ fmt) && decide (fmt ≤ 0x22))),
   (1, decide (f 1 1 ≤ 3)), (2, f 1 1 != 0 || f 2 2 == 0),
   (4, decide (f 4 2 ≤ 4096) && (f 1 1 != 0 || f 4 2 == 0))] ++ zeros bs 6 63

/-- palres (R311, R312), for one thread. -/
def lanePalres (r : BitVec 6) : LaneFn :=
  fun v s =>
    let id := r.toNat
    withPalette v id s (fun s =>
      scrLoad v v.addr 64 s (fun hd s =>
        withFields v (palFields hd) s (fun s =>
          let f := fieldAt hd
          let p : PalRec := ⟨f 0 1, f 1 1, f 2 2, f 4 2, [], false⟩
          if (s.team v.team).palKiB * 16 < palUsed s v.team id + palLines p then .trap s (trapAt causeMxFault v.addr)
          else scrLoad v (v.addr + 64) (p.rows * p.stride) s (fun sc s =>
            .done { s with palette := Tbl.set s.palette (palKey v.team id) { p with scales := sc } }))))

/-- palres (R311, R312). -/
def execPalres (sw : Bool) (r : BitVec 6) (a : BitVec 7) (s : State) : Host.Outcome State Fault Refusal :=
  runEach (.palres sw r a) (lanePalres r) s

/-- palrel (R312), for one thread. -/
def lanePalrel (r : BitVec 6) : LaneFn :=
  fun v s =>
    withPalette v r.toNat s (fun s => .done { s with palette := Tbl.erase s.palette (palKey v.team r.toNat) })

/-- palrel (R312). -/
def execPalrel (sw : Bool) (r : BitVec 6) (s : State) : Host.Outcome State Fault Refusal :=
  runEach (.palrel sw r) (lanePalrel r) s

/-! ### Issue of mma and mmas (R309, R313, R314) -/

/-- Step 3: the reserved bits and STATE. -/
def mxReserved (bs : List Byte) : List (Nat × Bool) :=
  let low (o n : Nat) : Nat × Bool := (o, decide (fieldAt bs o 1 < 2 ^ n))
  [low 32 7, low 33 7, low 34 6, low 35 6, low 36 3, low 37 2, low 38 4, low 39 6,
   (44, fieldAt bs 44 1 == 0 || fieldAt bs 44 1 == 2)] ++ zeros bs 45 63

def mxM (bs : List Byte) : Nat := fieldAt bs 32 1 % 128 + 1
def mxN (bs : List Byte) : Nat := fieldAt bs 33 1 % 128 + 1
def mxK (bs : List Byte) : Nat := fieldAt bs 30 2
def mxBT (bs : List Byte) : Bool := fieldAt bs 37 1 % 2 == 1
def mxChunk (bs : List Byte) : Nat := if fieldAt bs 37 1 / 2 % 2 = 1 then 256 else 32

/-- A record's scales cover K and the rows. -/
def scalesCover (p : PalRec) (k rows : Nat) : Bool :=
  p.blk == 0 || (decide ((k + palBlock p - 1) / palBlock p ≤ p.stride) && decide (rows ≤ p.rows))

/-- Step 5: the fields, by ascending offset. Where RECA or RECB names no record, the checks of the rows take one byte an element
(DESIGN CHOICE, log entry 51). -/
def mxFields (sparse : Bool) (team : Nat) (s : State) (bs : List Byte) : List (Nat × Bool) :=
  let f := fieldAt bs
  let tm := s.team team
  let pa := palRec? s team (f 34 1 % 64)
  let pb := palRec? s team (f 35 1 % 64)
  let es (p : Option PalRec) : Nat := match p with | some p => palEs p | none => 1
  let m := mxM bs
  let n := mxN bs
  let k := mxK bs
  let arow := (if sparse then k / 2 else k) * es pa
  let brow := (if mxBT bs then k else n) * es pb
  let brows := if mxBT bs then n else k
  [(0, scrRange s team (f 0 8) ((f 28 2 - 1) * f 24 2 + arow)),
   (8, inGlobal (f 8 8) || scrRange s team (f 8 8) ((brows - 1) * f 26 2 + brow)),
   (16, !sparse || f 16 8 == 0),
   (24, decide (arow ≤ f 24 2)), (26, decide (brow ≤ f 26 2)),
   (28, decide (1 ≤ f 28 2) && (f 16 8 != 0 || decide (m ≤ f 28 2))),
   (30, decide (1 ≤ k) && decide (k ≤ 16384) && (!sparse || k % 8 == 0)),
   (34, match pa with | some p => scalesCover p k (if f 16 8 = 0 then m else f 28 2) | none => false),
   (35, match pb with
     | some q => scalesCover q k n
        && (match pa with | some p => palEs p == palEs q && palInt p == palInt q | none => true)
     | none => false),
   (36, decide (f 36 1 % 8 < tm.tiles)),
   (40, if sparse then decide (f 40 2 + m * k / 8 ≤ tm.margBytes) else f 40 2 == 0),
   (42, f 42 2 % 8 == 0 && decide (f 42 2 < k))]

/-- The predicate register that a matrix command at address `va` reads: PQ of its parameter block, where PEN is 1 (R313, R314). -/
def mxPredicate (s : State) (team : Nat) (va : Word) : Option Nat :=
  match windowOf va 64 with
  | .scr i o =>
    match if va.toNat % 64 = 0 then scratchAt s team i o 64 else none with
    | some (key, _) =>
      let x := bytesToNat (Memory.readN s.scratch (key + 38) 1)
      if x / 8 % 2 = 1 then some (x % 8) else none
    | none => none
  | _ => none

/-- The issue of a matrix command (R313). -/
def mxLane (op : Op) (evt : Bool) (h : BitVec 4) : LaneFn := fun v s =>
  withDesc v 64 s (fun bs s =>
    withFields v (mxReserved bs) s (fun s =>
      let f := fieldAt bs
      if f 38 1 / 8 % 2 = 1 ∧ !((s.team v.team).getQ (f 38 1 % 8)).getLsbD (f 39 1 % 64) then
        createCmd v h 1 op evt (fun c => { c with addr := v.addr, desc := bs, retired := true }) s
      else withFields v (mxFields (op == .mmas) v.team s bs) s (fun s =>
        let m := if f 16 8 = 0 then 0 else mxM bs
        withIndex v m (BitVec.ofNat 64 (f 16 8)) (some (f 28 2)) s (fun xs s =>
          withFirst v [BitVec.ofNat 64 (f 8 8)] s (createCmd v h 1 op evt (fun c =>
            { c with addr := v.addr, desc := bs, idx := xs, at_ := f 42 2, ks := f 42 2 }))))))

/-- mma (R309, R313), for one thread. -/
def laneMma (e : Bool) (h : BitVec 4) : LaneFn :=
  mxLane .mma e h

/-- mma (R309, R313). -/
def execMma (sw : Bool) (e : Bool) (h : BitVec 4) (a : BitVec 7) (s : State) : Host.Outcome State Fault Refusal :=
  runEach (.mma sw e h a) (laneMma e h) s

/-- mmas (R313, R318), for one thread. -/
def laneMmas (e : Bool) (h : BitVec 4) : LaneFn :=
  mxLane .mmas e h

/-- mmas (R313, R318). -/
def execMmas (sw : Bool) (e : Bool) (h : BitVec 4) (a : BitVec 7) (s : State) : Host.Outcome State Fault Refusal :=
  runEach (.mmas sw e h a) (laneMmas e h) s

/-! ### Tile and margin commands (R325) -/

/-- Every failure raises MX_FAULT with the address operand. -/
def tileLane (op : Op) (evt : Bool) (h : BitVec 4) (ok : Bool) (tile : Word) : LaneFn := fun v s =>
  if !ok then .trap s (trapAt causeMxFault v.addr)
  else withFirst v (if op = .azero then [] else [v.addr]) s
    (createCmd v h 1 op evt (fun c => { c with addr := v.addr, opnd := tile }))

/-- The operand of ald and ast: tile, first row, rows. -/
def tileOf (b : Word) : Nat := bitsOf b 2 0
def rowOf (b : Word) : Nat := bitsOf b 14 8
def rowsOf (b : Word) : Nat := bitsOf b 22 16 + 1

/-- An operand's address: the scratchpad or the global window, aligned, within the allocation. -/
def tileAddr (s : State) (team : Nat) (va : Word) (align n : Nat) : Bool :=
  va.toNat % align == 0 && (inGlobal va.toNat || scrRange s team va.toNat n)

def rowsOk (v : Env) (s : State) : Bool :=
  let b := v.opB
  b &&& ~~~0x7F7F07#64 == 0 && decide (rowOf b + rowsOf b ≤ 128) && decide (tileOf b < (s.team v.team).tiles)
    && tileAddr s v.team v.addr 64 (512 * rowsOf b)

def marginOk (v : Env) (s : State) : Bool :=
  let b := v.opB
  let o := bitsOf b 14 0
  let n := bitsOf b 31 16
  b &&& ~~~0xFFFF7FFF#64 == 0 && o % 8 == 0 && n % 8 == 0 && decide (8 ≤ n)
    && decide (o + n ≤ (s.team v.team).margBytes) && tileAddr s v.team v.addr 8 n

/-- azero (R325), for one thread. It has no address operand: its MX_FAULT records 0 (DESIGN CHOICE, log entry 67). -/
def laneAzero (e : Bool) (h : BitVec 4) (t : BitVec 3) : LaneFn :=
  fun v s =>
    tileLane .azero e h (decide (t.toNat < (s.team v.team).tiles)) (t.zeroExtend 64) { v with addr := 0 } s

/-- azero (R325). -/
def execAzero (sw : Bool) (e : Bool) (h : BitVec 4) (t : BitVec 3) (s : State) : Host.Outcome State Fault Refusal :=
  runEach (.azero sw e h t) (laneAzero e h t) s

/-- ald (R325), for one thread. -/
def laneAld (e : Bool) (h : BitVec 4) : LaneFn :=
  fun v s => tileLane .ald e h (rowsOk v s) v.opB v s

/-- ald (R325). -/
def execAld (sw : Bool) (e : Bool) (h : BitVec 4) (a : BitVec 7) (b : Opnd)
    (s : State) : Host.Outcome State Fault Refusal :=
  runEach (.ald sw e h a b) (laneAld e h) s

/-- ast (R325), for one thread. -/
def laneAst (e : Bool) (h : BitVec 4) : LaneFn :=
  fun v s => tileLane .ast e h (rowsOk v s) v.opB v s

/-- ast (R325). -/
def execAst (sw : Bool) (e : Bool) (h : BitVec 4) (a : BitVec 7) (b : Opnd)
    (s : State) : Host.Outcome State Fault Refusal :=
  runEach (.ast sw e h a b) (laneAst e h) s

/-- mgld (R325), for one thread. -/
def laneMgld (e : Bool) (h : BitVec 4) : LaneFn :=
  fun v s => tileLane .mgld e h (marginOk v s) v.opB v s

/-- mgld (R325). -/
def execMgld (sw : Bool) (e : Bool) (h : BitVec 4) (a : BitVec 7) (b : Opnd)
    (s : State) : Host.Outcome State Fault Refusal :=
  runEach (.mgld sw e h a b) (laneMgld e h) s

/-! ### The engine (R308, R314 to R324) -/

/-- The command `c` enters the matrix engine before `d`, which has a later SEQ: not where both were issued in one cycle and `d` by a
lower-numbered nib (R308). -/
def Cmd.enters (c d : Cmd) : Bool := decide (c.issued < d.issued) || decide (c.slot % 8 ≤ d.slot % 8)

/-- The command at the head of a core's matrix engine: of those of the active context that are not complete, the first in issue order
(R308). A command enters in the cycle after its issue, with those of its cycle in the order of their nibs (DEDUCED, log entry 20). -/
def mxHead (s : State) (core : Nat) : Option Cmd :=
  (((s.core core).cmds.filter (fun p => p.2.cls == 1 && decide (p.2.status < 2) && decide (p.2.issued < s.now)
    && !(p.2.status == stQueued && p.2.cancel) && (s.core core).active == some p.2.ctx)).map (fun p => p.2)).foldl
    (fun m c => match m with | some d => if d.enters c then some d else some c | none => some c) none

/-- Tile elements. -/
def accKey (team tile row col : Nat) : Nat := (team * 8 + tile) * 2 ^ 14 + row * 128 + col
def accGet (s : State) (k : Nat) : W32 := Tbl.getD s.acc k 0
def accSet (s : State) (k : Nat) (x : W32) : State := { s with acc := Tbl.put 0 s.acc k x }

/-- Margin bytes of a team. -/
def marginKey (team o : Nat) : Nat := team * 2 ^ 15 + o

/-- The key of a command's leave. -/
def leaveKey (core seq : Nat) : Nat := core * 2 ^ 34 + seq

/-- The blocks of tiles, palette and margin that a class-1 command works on (R390). -/
def mxBlocks (s : State) (c : Cmd) : List Nat :=
  let tm := s.team c.team
  match c.op with
  | .mma | .mmas => tileBlocks (tm.tileBase + descNat c 36 1 % 8) ++ palBlocks
      ++ (if c.op = .mmas then margBlocks (tm.margBase + descNat c 40 2) (mxM c.desc * mxK c.desc / 8) else [])
  | .mgld => margBlocks (tm.margBase + bitsOf c.opnd 14 0) (bitsOf c.opnd 31 16)
  | _ => tileBlocks (tm.tileBase + bitsOf c.opnd 2 0)

/-- The first of them that is not in place. -/
def mxAwaits (s : State) (c : Cmd) : Option Nat := (mxBlocks s c).find? (partAwaited s c.core c.ctx)

/-- An engine command goes on only once its tile, its records and its metadata are in place (R390). -/
def mxInPlace (s : State) (c : Cmd) : Bool := (mxAwaits s c).isNone

/-- A command that is not in place demands what it waits for. -/
def mxDemand (s : State) (c : Cmd) : State := match mxAwaits s c with | some b => demand s c.core b | none => s

/-- A command gives up its grant, or its place among the requests (R380). -/
def dropLeave (s : State) (c : Cmd) : State :=
  let k := leaveKey c.core c.seq
  s.updDie (dieOf c.core) (fun d => { d with
    grants := d.grants.filter (fun x => x != k), leaveQ := d.leaveQ.filter (fun x => x.2 != k) })

/-- The records of a matrix command. -/
def recA (s : State) (c : Cmd) : PalRec := (palRec? s c.team (descNat c 34 1 % 64)).getD ⟨1, 0, 0, 0, [], false⟩
def recB (s : State) (c : Cmd) : PalRec := (palRec? s c.team (descNat c 35 1 % 64)).getD ⟨1, 0, 0, 0, [], false⟩

/-- The source row of logical row `i`; none is a zero row (R310). -/
def sourceRow (c : Cmd) (i : Nat) : Option Nat :=
  if descNat c 16 8 = 0 then some i
  else
    let x := (c.idx[i]?).getD 0xFFFF_FFFF
    if x = 0xFFFF_FFFF then none else some x

/-- Stored bytes of `w` logical elements of a row of A. -/
def aLen (s : State) (c : Cmd) (w : Nat) : Nat := (if c.op = .mmas then w / 2 else w) * palEs (recA s c)

/-- The ranges of A that the elements from k = `lo` to `hi` stand in; a zero row has none. -/
def aRanges (s : State) (c : Cmd) (lo hi : Nat) : List (Option (Nat × Nat)) :=
  (List.range (mxM c.desc)).map (fun i => (sourceRow c i).map (fun r =>
    (descNat c 0 8 + r * descNat c 24 2 + aLen s c lo, aLen s c (hi - lo))))

/-- The ranges of B: rows of k, or columns where B is stored transposed (R310). -/
def bRanges (s : State) (c : Cmd) (lo hi : Nat) : List (Option (Nat × Nat)) :=
  let es := palEs (recB s c)
  let base := descNat c 8 8
  let stride := descNat c 26 2
  if mxBT c.desc then (List.range (mxN c.desc)).map (fun j => some (base + j * stride + lo * es, (hi - lo) * es))
  else (List.range (hi - lo)).map (fun k => some (base + (lo + k) * stride, mxN c.desc * es))

/-- The ranges that the engine reads for one k-step, those of A and then those of B, each with its length. -/
def stepRanges (s : State) (c : Cmd) (lo hi : Nat) : List (Option (Nat × Nat) × Nat) :=
  (aRanges s c lo hi ++ bRanges s c lo hi).map (fun r => (r, match r with | some x => x.2 | none => aLen s c (hi - lo)))

/-- The ranges that bytes already read do not reach. -/
def rangesLeft : Nat → List (Option (Nat × Nat) × Nat) → List (Option (Nat × Nat) × Nat)
  | _, [] => []
  | n, r :: rs => if 0 < r.2 && r.2 ≤ n then rangesLeft (n - r.2) rs else r :: rs

/-- Ranges read one after another; zeros stand for a range that is not there. What has been read comes with the end. -/
def readRanges (c : Cmd) : List (Option (Nat × Nat) × Nat) → List Byte → State → List Byte × Eng Unit
  | [], got, s => (got, .ok () s)
  | (none, n) :: rs, got, s => readRanges c rs (got ++ List.replicate n 0) s
  | (some (a, m), _) :: rs, got, s =>
    match engRead c (BitVec.ofNat 64 a) m s with
    | .ok x s => readRanges c rs (got ++ x) s
    | .wait s => (got, .wait s)
    | .fault key va s => (got, .fault key va s)
    | .fail ek pk a s => (got, .fail ek pk a s)

/-- Bytes of one k-step of `w` values. -/
def stepLen (s : State) (c : Cmd) (w : Nat) : Nat := mxM c.desc * aLen s c w + mxN c.desc * (w * palEs (recB s c))

/-- Position of stored element `x` of row `i` of A within the step, and its k: itself, or as the metadata says (R318). -/
def sparseK (s : State) (c : Cmd) (i x : Nat) : Nat :=
  let g := x / 2
  let b := (Memory.read s.margin (marginKey c.team (descNat c 40 2 + i * mxK c.desc / 8 + g / 2))).toNat
  let nib := b / 16 ^ (g % 2) % 16
  4 * g + (if x % 2 = 0 then nib % 4 else nib / 4)

/-- The terms of element (i, j) in the k-step from `lo` to `hi` whose bytes are given (R315, R316, R318). -/
def stepTerms (s : State) (c : Cmd) (lo hi : Nat) (bs : List Byte) (i j : Nat) : List Term :=
  match sourceRow c i with
  | none => [.val (.fin false 0 0)]
  | some r =>
    let ra := recA s c
    let rb := recB s c
    let ea := palEs ra
    let eb := palEs rb
    let w := hi - lo
    let al := aLen s c w
    let b0 := mxM c.desc * al
    let elemB (k : Nat) : Nat :=
      fieldAt bs (b0 + (if mxBT c.desc then j * w + (k - lo) else (k - lo) * mxN c.desc + j) * eb) eb
    (List.range (al / ea)).map (fun x =>
      let k := if c.op = .mmas then sparseK s c i (lo / 2 + x) else lo + x
      Term.times (scaled ra r k (fieldAt bs (i * al + x * ea) ea)) (scaled rb j k (elemB k)))

/-- The terms of an element in the open partial sum: its k-steps start at `ks`, and their bytes stand in `cfg`. -/
def openTerms (s : State) (c : Cmd) (i j : Nat) : List Term :=
  let l := stepLen s c 8
  (List.range ((c.at_ - c.ks + 7) / 8)).flatMap (fun t =>
    let lo := c.ks + 8 * t
    stepTerms s c lo (min c.at_ (lo + 8)) ((c.cfg.drop (t * l)).take l) i j)

/-- The open partial sum is rounded into the tile, with RNE and subnormals kept; MXF takes the flags. A
zero row leaves its elements as they are, but for −0 (R315 to R317). -/
def mxRound (c : Cmd) (s : State) : Cmd × State :=
  let cells := (List.range (mxM c.desc)).flatMap (fun i => (List.range (mxN c.desc)).map (fun j => (i, j)))
  let new := cells.map (fun p =>
    let k := accKey c.team (descNat c 36 1 % 8) p.1 p.2
    if (sourceRow c p.1).isNone then (k, (if accGet s k = 0x8000_0000#32 then 0 else (accGet s k).toNat), 0)
    else
      let r := (sumTerms (.val (FT.f32.decode (accGet s k).toNat) :: openTerms s c p.1 p.2)).round .f32 .rne false
      (k, r.bits, r.flags))
  let s := new.foldl (fun s x => accSet s x.1 (BitVec.ofNat 32 x.2.1)) s
  let fl : Flags := new.foldl (fun a x => a ||| x.2.2) 0
  ({ c with ks := c.at_, cfg := [] }, s.updTeam c.team (fun t => { t with mxf := t.mxf ||| fl }))

/-- A partial sum that is open is rounded. -/
def mxClose (c : Cmd) (s : State) : Cmd × State := if c.ks < c.at_ then mxRound c s else (c, s)

/-- STATE, and KDONE where it is written (R309). -/
def writeBlock (s : State) (c : Cmd) (kdone : Option Nat) (st : Nat) : State :=
  match window c.addr with
  | .scr i o =>
    match scratchAt s c.team i o 64 with
    | some (key, _) =>
      let s := match kdone with | some k => scratchWrite s (key + 42) (natToBytes 2 k) | none => s
      scratchWrite s (key + 44) (natToBytes 1 st)
    | none => s
  | _ => s

/-- The end of a matrix command: its leave ends, and its block is written. -/
def mxEnd (s : State) (c : Cmd) (status ekind pkind : Nat) (addr : Word) (prog : Nat) : State :=
  let s := writeBlock (dropLeave s c) c (some (if status = stDone then 0 else c.at_)) (if status = stDone then 0 else 2)
  finishCmd s c status ekind pkind addr prog

/-- Whether the tile, the palette records or the metadata that a command reads are poisoned or fail parity (R80, R81). -/
def mxPoisoned (s : State) (c : Cmd) : Bool :=
  let tile := descNat c 36 1 % 8
  (recA s c).bad || (recB s c).bad
    || (!s.poison.isEmpty && ((List.range (mxM c.desc)).any (fun i =>
        poisonedRange s poisonAcc (accKey c.team tile i 0) (mxN c.desc))
      || (c.op == .mmas && poisonedRange s poisonMargin (marginKey c.team (descNat c 40 2)) (mxM c.desc * mxK c.desc / 8))))

/-- The bytes read of a k-step that is not complete. -/
def stepBytes (s : State) (c : Cmd) : List Byte := c.cfg.drop ((c.at_ - c.ks) / 8 * stepLen s c 8)

/-- The progress index where the reading of a k-step stops (R324): with BT = 0 the row of B not yet read, once A's part of the
step is; else the k-step. -/
def stepProgress (s : State) (c : Cmd) (hi : Nat) : Nat :=
  let a := mxM c.desc * aLen s c (hi - c.at_)
  let n := (stepBytes s c).length
  if mxBT c.desc || n < a then c.at_ else c.at_ + (n - a) / (mxN c.desc * palEs (recB s c))

/-- One k-step (R315): what it reads joins the open partial sum, which the end of a chunk rounds. A step that stops keeps what it
has read, and goes on from there (R324). -/
def mxStep (c : Cmd) (s : State) : Cmd × Eng Cmd :=
  let hi := min (mxK c.desc) (c.at_ + 8)
  if mxPoisoned s c then (c, .fail 3 0 0 s)
  else
    let rs := rangesLeft (stepBytes s c).length (stepRanges s c c.at_ hi)
    let (bs, r) := readRanges c rs [] s
    let c := { c with cfg := c.cfg ++ bs }
    (c, r.bind (fun _ s =>
      let c := { c with at_ := hi }
      if hi % mxChunk c.desc = 0 ∨ hi = mxK c.desc then
        let (c, s) := mxRound c s
        .ok c s
      else .ok c s))

/-- At most `n` k-steps. A fault suspends the command with its partial sum; a failure ends it at its progress index, its open sum
rounded at the k-step (R324). -/
def mxSteps : Nat → Cmd → State → State
  | 0, c, s => setCmd s c
  | n + 1, c, s =>
    match mxStep c s with
    | (c, .wait s) => setCmd s c
    | (c, .fault key va s) => setCmd s { c with fault := some key, faultVa := va }
    | (c, .fail ek pk a s) =>
      let k := stepProgress s c (min (mxK c.desc) (c.at_ + 8))
      let (c, s) := mxClose c s
      mxEnd s c stError ek pk a k
    | (_, .ok c s) => if mxK c.desc ≤ c.at_ then mxEnd s c stDone 0 0 0 c.at_ else mxSteps n c s

/-- The index vector is read again where a restored command goes on (R321). -/
def mxIndex (c : Cmd) (s : State) (k : Cmd → State → State) : State :=
  if descNat c 16 8 = 0 || !c.idx.isEmpty then k c s
  else
    match engRead c (BitVec.ofNat 64 (descNat c 16 8)) (4 * mxM c.desc) s with
    | .ok bs s => k { c with idx := (List.range (mxM c.desc)).map (fun i => fieldAt bs (4 * i) 4) } s
    | .wait s => s
    | .fault key va s => setCmd s { c with fault := some key, faultVa := va }
    | .fail ek pk a s => mxEnd s c stError ek pk a c.at_

/-- Requests for leave stand in the order they arrive, those of one cycle by ascending core (R380). -/
def leaveOrder (a b : Nat × Nat) : Bool := decide (a.1 < b.1) || (a.1 == b.1 && decide (a.2 / 2 ^ 34 ≤ b.2 / 2 ^ 34))

/-- A command above the threshold asks for leave before its first term, and on every resumption (R320). -/
def mxLeave (c : Cmd) (s : State) (k : Cmd → State → State) : State :=
  if mxM c.desc * mxN c.desc * mxK c.desc ≤ Config.leaveThreshold then k c s
  else
    match c.leave with
    | some true => k c s
    | some false => s
    | none => (setCmd s { c with leave := some false }).updDie (dieOf c.core) (fun d =>
        { d with leaveQ := (d.leaveQ ++ [(s.now, leaveKey c.core c.seq)]).sortBy leaveOrder })

/-- MMA_RUN (R308, R314, R315): at most `steps` k-steps of the matrix command at the head. -/
def execMmaRun (core : Nat) (steps : Nat) (s : State) : Host.Outcome State Fault Refusal :=
  .next (match mxHead s core with
    | none => s
    | some c =>
      if !(c.op == .mma || c.op == .mmas) || !canRun s c || c.stop.isSome then s
      else if !mxInPlace s c then mxDemand s c
      else if c.retired then finishCmd s { c with started := true } stDone 0 0 0 0
      else
        let (c, s) := startCmd s c
        mxLeave c s (fun c s => mxIndex c s (mxSteps steps)))

/-- A stop that is pending is carried out (R321, R322): for a swap the command stays outstanding, and reads its operands and its
index vector again when it goes on. -/
def mxStop (s : State) (c : Cmd) (ckpt : Bool) : State :=
  let (c, s) := mxClose c s
  let c := { c with stop := none, leave := none, cfg := [] }
  if ckpt then mxEnd s c stStopped 0 0 0 c.at_ else setCmd (dropLeave s c) { c with idx := [] }

/-- MMA_STOP (R321, R322): a stop that is pending rounds the open partial sum. -/
def execMmaStop (core : Nat) (s : State) : Host.Outcome State Fault Refusal :=
  .next (match (s.core core).cmds.find? (fun p => p.2.cls == 1 && decide (p.2.status < 2) && p.2.stop.isSome) with
    | some (_, c) => mxStop s c (c.stop == some true)
    | none => s)

/-- One row of a tile. -/
def rowGet (s : State) (team tile row : Nat) : List Byte :=
  (List.range 128).flatMap (fun j => natToBytes 4 (accGet s (accKey team tile row j)).toNat)
def rowSet (s : State) (team tile row : Nat) (bs : List Byte) : State :=
  let s := if s.poison.isEmpty then s
    else { s with poison := s.poison.filter (fun p =>
      !(decide (poisonAcc (accKey team tile row 0) ≤ p) && decide (p ≤ poisonAcc (accKey team tile row 127)))) }
  (List.range 128).foldl (fun s j => accSet s (accKey team tile row j) (BitVec.ofNat 32 (fieldAt bs (4 * j) 4))) s

/-- Row `r` of a tile command. -/
def tileRow (c : Cmd) (r : Nat) (s : State) : Eng Unit :=
  let b := c.opnd
  match c.op with
  | .azero => .ok () (rowSet s c.team (tileOf b) r [])
  | .ald => (engRead c (c.addr + BitVec.ofNat 64 (512 * r)) 512 s).bind (fun bs s =>
      .ok () (rowSet s c.team (tileOf b) (rowOf b + r) bs))
  | .ast =>
    if poisonedRange s poisonAcc (accKey c.team (tileOf b) (rowOf b + r) 0) 128 then .fail 3 0 0 s
    else engWrites c [(c.addr + BitVec.ofNat 64 (512 * r), rowGet s c.team (tileOf b) (rowOf b + r))] s
  | .mgld => (engRead c c.addr (bitsOf b 31 16) s).bind (fun bs s =>
      let s := { s with margin := Memory.writeN s.margin (marginKey c.team (bitsOf b 14 0)) bs }
      .ok () (unpoison s poisonMargin (marginKey c.team (bitsOf b 14 0)) bs.length))
  | _ => .ok () s

/-- Rows of a tile command. -/
def tileRows (c : Cmd) : Nat :=
  match c.op with
  | .azero => 128
  | .mgld => 1
  | _ => rowsOf c.opnd

/-- TILE_COMMAND_RUN (R325): the tile or margin command at the head runs row by row. -/
def execTileCommandRun (core : Nat) (s : State) : Host.Outcome State Fault Refusal :=
  .next (match mxHead s core with
    | none => s
    | some c =>
      if c.op == .mma || c.op == .mmas || !canRun s c then s
      else if !mxInPlace s c then mxDemand s c
      else
        let (c, s) := startCmd s c
        runRows (tileRow c) c (tileRows c) (tileRows c - c.at_) s)

/-- LEAVE_GRANT (R380): the governor grants the oldest request while fewer than GMAX grants are held, once every request of its
cycle is there. -/
def execLeaveGrant (die : Nat) (s : State) : Host.Outcome State Fault Refusal :=
  .next (
    let d := s.die die
    match d.leaveQ with
    | [] => s
    | (cycle, k) :: rest =>
      if d.gmax ≤ d.grants.length || s.now ≤ cycle then s
      else
        let s := s.setDie die { d with grants := d.grants ++ [k], leaveQ := rest }
        match getCmd s (k / 2 ^ 34) 1 (k % 2 ^ 34) with
        | some c => setCmd s { c with leave := some true }
        | none => s)

end Sys2Proof.Machine
end

