-- ==== Sys2Proof/Machine/Ligature.lean ====
section
/-! DEFINITION. The Ligature unit (R349 to R369, R454). -/

namespace Sys2Proof.Machine

/-! ### Head-sets (R349, R350, R353, R357) -/

/-- A head-set of a context; one that nothing has written is unconfigured. -/
def headSet (s : State) (ctx set : Nat) : HeadSet := Tbl.getD (s.ctx ctx).heads set ⟨none, 0, false, []⟩
def setHeadSet (s : State) (ctx set : Nat) (x : HeadSet) : State :=
  s.updCtx ctx (fun c => { c with heads := Tbl.set c.heads set x })

/-- The fields of a configuration record (R349). -/
def lgD (r : List Byte) : Nat := fieldAt r 0 2
def lgT (r : List Byte) : Nat := fieldAt r 2 1
def lgB (r : List Byte) : Nat := fieldAt r 3 1
def lgKmax (r : List Byte) : Nat := fieldAt r 4 2
def lgMaxch (r : List Byte) : Nat := fieldAt r 6 1
def lgFmt (r : List Byte) : FT := if fieldAt r 7 1 = 1 then .f16 else .bf16
def lgH0 (r : List Byte) : Nat := fieldAt r 8 2
def lgNh (r : List Byte) : Nat := fieldAt r 10 2
def lgPool (r : List Byte) : Nat := fieldAt r 12 4
def lgPoff (r : List Byte) : Nat := fieldAt r 16 2
def lgRow (r : List Byte) : Nat := lgD r * 2
def lgProjLen (r : List Byte) : Nat := lgT r * lgB r * lgD r * 2

/-- The buckets of a set as an offset from LIGBASE and a length (R357). -/
def lgBuckets (r : List Byte) : Nat × Nat :=
  (lgH0 r * lgT r * 2 ^ lgB r * 64, lgNh r * lgT r * 2 ^ lgB r * 64)

/-- A range from LIGBASE lies within one die's slice and the context's bounds (R349). -/
def lgWithin (s : State) (ctx o n : Nat) : Bool :=
  let a := bitsOf (s.ctx ctx).ligbase 30 0 + o
  decide (a + n ≤ 2 ^ 31) && a / 2 ^ 28 == (a + n - 1) / 2 ^ 28 && wellBounds s ctx (a / 2 ^ 28) (a % 2 ^ 28) n

def overlaps (a n b m : Nat) : Bool := decide (a < b + m) && decide (b < a + n)

/-- The checks of a configuration record (R349), by ascending offset. -/
def lgFields (s : State) (ctx set : Nat) (r : List Byte) : List (Nat × Bool) :=
  let others := ((s.ctx ctx).heads.filter (fun p => p.1 != set)).filterMap (fun p => p.2.cfg)
  let bk := lgBuckets r
  let apart := others.all (fun o => !overlaps bk.1 bk.2 (lgBuckets o).1 (lgBuckets o).2
    && !overlaps bk.1 bk.2 (lgPool o) 64)
  [(0, decide (8 ≤ lgD r) && decide (lgD r ≤ 256) && lgD r % 8 == 0),
   (2, decide (1 ≤ lgT r) && decide (lgT r ≤ 8)),
   (3, decide (1 ≤ lgB r) && decide (lgB r ≤ 16) && decide (lgT r * lgB r ≤ 64)),
   (4, decide (1 ≤ lgKmax r) && decide (lgKmax r ≤ 4096)), (7, decide (fieldAt r 7 1 ≤ 1)),
   (8, decide (64 < lgB r) || (lgWithin s ctx bk.1 bk.2 && apart)),
   (10, decide (1 ≤ lgNh r) && decide (lgNh r ≤ 4096) && decide (lgH0 r + lgNh r ≤ 65536)),
   (12, lgPool r % 64 == 0 && lgWithin s ctx (lgPool r) 64),
   (16, lgPoff r % 512 == 0 && decide (lgPoff r + lgProjLen r ≤ 65536)
      && others.all (fun o => !overlaps (lgPoff r) (lgProjLen r) (lgPoff o) (lgProjLen o)))] ++ zeros r 18 31

/-- Statistics of a set (R367). -/
def bumpStat (s : State) (ctx set i n : Nat) : State :=
  let x := headSet s ctx set
  setHeadSet s ctx set { x with stats := Tbl.set x.stats i (Tbl.getD x.stats i 0 + BitVec.ofNat 64 n) }

/-- The set is closed by an operation of a thread, or the thread is held while another has it closed (R353). -/
def closeSet (s : State) (ctx set : Nat) : State := setHeadSet s ctx set { headSet s ctx set with closed := true }

/-- Whether a thread goes on after its own wait for the drain, with the record it read. -/
def drained (t : Thread) : Option (List Byte) :=
  match t.status with
  | .waking b => match b.why with | .ligDrain _ r _ => some r | _ => none
  | _ => none

/-- The set is closed and drained, and then `k` acts on it; at its end the set reopens. -/
def closing (v : Env) (set : Nat) (record : List Byte) (s : State) (k : List Byte → State → State) : LaneOut :=
  let finish (r : List Byte) (s : State) : LaneOut := .done (reopenSet (k r s) v.ctx set)
  match drained (s.thread v.key) with
  | some r => finish r s
  | none =>
    let s := closeSet s v.ctx set
    if (ligBefore s v.ctx set).isEmpty then finish record s else .block s (.ligDrain set record (ligBefore s v.ctx set))

/-- The record that an lgcfg has read already, where it waited for another operation that had the set closed. -/
def recordRead (t : Thread) : Option (List Byte) :=
  match t.status with
  | .waking b => match b.why with | .ligClosed _ r => if r.isEmpty then none else some r | _ => none
  | _ => none

/-- lgcfg (R349, R351), for one thread: the record is read and checked once. -/
def laneLgcfg : LaneFn :=
  fun v s =>
    let set := bitsOf v.opB 3 0
    let install (r : List Byte) (s : State) : State := setHeadSet s v.ctx set ⟨some r, 0, true, []⟩
    let go (r : List Byte) (s : State) : LaneOut :=
      if (headSet s v.ctx set).closed then .block s (.ligClosed set r) else closing v set r s install
    match drained (s.thread v.key), recordRead (s.thread v.key) with
    | some r, _ => closing v set r s install
    | none, some r => go r s
    | none, none =>
      match windowOf v.addr 32 with
      | .scr _ _ =>
        match checkAccess s (laneAccess v 32 8 .read false) with
        | (.trap x, s) => .trap s x
        | (.fault key va, s) => .block s (.fault key va)
        | (.wait w, s) => .block s w
        | (.ok p, s) => unpoisoned v s p 32 (fun s =>
          let (r, s) := placeRead s v.core p 32
          withFields v (lgFields s v.ctx set r) s (go r))
      | _ => .trap s (pageTrap 8 v.addr)

/-- lgcfg (R349, R351). -/
def execLgcfg (sw : Bool) (a : BitVec 7) (b : Opnd) (s : State) : Host.Outcome State Fault Refusal :=
  runEach (.lgcfg sw a b) laneLgcfg s

/-- Every bucket head of a set is zero, and its pool is empty (R355). -/
def clearBuckets (v : Env) (r : List Byte) (s : State) : State :=
  let s := waitRelease (performLoads s v.core v.key) v.core 3
  let (o, n) := lgBuckets r
  let (d, a) := wellAddr (s.ctx v.ctx).ligbase o
  let k := wellKey d a
  let s := { s with well := Memory.clear s.well k n }
  let s := clearTags (unpoison s poisonWell k n) (tagWell k) (tagWell (k + n - 1))
  let (pd, pa) := wellAddr (s.ctx v.ctx).ligbase (lgPool r)
  wellPut s pd (pa + 12) 4 0

/-- lgclr (R355), for one thread. -/
def laneLgclr : LaneFn :=
  fun v s =>
    let set := bitsOf v.opB 3 0
    match drained (s.thread v.key), (headSet s v.ctx set).cfg with
    | some r, _ => closing v set r s (clearBuckets v)
    | none, none => .trap s (trapOf causeLigState)
    | none, some r =>
      if (headSet s v.ctx set).closed then .block s (.ligClosed set []) else closing v set r s (clearBuckets v)

/-- lgclr (R355). -/
def execLgclr (sw : Bool) (b : Opnd) (s : State) : Host.Outcome State Fault Refusal :=
  runEach (.lgclr sw b) laneLgclr s

/-- lgstat (R367), for one thread. -/
def laneLgstat (ins : Instr) : LaneFn :=
  fun v s =>
    let x := headSet s v.ctx (bitsOf v.opB 3 0)
    let i := bitsOf v.opB 10 8
    let r := if x.cfg.isNone then 0 else if i = 7 then BitVec.ofNat 64 x.gen else Tbl.getD x.stats i 0
    .done (longResult s ins v r 0)

/-- lgstat (R367). -/
def execLgstat (sw : Bool) (d : BitVec 7) (b : Opnd) (s : State) : Host.Outcome State Fault Refusal :=
  runEach (.lgstat sw d b) (laneLgstat (.lgstat sw d b)) s

/-! ### Issue (R454) -/

/-- Steps 2 to 4: the hold while the set is closed, the set's state, and the snapshot (R353). -/
def withHeadSet (v : Env) (set : Nat) (needGen : Bool) (s : State) (k : HeadSet → List Byte → State → LaneOut) : LaneOut :=
  let x := headSet s v.ctx set
  if x.closed then .block s (.ligClosed set [])
  else
    match x.cfg with
    | none => .trap s (trapOf causeLigState)
    | some r => if needGen && x.gen == 0 then .trap s (trapOf causeLigState) else k x r s

/-- The snapshot that an issue held after step 4 has taken of its set: it goes on with step 6, the step at which it is held (R328, R353,
R454; DEDUCED, log entry 57). -/
def snapTaken (s : State) (v : Env) : Option (Nat × List Byte) := ((s.thread v.key).hasRead v.msg).bind IssueRead.snap

/-- Step 6 under a snapshot `x` of GEN and configuration: the first bytes of the global operands, and the command. -/
def withSnapshot (v : Env) (bs : List Byte) (x : Nat × List Byte) (ops : List Word) (s : State) (k : State → LaneOut) : LaneOut :=
  (withFirst v ops s k).keepRead v (fun r => { r with desc := bs, snap := some x })

/-- The issue of a form with a descriptor of `n` bytes, its SET field at `o`. -/
def ligLane (op : Op) (evt : Bool) (h : BitVec 4) (n o : Nat) (needGen : Bool)
    (fields : List Byte → List Byte → State → List (Nat × Bool)) (inks : List Byte → List Word) : LaneFn := fun v s =>
  withDesc v n s (fun bs s =>
    let set := fieldAt bs o 1
    let last (x : Nat × List Byte) (s : State) : LaneOut :=
      withSnapshot v bs x (inks bs) s (createCmd v h 3 op evt (fun c =>
        { c with addr := v.addr, desc := bs, gen := x.1, cfg := x.2, setNo := set }))
    match snapTaken s v with
    | some x => last x s
    | none =>
      if 15 < set then .trap s (mxTrap v.addr o)
      else withHeadSet v set needGen s (fun x r s => withFields v (fields bs r s) s (last (x.gen, r))))

/-- kstore (R360). -/
def kstoreFields (team : Nat) (bs r : List Byte) (s : State) : List (Nat × Bool) :=
  let f := fieldAt bs
  let nk := f 24 2
  let d := lgRow r
  let len (stride : Nat) : Nat := (nk - 1) * stride + d
  [(0, scrRange s team (f 0 8) (len (f 16 2))),
   (8, (f 8 8 / 2 ^ 56 == 0 || f 8 8 / 2 ^ 56 == 2) && rangeOk s team (f 8 8) (len (f 18 2))),
   (16, decide (nk ≤ 1) || decide (d ≤ f 16 2)), (18, decide (nk ≤ 1) || decide (d ≤ f 18 2)),
   (20, decide (f 20 4 + nk - 1 < 0xFFFFFFFF)), (24, decide (1 ≤ nk) && decide (nk ≤ 64)),
   (26, decide (f 26 2 < lgNh r))] ++ zeros bs 29 35 ++ zeros bs 41 63

/-- lgather (R362). -/
def lgatherFields (team : Nat) (bs r : List Byte) (s : State) : List (Nat × Bool) :=
  let f := fieldAt bs
  let d := lgRow r
  let rows := f 16 8 != 0
  [(0, scrRange s team (f 0 8) (f 34 1 * d)),
   (8, f 8 8 % 4 == 0 && scrRange s team (f 8 8) (4 + 4 * lgKmax r)),
   (16, !rows || scrRange s team (f 16 8) (lgKmax r * f 44 2)),
   (24, !rows || f 24 8 / 2 ^ 56 == 0 || f 24 8 / 2 ^ 56 == 2), (32, decide (d ≤ f 32 2)),
   (34, decide (1 ≤ f 34 1) && decide (f 34 1 ≤ 8)), (41, decide (f 41 1 ≤ 1)), (42, decide (f 42 2 < lgNh r)),
   (44, !rows || decide (d ≤ f 44 2))] ++ zeros bs 46 63

/-- lgsig (R366). -/
def lgsigFields (team : Nat) (bs r : List Byte) (s : State) : List (Nat × Bool) :=
  let f := fieldAt bs
  let d := lgRow r
  let nr := f 18 2
  [(0, scrRange s team (f 0 8) ((nr - 1) * f 16 2 + d)), (8, f 8 8 % 8 == 0 && scrRange s team (f 8 8) (8 * nr)),
   (16, decide (d ≤ f 16 2)), (18, decide (1 ≤ nr) && decide (nr ≤ 64))] ++ zeros bs 21 35

/-- lgpool (R354). -/
def lgpoolFields (bs _ : List Byte) (_ : State) : List (Nat × Bool) :=
  [(0, inGlobal (fieldAt bs 0 8) && fieldAt bs 0 8 % 64 == 0),
   (8, decide (1 ≤ fieldAt bs 8 4) && decide (fieldAt bs 8 4 ≤ 2 ^ 24))] ++ zeros bs 13 15

/-- kstore (R360, R454), for one thread. -/
def laneKstore (e : Bool) (h : BitVec 4) : LaneFn :=
  fun v s =>
    ligLane .kstore e h 64 28 true (kstoreFields v.team) (fun bs => [BitVec.ofNat 64 (fieldAt bs 8 8)]) v s

/-- kstore (R360, R454). -/
def execKstore (sw : Bool) (e : Bool) (h : BitVec 4) (a : BitVec 7) (s : State) : Host.Outcome State Fault Refusal :=
  runEach (.kstore sw e h a) (laneKstore e h) s

/-- lgather (R362, R454), for one thread. -/
def laneLgather (e : Bool) (h : BitVec 4) : LaneFn :=
  fun v s =>
    ligLane .lgather e h 64 35 true (lgatherFields v.team)
      (fun bs => if fieldAt bs 16 8 = 0 then [] else [BitVec.ofNat 64 (fieldAt bs 24 8)]) v s

/-- lgather (R362, R454). -/
def execLgather (sw : Bool) (e : Bool) (h : BitVec 4) (a : BitVec 7) (s : State) : Host.Outcome State Fault Refusal :=
  runEach (.lgather sw e h a) (laneLgather e h) s

/-- lgsig (R366, R454), for one thread. -/
def laneLgsig (e : Bool) (h : BitVec 4) : LaneFn :=
  fun v s =>
    ligLane .lgsig e h 64 20 true (lgsigFields v.team) (fun _ => []) v s

/-- lgsig (R366, R454). -/
def execLgsig (sw : Bool) (e : Bool) (h : BitVec 4) (a : BitVec 7) (s : State) : Host.Outcome State Fault Refusal :=
  runEach (.lgsig sw e h a) (laneLgsig e h) s

/-- lgpool (R354, R454), for one thread. -/
def laneLgpool (e : Bool) (h : BitVec 4) : LaneFn :=
  ligLane .lgpool e h 16 12 false lgpoolFields (fun _ => [])

/-- lgpool (R354, R454). -/
def execLgpool (sw : Bool) (e : Bool) (h : BitVec 4) (a : BitVec 7) (s : State) : Host.Outcome State Fault Refusal :=
  runEach (.lgpool sw e h a) (laneLgpool e h) s

/-- A trap of a thread that has closed a set: the set reopens. -/
def reopening (ctx set : Nat) : LaneOut → LaneOut
  | .trap s t => .trap (reopenSet s ctx set) t
  | r => r

/-- lgproj (R352, R454), for one thread. From step 4 on the set is closed by it, until the command completes or its issue traps
(R353). -/
def laneLgproj (e : Bool) (h : BitVec 4) : LaneFn :=
  fun v s =>
    let set := bitsOf v.opB 3 0
    let last (x : Nat × List Byte) (s : State) : LaneOut :=
      withSnapshot v [] x [v.addr] s (fun s => createCmd v h 3 .lgproj e (fun c =>
        { c with addr := v.addr, gen := x.1, cfg := x.2, setNo := set, drains := ligBefore s v.ctx set }) s)
    match snapTaken s v with
    | some x => reopening v.ctx set (last x s)
    | none =>
      withHeadSet v set false s (fun x r s =>
        let s := closeSet s v.ctx set
        reopening v.ctx set (
          if v.addr.toNat / 2 ^ 56 ≠ 0 ∧ v.addr.toNat / 2 ^ 56 ≠ 2 then .trap s (pageTrap 8 v.addr)
          else if v.addr.toNat % 2 ≠ 0 then .trap s (trapAt causeAlign v.addr)
          else last (x.gen, r) s))

/-- lgproj (R352, R454). -/
def execLgproj (sw : Bool) (e : Bool) (h : BitVec 4) (a : BitVec 7) (b : Opnd)
    (s : State) : Host.Outcome State Fault Refusal :=
  runEach (.lgproj sw e h a b) (laneLgproj e h) s

/-! ### Signatures (R356) -/

/-- One row of the projection times a row of elements. -/
def sigSum (s : State) (c : Cmd) (row : List Byte) (r : Nat) : FSum :=
  sumTerms ((List.range (lgD c.cfg)).map (fun k =>
    let p := Memory.nat (s.ctx c.ctx).proj (lgPoff c.cfg + (r * lgD c.cfg + k) * 2) 2
    FVal.mul (FT.bf16.decode p) ((lgFmt c.cfg).decode (fieldAt row (2 * k) 2))))

/-- The signature of a row; none where a sum is NaN. -/
def signature (s : State) (c : Cmd) (row : List Byte) : Option Nat :=
  let sums := (List.range (lgT c.cfg * lgB c.cfg)).map (sigSum s c row)
  if sums.any (fun x => x.nan || (x.pinf && x.ninf)) then none
  else some (sums.foldr (fun x n => 2 * n + (if x.ninf || (!x.pinf && decide (x.t < 0)) then 0 else 1)) 0)

/-- The address of the head of table `j` of head `h` that a signature picks (R357). -/
def headVa (s : State) (c : Cmd) (h sig j : Nat) : Word :=
  let b := lgB c.cfg
  let u := sig / 2 ^ (j * b) % 2 ^ b
  (s.ctx c.ctx).ligbase + BitVec.ofNat 64 (((h * lgT c.cfg + j) * 2 ^ b + u) * 64)
def poolVa (s : State) (c : Cmd) : Word := (s.ctx c.ctx).ligbase + BitVec.ofNat 64 (lgPool c.cfg)

/-- The fields of a bucket head (R358). -/
def hdGen (b : List Byte) : Nat := fieldAt b 0 2
def hdSat (b : List Byte) : Bool := decide (2 ^ 15 ≤ fieldAt b 2 2)
def hdN (b : List Byte) : Nat := fieldAt b 2 2 % 2 ^ 15
def hdChain (b : List Byte) : Nat := fieldAt b 4 8
def hdEmpty (b : List Byte) : Bool := hdN b == 0 && !hdSat b

/-- The bytes of a head: generation, saturation, count, chain, ids. -/
def hdBytes (gen : Nat) (sat : Bool) (n chain : Nat) (ids : List Byte) : List Byte :=
  natToBytes 2 gen ++ natToBytes 2 (n % 2 ^ 15 + (if sat then 2 ^ 15 else 0)) ++ natToBytes 8 chain ++ ids

/-- A head as a link of generation `gen` finds it: its count, its saturation, its chain and its ids; a stale one starts afresh
(R359). -/
structure Head where
  n : Nat
  sat : Bool
  chain : Nat
  ids : List Byte
  deriving DecidableEq, Repr

/-- The head that 64 bytes stand for, under a generation. -/
def headOf (gen : Nat) (b : List Byte) : Head :=
  if !hdEmpty b && hdGen b != gen then ⟨0, false, 0, b.drop 12⟩ else ⟨hdN b, hdSat b, hdChain b, b.drop 12⟩

/-- The Well key of a head at an address. -/
def headKey (at_ : Word) : Nat :=
  match window at_ with
  | .well d o => wellKey d o
  | _ => 0

/-- A link whose head was held lets the operations that wait for it go on. -/
def freeHead (c : Cmd) (s : State) : State := if c.link.isSome then s.wakeAll (fun _ w => w == .bucket) else s

/-- The pool gives a chain block, which is taken from then on, and the link holds its head (R354, R359). -/
def takeBlock (c : Cmd) (at_ : Word) (s : State) : Eng Cmd :=
  (engRead c (poolVa s c) 16 s).bind (fun pool s =>
    let next := fieldAt pool 12 4
    if fieldAt pool 8 4 ≤ next then .fail 6 0 0 s
    else
      (engWrites c [(poolVa s c + 12, natToBytes 4 (next + 1))] s).bind (fun _ s =>
        .ok { c with link := some (headKey at_, fieldAt pool 0 8 + next * 64) } (bumpStat s c.ctx c.setNo 2 1)))

/-- The end of a link: its blocks are written, the head among them, and its statistic counts; `w` are the chain bytes that it
wrote. -/
def endLink (c : Cmd) (stat w : List Nat) (ws : List (Word × List Byte)) (s : State) : Eng Cmd :=
  (engWrites c ws s).bind (fun _ s =>
    .ok { c with idx := c.idx ++ w, at_ := c.at_ + 1, link := none }
      (stat.foldl (fun s k => bumpStat s c.ctx c.setNo k 1) (freeHead c s)))

/-- One link of token `tk` into a head, or its first half (R359): where it needs a chain block, the block is taken, and the link goes
on with the block it has taken, which is written before the head. -/
def linkToken (c : Cmd) (at_ : Word) (tk : Nat) (s : State) : Eng Cmd :=
  (engRead c at_ 64 s).bind (fun b s =>
    let x := headOf c.gen b
    let put (sat : Bool) (n chain : Nat) (ids : List Byte) : Word × List Byte := (at_, hdBytes c.gen sat n chain ids)
    let q := x.n - 13
    if x.sat then endLink c [] [] [put true x.n x.chain x.ids] s
    else if x.n < 13 then endLink c [1] [] [put false (x.n + 1) x.chain (patch x.ids (4 * x.n) (natToBytes 4 tk))] s
    else if q % 14 ≠ 0 then
      let a := x.chain + 8 + 4 * (q % 14)
      endLink c [1] [a] [(BitVec.ofNat 64 a, natToBytes 4 tk), put false (x.n + 1) x.chain x.ids] s
    else if q / 14 = lgMaxch c.cfg then endLink c [3] [] [put true x.n x.chain x.ids] s
    else
      match c.link with
      | none => takeBlock c at_ s
      | some (_, blk) =>
        endLink c [1] [blk] [(BitVec.ofNat 64 blk, natToBytes 8 x.chain ++ natToBytes 4 tk), put false (x.n + 1) blk x.ids] s)

/-! ### The unit (R361 to R366) -/

/-- The class-3 command at the head of a core's unit: the oldest of the active context that is not complete (R361). -/
def ligHead (s : State) (core seq : Nat) (op : Op) : Option Cmd :=
  match (s.core core).cmds.find? (fun p => p.2.cls == 3 && decide (p.2.status < 2)
      && !(p.2.status == stQueued && p.2.cancel) && (s.core core).active == some p.2.ctx) with
  | some (_, c) => if c.seq = seq && c.op == op && canRun s c then some c else none
  | none => none

/-- The global head number of a command. -/
def headNo (c : Cmd) (o : Nat) : Nat := lgH0 c.cfg + descNat c o 2

/-- Step `j` of key `i` of a kstore (R361): the row is read, its signature computed and kept, and the row written; or the link in
table j − 1. -/
def kstoreStep (c : Cmd) (i j : Nat) (s : State) : Eng Cmd :=
  if j = 0 then
    (engRead c (BitVec.ofNat 64 (descNat c 0 8 + i * descNat c 16 2)) (lgRow c.cfg) s).bind (fun row s =>
      match signature s c row with
      | none => .fail 7 0 0 s
      | some sig =>
        (engWrites c [(BitVec.ofNat 64 (descNat c 8 8 + i * descNat c 18 2), row)] s).bind (fun _ s =>
          .ok { c with ks := sig, at_ := c.at_ + 1 } (bumpStat s c.ctx c.setNo 0 1)))
  else linkToken c (headVa s c (headNo c 26) c.ks (j - 1)) (descNat c 20 4 + i) s

/-- The steps of a kstore: a row and one for each table, for each key. -/
def kstoreTotal (c : Cmd) : Nat := descNat c 24 2 * (lgT c.cfg + 1)

/-- At most `n` halves of steps of a kstore from step `at_` on; a fault suspends it there, with the block that its link has taken, and
its end records the key. -/
def kstoreSteps : Nat → Cmd → State → State
  | 0, c, s => setCmd s c
  | n + 1, c, s =>
    let t := lgT c.cfg + 1
    if kstoreTotal c ≤ c.at_ then finishCmd s c stDone 0 0 0 (descNat c 24 2)
    else match kstoreStep c (c.at_ / t) (c.at_ % t) s with
    | .ok c s => kstoreSteps n c s
    | .wait s => setCmd s c
    | .fault key va s => setCmd s { c with fault := some key, faultVa := va }
    | .fail ek pk a s => finishCmd s c stError ek pk a (c.at_ / t)

/-- KSTORE_RUN (R361): keys are written and linked in ascending order. -/
def execKstoreRun (core : Nat) (seq : Nat) (s : State) : Host.Outcome State Fault Refusal :=
  .next (match ligHead s core seq .kstore with
    | none => s
    | some c =>
      let (c, s) := startCmd s c
      kstoreSteps (2 * (kstoreTotal c - c.at_) + 1) c s)

/-- What an lgather has found: the token ids, and the reasons of R365. -/
structure Found where
  ids : List Nat
  stale : Bool
  sat : Bool
  nan : Bool
  deriving DecidableEq, Repr

/-- The ids of a chain, newest block first: `q` of them. -/
def readChain (c : Cmd) : Nat → Nat → Nat → State → Eng (List Nat)
  | 0, _, _, s => .ok [] s
  | fuel + 1, q, blk, s =>
    if q = 0 ∨ blk = 0 then .ok [] s
    else
      (engRead c (BitVec.ofNat 64 blk) 64 s).bind (fun b s =>
        let k := (q - 1) % 14 + 1
        (readChain c fuel (q - k) (fieldAt b 0 8) s).bind (fun ids s =>
          .ok ((List.range k).map (fun i => fieldAt b (8 + 4 * i) 4) ++ ids) s))

/-- One bucket read (R363, R364). -/
def readBucket (c : Cmd) (at_ : Word) (x : Found) (s : State) : Eng Found :=
  (engRead c at_ 64 s).bind (fun b s =>
    if hdEmpty b then .ok x s
    else
      let n := hdN b
      (readChain c (n / 14 + 2) (n - 13) (hdChain b) s).bind (fun ids s =>
        .ok { x with ids := x.ids ++ (List.range (min n 13)).map (fun i => fieldAt b (12 + 4 * i) 4) ++ ids
                     stale := x.stale || hdGen b != c.gen, sat := x.sat || hdSat b } s))

/-- The buckets of the tables of one signature. -/
def readTables (c : Cmd) (sig : Nat) : List Nat → Found → State → Eng Found
  | [], x, s => .ok x s
  | j :: js, x, s => (readBucket c (headVa s c (headNo c 42) sig j) x s).bind (readTables c sig js)

/-- Step 1 of R363: the signature of every query row; none where a sum is NaN. -/
def querySigs (c : Cmd) : List Nat → State → Eng (List (Option Nat))
  | [], s => .ok [] s
  | r :: rs, s =>
    (engRead c (BitVec.ofNat 64 (descNat c 0 8 + r * lgRow c.cfg)) (lgRow c.cfg) s).bind (fun row s =>
      let sig := signature s c row
      (querySigs c rs s).bind (fun sigs s => .ok (sig :: sigs) s))

/-- Step 2 of R363: the buckets of every signature. -/
def readBuckets (c : Cmd) : List (Option Nat) → Found → State → Eng Found
  | [], x, s => .ok x s
  | none :: sigs, x, s => readBuckets c sigs { x with nan := true } s
  | some sig :: sigs, x, s => (readTables c sig (List.range (lgT c.cfg)) x s).bind (readBuckets c sigs)

/-- Every query row: its signature, and then the buckets of all. -/
def readQueries (c : Cmd) (rs : List Nat) (x : Found) (s : State) : Eng Found :=
  (querySigs c rs s).bind (fun sigs s => readBuckets c sigs x s)

/-- The highest-ranked reason of R365, or 0. -/
def denseReason (c : Cmd) (x : Found) : Nat :=
  if x.nan then 4 else if x.stale then 3 else if x.sat then 2
  else if lgKmax c.cfg < x.ids.dedup.length then 1 else 0

/-- The candidates: distinct, in ascending order. -/
def candidates (x : Found) : List Nat := x.ids.dedup.sortBy (fun a b => decide (a ≤ b))

/-- The gathered rows, each with its destination. -/
def gatherRows (c : Cmd) : List (Nat × Nat) → State → Eng (List (Word × List Byte))
  | [], s => .ok [] s
  | (i, tk) :: xs, s =>
    (engRead c (BitVec.ofNat 64 (descNat c 24 8 + tk * descNat c 32 2)) (lgRow c.cfg) s).bind (fun row s =>
      (gatherRows c xs s).bind (fun ws s =>
        .ok ((BitVec.ofNat 64 (descNat c 16 8 + i * descNat c 44 2), row) :: ws) s))

/-- The result of an lgather (R363): the list, the padding, the rows. -/
def gatherOut (c : Cmd) (ids : List Nat) (s : State) : Eng Unit :=
  let pad := if descNat c 41 1 % 2 = 1 then List.replicate (lgKmax c.cfg - ids.length) 0xFFFFFFFF else []
  let list := (ids.length :: ids ++ pad).flatMap (natToBytes 4)
  (gatherRows c (if descNat c 16 8 = 0 then [] else ids.mapIdx (fun i x => (i, x))) s).bind (fun rows s =>
    engWrites c ((BitVec.ofNat 64 (descNat c 8 8), list) :: rows) s)

/-- LGATHER_RUN (R363, R365): the candidates of the queries, or the dense fallback. -/
def execLgatherRun (core : Nat) (seq : Nat) (s : State) : Host.Outcome State Fault Refusal :=
  .next (match ligHead s core seq .lgather with
    | none => s
    | some c =>
      let (c, s) := startCmd s c
      match readQueries c (List.range (descNat c 34 1)) ⟨[], false, false, false⟩ s with
      | .wait s => s
      | .fault key va s => setCmd s { c with fault := some key, faultVa := va }
      | .fail ek pk a s => finishCmd s c stError ek pk a 0
      | .ok x s =>
        let why := denseReason c x
        if why ≠ 0 then
          let s := bumpStat (bumpStat s c.ctx c.setNo 4 1) c.ctx c.setNo 5 1
          finishCmd s c stError 5 0 0 (why * 2 ^ 28)
        else
          let ids := candidates x
          match gatherOut c ids s with
          | .wait s => s
          | .fault key va s => setCmd s { c with fault := some key, faultVa := va }
          | .fail ek pk a s => finishCmd s c stError ek pk a 0
          | .ok () s =>
            let s := bumpStat (bumpStat s c.ctx c.setNo 4 1) c.ctx c.setNo 6 ids.length
            finishCmd s c stDone 0 0 0 ids.length)

/-- Row `i` of an lgsig (R366). -/
def lgsigRow (c : Cmd) (i : Nat) (s : State) : Eng Unit :=
  (engRead c (BitVec.ofNat 64 (descNat c 0 8 + i * descNat c 16 2)) (lgRow c.cfg) s).bind (fun row s =>
    match signature s c row with
    | none => .fail 7 0 0 s
    | some sig => engWrites c [(BitVec.ofNat 64 (descNat c 8 8 + 8 * i), natToBytes 8 sig)] s)

/-- LGSIG_RUN (R366): signatures are written row by row. -/
def execLgsigRun (core : Nat) (seq : Nat) (s : State) : Host.Outcome State Fault Refusal :=
  .next (match ligHead s core seq .lgsig with
    | none => s
    | some c =>
      let (c, s) := startCmd s c
      runRows (lgsigRow c) c (descNat c 18 2) (descNat c 18 2 - c.at_) s)

/-- Free bytes of a projection whose load failed (R352, log entry 5): `n` words from offset `o`. -/
def freeProj (ctx : Nat) : Nat → Nat → State → State
  | 0, _, s => s
  | n + 1, o, s =>
    let (w, s) := s.freeWord
    freeProj ctx n (o + 8) (s.updCtx ctx (fun x => { x with proj := Memory.writeN x.proj o (wordBytes 8 w) }))

/-- An lgproj ends with an error (R352): the projection is undefined, GEN stays, and the set reopens. -/
def projFail (s : State) (c : Cmd) (ekind pkind : Nat) (addr : Word) : State :=
  let s := freeProj c.ctx (lgProjLen c.cfg / 8) (lgPoff c.cfg) s
  reopenSet (finishCmd s c stError ekind pkind addr 0) c.ctx c.setNo

/-- LGPROJ_RUN (R352): once the commands of its set that passed issue before it have completed, its projection is read and loaded. -/
def execLgprojRun (core : Nat) (seq : Nat) (s : State) : Host.Outcome State Fault Refusal :=
  .next (match ligHead s core seq .lgproj with
    | none => s
    | some c =>
      if !(drainedOf s c.ctx c.setNo c.drains) then s
      else
        let (c, s) := startCmd s c
        match engRead c c.addr (lgProjLen c.cfg) s with
        | .wait s => s
        | .fault key va s => setCmd s { c with fault := some key, faultVa := va }
        | .fail ek pk a s => projFail s c ek pk a
        | .ok bs s =>
          let s := s.updCtx c.ctx (fun x => { x with proj := Memory.writeN x.proj (lgPoff c.cfg) bs })
          let x := headSet s c.ctx c.setNo
          let s := setHeadSet s c.ctx c.setNo { x with gen := if x.gen = 0xFFFF then 1 else x.gen + 1 }
          reopenSet (finishCmd s c stDone 0 0 0 0) c.ctx c.setNo)

/-- LGPOOL_RUN (R354): the pool block is written as one operation at its bank. -/
def execLgpoolRun (core : Nat) (seq : Nat) (s : State) : Host.Outcome State Fault Refusal :=
  .next (match ligHead s core seq .lgpool with
    | none => s
    | some c =>
      let (c, s) := startCmd s c
      match engWrites c [(poolVa s c, c.desc.take 12 ++ natToBytes 4 0)] s with
      | .wait s => s
      | .fault key va s => setCmd s { c with fault := some key, faultVa := va }
      | .fail ek pk a s => finishCmd s c stError ek pk a 0
      | .ok () s => finishCmd s c stDone 0 0 0 0)

/-- A command that ends with an error from outside its run (a refused fault, R41, R422): each form as its own rules say. -/
def failCmd (s : State) (c : Cmd) (ekind pkind : Nat) (addr : Word) : State :=
  let c := { c with fault := none }
  match c.op with
  | .mma | .mmas =>
    let k := stepProgress s c (min (mxK c.desc) (c.at_ + 8))
    let (c, s) := mxClose c s
    mxEnd s c stError ekind pkind addr k
  | .snap => match snapOf s c with
    | some sn => endSnap s c sn stError ekind pkind addr
    | none => finishCmd s c stError ekind pkind addr 0
  | .lgproj => projFail s c ekind pkind addr
  | .kstore => finishCmd s c stError ekind pkind addr (c.at_ / (lgT c.cfg + 1))
  | .lgather | .lgpool => finishCmd s c stError ekind pkind addr 0
  | _ => finishCmd s c stError ekind pkind addr c.at_

end Sys2Proof.Machine
end

