-- ==== Sys2Proof/Machine/Pick.lean ====
section
/-! DEFINITION. The picker (R161 to R165) and the fetch of a bundle's instruction (R21, R36, R176, R178). -/

namespace Sys2Proof.Machine

/-! ### Who can issue (R161, R184) -/

/-- A thread's team is not halted, or the thread is inside a unit, which it finishes (R402). -/
def teamRuns (s : State) (t : Thread) : Bool := !(s.team t.team).halted || t.unit.isSome

/-- A thread's context is the active one of its core, no swap is under way (R389), and it is not stopped. -/
def resident (s : State) (t : Thread) : Bool :=
  let c := s.core t.core
  c.active == some t.ctx && c.swapping == 0 && !(s.ctx t.ctx).stopped

/-- The instruction at a thread's PC, as far as it can be read without a fault. -/
def nextInstr (s : State) (t : Thread) : Option Instr :=
  let w (i : Nat) := peekWord s t.core t.ctx (t.pc + BitVec.ofNat 64 (4 * i))
  match w 0 with
  | none => none
  | some w0 =>
    match decodeWords (w0 :: ((w 1).toList ++ (match w 1 with | some _ => (w 2).toList | none => []))) with
    | .ok (i, _) => some i
    | .error _ => none

/-- The q register that a thread's instruction reads: that of movq, and the predicate of a matrix command's block (R314). -/
def qReads (s : State) (t : Thread) : Instr → Option Nat
  | .movq _ _ q => some q.toNat
  | .mma _ _ _ a | .mmas _ _ _ a => mxPredicate s t.team (t.getV a.toNat)
  | _ => none

/-- The registers an instruction reads whose interlock may hold it, not one that it only writes (R184): v registers, and as
`lockRegister` numbers them 128 + n for mask n, 136 + n for h(n), 152 + n for q(n). -/
def interlockRegs (s : State) (t : Thread) (i : Instr) : List Nat :=
  readRegs t.hints i
    ++ (match i.mReads with | some m => [128 + m.toNat] | none => [])
    ++ (if i.isHint || t.hints.mask.1 = 0#3 then [] else [128 + t.hints.mask.1.toNat])
    ++ (match handleRead i with | some n => [136 + n.toNat] | none => [])
    ++ (match qReads s t i with | some q => [152 + q] | none => [])

/-- A thread is held until a short result can be read (R184). -/
def interlocked (s : State) (t : Thread) : Bool :=
  !t.ilock.isEmpty && (match nextInstr s t with
    | some i => (interlockRegs s t i).any (fun r => decide (s.now < Tbl.getD t.ilock r 0))
    | none => false)

/-- A frame of the team is busy: a thread of it is in its handler, or on its way there. -/
def framesBusy (s : State) (team : Nat) : Bool :=
  let tm := s.team team
  tm.groups.any (fun g => !(slotInfo s tm.core tm.ctx g.slot).frame.isEmpty)

/-- CKPT waits to be taken, and no handler holds it up (R388, R392): a thread at a boundary goes no further. -/
def ckptHolds (s : State) (t : Thread) : Bool := t.ckptPend.isSome && !framesBusy s t.team

/-- A thread is held until one of its eight outstanding instructions is outstanding no more (R188). -/
def ninthHeld (s : State) (t : Thread) : Bool :=
  decide (8 ≤ t.outstanding) && (match nextInstr s t with
    | some i => issueCheck s t i == .hold
    | none => false)

/-- Nothing of its own holds a thread back (R161): no wait, no trap to take, no interlock, no ninth instruction. -/
def unheld (s : State) (t : Thread) : Bool :=
  t.status == .ready && (t.unit.isSome || t.trap.isNone) && !interlocked s t && !ninthHeld s t

/-- Ready (R161): its age counts. -/
def isReady (s : State) (t : Thread) : Bool := unheld s t && resident s t && teamRuns s t

/-- Ready, with nothing to take first: a CKPT, or a WATCHDOG or TIMER, which wait for a handler's end only in the handler
itself (R388). -/
def eligible (s : State) (t : Thread) : Bool :=
  isReady s t && (t.unit.isSome || (!ckptHolds s t && !((t.timerPend.isSome || t.watchdog) && !t.handler)))

/-! ### The pick (R162, R165) -/

/-- The group slots of a nib, in round-robin order: those after the pointer first. -/
def rrOrder (nib ptr : Nat) : List Nat :=
  let all := [nib, nib + 8, nib + 16, nib + 24]
  all.filter (fun g => decide (ptr < g)) ++ all.filter (fun g => decide (g ≤ ptr))

/-- A pointer of a nib. At reset it is the nib's last slot, so that its first slot comes first (DESIGN CHOICE, log entry 4). -/
def nibPtr (t : Tbl Nat) (nib : Nat) : Nat := Tbl.getD t nib (nib + 24)

/-- The threads on a nib that pass a test. -/
def onNib (s : State) (core nib : Nat) (p : Thread → Bool) : List (Nat × Thread) :=
  s.threads.filter (fun q => q.2.core == core && q.2.slot % 8 == nib && p q.2)

/-- The eligible threads on a nib. -/
def nibReady (s : State) (core nib : Nat) : List (Nat × Thread) := onNib s core nib (eligible s)

/-- What a slot picks: the group, the class, and whether the aged branch picked it. -/
structure Choice where
  slot : Nat
  tids : List Nat
  pc : Word
  team : Nat
  ctx : Nat
  aged : Bool
  deriving DecidableEq, Repr

/-- The class of a thread in its group. -/
def classOf (ready : List (Nat × Thread)) (t : Thread) (aged : Bool) : Choice :=
  ⟨t.slot, (ready.filter (fun p => p.2.slot == t.slot && p.2.pc == t.pc)).map (fun p => p.2.tid), t.pc, t.team, t.ctx, aged⟩

/-- The oldest of some threads; ties go to the lowest team thread index. -/
def oldest : List (Nat × Thread) → Option Thread
  | [] => none
  | p :: ps =>
    match oldest ps with
    | some t => if p.2.age < t.age then some t else some p.2
    | none => some p.2

/-- The priority of a group slot. -/
def slotPrio (s : State) (ready : List (Nat × Thread)) (g : Nat) : Nat :=
  match ready.find? (fun p => p.2.slot == g) with
  | some p => (groupOf s p.2).prio
  | none => 0

/-- One slot of a nib (R162). -/
def pick (s : State) (core nib : Nat) : Option Choice :=
  let ready := nibReady s core nib
  match ready with
  | [] => none
  | (_, t0) :: _ =>
    let c := s.ctx t0.ctx
    let x := s.core core
    let fairt := bitsOf c.fairt 15 0
    let old := ready.filter (fun p => decide (fairt ≤ p.2.age))
    if bitsOf c.fairdis 0 0 = 0 ∧ !old.isEmpty then
      match (rrOrder nib (nibPtr x.aged nib)).find? (fun g => old.any (fun p => p.2.slot == g)) with
      | some g => (oldest (old.filter (fun p => p.2.slot == g))).map (fun t => classOf ready t true)
      | none => none
    else
      let top := ready.foldl (fun m p => max m (slotPrio s ready p.2.slot)) 0
      match (rrOrder nib (nibPtr x.rr nib)).find? (fun g =>
          ready.any (fun p => p.2.slot == g) && slotPrio s ready g == top) with
      | some g => (ready.find? (fun p => p.2.slot == g)).map (fun p => classOf ready p.2 false)
      | none => none

/-- A slot passes in which a ready thread does not issue: its age rises, and at WDLIM a WATCHDOG stands pending (R161,
R165). -/
def Thread.older (t : Thread) (wdlim : Nat) : Thread :=
  { t with age := t.age + 1, watchdog := t.watchdog || (wdlim != 0 && decide (wdlim ≤ t.age + 1)) }

/-- The slot of a nib is used: ages rise by 1 but for those that issue, which are 0 (R161, R162); the next slot in the
cycle is the next nib's. -/
def useSlot (s : State) (core nib : Nat) (issued : List Nat) : State :=
  let k := core * 8 + nib
  let ready := onNib s core nib (isReady s)
  let s := ready.foldl (fun s p => s.updThread p.1 (fun t =>
    if issued.contains p.1 then { t with age := 0 } else t.older (bitsOf (s.ctx t.ctx).wdlim 31 0))) s
  if s.cursor = k then { s with cursor := k + 1 } else { s with taken := s.taken ++ [k] }

/-- The pointers and the sampling record of a choice (R162, R406). A nib has one pair of pointers for both contexts of its core, and a swap
keeps it (DESIGN CHOICE, log entry 58). -/
def notePick (s : State) (core nib : Nat) (c : Choice) : State :=
  s.updCore core (fun x =>
    { x with aged := if c.aged then Tbl.set x.aged nib c.slot else x.aged
             rr := if c.aged then x.rr else Tbl.set x.rr nib c.slot
             issued := x.issued ++ [c.slot] })

/-- The bundle of a choice; a unit that begins ends the step over a breakpoint (R400). -/
def startBundle (s : State) (core nib : Nat) (c : Choice) : Bundle × State :=
  let keys := c.tids.map (threadKey c.team)
  let s := notePick (useSlot s core nib keys) core nib c
  (⟨core, c.ctx, c.slot, c.team, c.tids, c.pc⟩, s)

/-- The breakpoint that a fetch at an address meets (R400). -/
def breakAt (s : State) (ctx : Nat) (pc : Word) : Option Nat :=
  let c := s.ctx ctx
  if !bitAt c.dbgctl 1 then none
  else (List.range 8).find? (fun i =>
    let b := Tbl.getD c.bp i 0
    bitAt b 0 && bitsOf b 55 2 == bitsOf pc 63 2)

/-- The threads of a bundle at the first word of a unit that are to meet a breakpoint. -/
def breakThreads (s : State) (c : Choice) : List Nat :=
  match breakAt s c.ctx c.pc with
  | none => []
  | some _ => c.tids.filter (fun tid =>
      let t := s.thread (threadKey c.team tid)
      t.unit.isNone && !t.stepOver)

/-- The threads `tids` of a class meet breakpoint `i`: with the right the team halts before the unit, else they raise
BKPT. -/
def meetBreak (s : State) (c : Choice) (i : Nat) (tids : List Nat) : State :=
  if bitAt (s.ctx c.ctx).dbgctl 3 then
    haltTeam (tids.foldl (fun s tid => s.updThread (threadKey c.team tid) (fun t => { t with stepOver := true })) s)
      c.team 1
  else
    let tr : Trap := ⟨causeBkpt, 0, 0, BitVec.ofNat 64 (i + 1), 0, none, false⟩
    let s := tids.foldl (fun s tid => raisePrecise s (threadKey c.team tid) c.pc tr) s
    takeTraps s (s.team c.team).core c.ctx c.slot

/-- The breakpoint at which a thread's team is to halt at the boundary where the thread stands (R400). -/
def haltAt (s : State) (t : Thread) : Option Nat :=
  if t.status == .ready && t.unit.isNone && t.trap.isNone && !t.stepOver && teamRuns s t && bitAt (s.ctx t.ctx).dbgctl 3 then
    breakAt s t.ctx t.pc
  else none

/-- The first of some threads that stands so, with the others of its class, and its breakpoint. -/
def haltChoice (s : State) (ts : List (Nat × Thread)) : Option (Choice × Nat) :=
  match ts.find? (fun p => (haltAt s p.2).isSome) with
  | none => none
  | some p => (haltAt s p.2).map (fun i => (classOf (ts.filter (fun q => (haltAt s q.2).isSome)) p.2 false, i))

/-- A debug halt comes before CKPT, WATCHDOG, TIMER and a swap that reach the same boundary (R397). -/
def haltFirst (s : State) (ts : List (Nat × Thread)) : Option State :=
  (haltChoice s ts).map (fun x => meetBreak s x.1 x.2 x.1.tids)

/-- A unit's first word issues: the step over its breakpoint is spent. -/
def endStepOver (s : State) (bd : Bundle) : State :=
  bd.tids.foldl (fun s tid => s.updThread (threadKey bd.team tid) (fun t => { t with stepOver := false })) s

/-! ### The fetch (R21, R176, R178) -/

/-- What a fetch of one word comes to. -/
inductive Word? where
  | ok (w : W32)
  | trap (t : Trap)
  | fault (key : Nat)

/-- One word of the global window through an executable page. -/
def fetchWord (s : State) (core ctx : Nat) (a : Word) : Word? × State :=
  match window a with
  | .glob =>
    match lookup s core ctx a.toNat with
    | (.error .inkPage, s) => (.trap (trapAt causeInkPage a), s)
    | (.error (.page k bits), s) =>
      let (key, s) := openFault s ctx a k bits (accessByte false true false false false) core true
      (.fault key, s)
    | (.ok t, s) =>
      if leafX t.leaf then (.ok (BitVec.ofNat 32 (physNat s (t.pa a.toNat) 4)), s)
      else
        let (key, s) := openFault s ctx a 2 t.bits (accessByte false true false false false) core true
        (.fault key, s)
  | _ => (.trap (pageTrap 8 a), s)

/-- What the fetch of an instruction comes to. -/
inductive Fetched where
  | instr (i : Instr)
  | illegal
  | trap (t : Trap)
  | fault (key : Nat)

/-- An instruction and its literal words: words are fetched until it decodes, or cannot. -/
def fetchFrom (core ctx : Nat) : Nat → Word → List W32 → State → Fetched × State
  | 0, _, _, s => (.illegal, s)
  | n + 1, a, ws, s =>
    match fetchWord s core ctx a with
    | (.trap t, s) => (.trap t, s)
    | (.fault key, s) => (.fault key, s)
    | (.ok w, s) =>
      let ws := ws ++ [w]
      match decodeWords ws with
      | .ok (i, _) => (.instr i, s)
      | .error (.short _) => fetchFrom core ctx n (a + 4) ws s
      | .error _ => (.illegal, s)

/-- The fetch of a bundle's instruction. -/
def fetchInstr (s : State) (bd : Bundle) : Fetched × State := fetchFrom bd.core bd.ctx 3 bd.pc [] s

/-- Every thread of a bundle raises a trap at its unit. -/
def trapBundle (s : State) (bd : Bundle) (tr : Trap) : State :=
  let s := bd.tids.foldl (fun s tid =>
    let k := threadKey bd.team tid
    raisePrecise s k ((s.thread k).unit.getD bd.pc) tr) s
  noteHalt (takeTraps s bd.core bd.ctx bd.slot) bd.team

/-- The operands of a thread that waits at an address with no instruction. -/
def idleEnv (t : Thread) : Env :=
  ⟨t.ctx, t.core, t.team, t.tid, 0, t.unit.getD t.pc, t.pc, t.pc, 0, 0, 0, 0, 0, 0, Hints.empty, 0xFF, false, false, false, 0⟩

/-- Every thread of a bundle waits for a fetch that met a fault offered to host (R38). -/
def holdFetch (s : State) (bd : Bundle) (key : Nat) : State :=
  bd.tids.foldl (fun s tid => s.updThread (threadKey bd.team tid) (fun t =>
    t.block (.fetch key) (.nop false) (idleEnv t))) s

end Sys2Proof.Machine
end

