-- ==== Sys2Proof/Machine/ThreadEvents.lean ====
section
/-! DEFINITION. What becomes of threads that wait: results, inks, rounds, the watchdog, quire memory, collectives. -/

namespace Sys2Proof.Machine

/-! ### Results and holds (R164, R184 to R186, R248, R290) -/

/-- A blocked thread and what it waits at. -/
def blockedAt (s : State) (team tid : Nat) : Option Blocked :=
  match s.thread? (threadKey team tid) with
  | some t => (match t.status with | .blocked b => some b | _ => none)
  | none => none

/-- The outstanding instruction of a number, and its result, when it may return. One that raises a trap waits for the trap
before it, and for every earlier instruction, since the queue of its frame begins with it (R290). -/
def readyOut (t : Thread) (id : Nat) : Option (Outst × Word) :=
  match t.outs.find? (fun o => o.id == id) with
  | none => none
  | some o =>
    match o.value with
    | some x =>
      if o.raises t.fpctl && (t.trap.isSome || (t.outs.head?).any (fun p => p.id != id)) then none else some (o, x)
    | none => none

/-- LONG_RESULT_RETURN (R185, R186, R290): a result returns to its register. -/
def execLongResultReturn (team : Nat) (tid : Nat) (id : Nat) (s : State) : Host.Outcome State Fault Refusal :=
  .next (
    let k := threadKey team tid
    match readyOut (s.thread k) id with
    | some (o, x) => returnOut s k o x
    | none => s)

/-- SHORT_INTERLOCK_END (R184): interlocks whose latency has passed end. -/
def execShortInterlockEnd (team : Nat) (tid : Nat) (s : State) : Host.Outcome State Fault Refusal :=
  .next (
    let k := threadKey team tid
    match s.thread? k with
    | some _ => s.updThread k (fun t => { t with ilock := t.ilock.filter (fun p => decide (s.now < p.2)) })
    | none => s)

/-- YIELD_HOLD_END (R164): a hold whose slots have passed ends. -/
def execYieldHoldEnd (team : Nat) (tid : Nat) (s : State) : Host.Outcome State Fault Refusal :=
  .next (
    let k := threadKey team tid
    match s.thread? k with
    | some t => if t.status = .yielding 0 then s.setThread k { t with status := .ready } else s
    | none => s)

/-- SLEEP_END (R248): a sleep whose resident cycles have passed ends. -/
def execSleepEnd (team : Nat) (tid : Nat) (s : State) : Host.Outcome State Fault Refusal :=
  .next (match blockedAt s team tid with
    | some b =>
      match b.why with
      | .sleep n => if n ≤ b.waited then finishBlocked s (threadKey team tid) else s
      | _ => s
    | none => s)

/-! ### Inks (R121, R127, R130 to R133) -/

/-- A thread goes on once it holds what it asked for: inkwait is complete, any other instruction runs again. -/
def inkServed (s : State) (key : Nat) (b : Blocked) : State :=
  match b.instr with
  | .inkwait .. => finishBlocked s key
  | _ => s.updThread key Thread.wake

/-- What a thread waits at changes. -/
def setWhy (s : State) (key : Nat) (why : Why) : State :=
  s.updThread key (fun t => match t.status with
    | .blocked b => { t with status := .blocked { b with why := why, waited := 0 } }
    | _ => t)

/-- One request of a message reaches its monitor block, for data at `va`; a block in a Well way that is not zero-filled yet
waits (R77). A descriptor that no longer resolves sends the thread back to its checks. -/
def takeOne (s : State) (key j : Nat) (va : Word) (b : Blocked) : State :=
  let t := s.thread key
  match inkDesc s t.core t.ctx va false j with
  | (.ok d, s) =>
    if wellFilling s (d.mon + 63) then setWhy s key .carve
    else
      match takeTicket s d.blk t.core t.tag j (s.ctx t.ctx).ctxid with
      | (true, _, s) => inkServed (grantInk s key j d.scope) key b
      | (false, tk, s) => setWhy s key (.inkTicket j tk d.blk va)
  | (_, s) => s.updThread key Thread.wake

/-- The requests of one message for one ink, each with its data address: its threads in ascending team thread index
(R131). -/
def sameMessage (s : State) (team j msg : Nat) : List (Nat × Word × Blocked) :=
  (s.threadsOf team).filterMap (fun p => match p.2.status with
    | .blocked b =>
      match b.why with
      | .inkReq i m va => if i = j ∧ m = msg then some (p.1, va, b) else none
      | _ => none
    | _ => none)

/-- INK_TICKET (R121, R131): the requests of a message take tickets, in ascending team thread index. -/
def execInkTicket (team : Nat) (tid : Nat) (s : State) : Host.Outcome State Fault Refusal :=
  .next (match blockedAt s team tid with
    | some b =>
      match b.why with
      | .inkReq j msg _ => (sameMessage s team j msg).foldl (fun s p => takeOne s p.1 j p.2.1 p.2.2) s
      | _ => s
    | none => s)

/-- The monitor hands over to the ticket it serves: the bank writes the owner and clears GRANT (R130). The core's bit of
CORES falls with this claim, and not before it when SERVE reaches the ticket (R116, R127; DESIGN CHOICE, log entry 38). -/
def claimGrant (s : State) (key j blk : Nat) : State :=
  let t := s.thread key
  monCoreDone (monOwn s blk t.tag j (s.ctx t.ctx).ctxid) blk t.core key

/-- A granule gets its new ink, if its page and its map entry can still be reached and no snap holds the map page. -/
def recolourNow (s : State) (core ctx : Nat) (va : Nat) (new : Nat) : Bool × State :=
  match lookup s core ctx va with
  | (.error _, s) => (false, s)
  | (.ok p, s) =>
    let pa := p.pa va
    match inkOf s false core ctx pa, mapWait s core ctx pa with
    | (.ok _, _), (none, s) => (true, recolour s core ctx va pa new)
    | _, (_, s) => (false, s)

/-- An ink that waited for an old ink takes it, recolours the granule and releases it (R136); it goes on with the next granule.
Where the granule cannot be recoloured any more the instruction runs again, to wait or to fault there (R226). -/
def inkOldServed (s : State) (key blk i : Nat) (b : Blocked) (d : InkDesc) : State :=
  let t := s.thread key
  let va := b.env.addr + BitVec.ofNat 64 (256 * i)
  let (ok, s) := recolourNow (acquireActions s t.core d.scope) t.core t.ctx va.toNat (bitsOf b.env.opB 11 0)
  let s := releaseMonitor s key blk d.scope
  (if ok then s else setWhy s key (.inkCarve i)).updThread key Thread.wake

/-- INK_GRANT (R130): a thread whose ticket is served claims the grant and goes on. -/
def execInkGrant (team : Nat) (tid : Nat) (s : State) : Host.Outcome State Fault Refusal :=
  .next (match blockedAt s team tid with
    | some b =>
      let k := threadKey team tid
      let t := s.thread k
      match b.why with
      | .inkTicket j tk blk _ =>
        if monGrant s blk && monServe s blk == tk then
          inkServed (grantInk (claimGrant s k j blk) k j (heldDesc s t.core t.ctx j).scope) k b
        else s
      | .inkOld j tk blk i =>
        if monGrant s blk && monServe s blk == tk then
          inkOldServed (claimGrant s k j blk) k blk i b (heldDesc s t.core t.ctx j)
        else s
      | _ => s
    | none => s)

/-- A release of a thread can be carried out: no command of the holds it releases is outstanding (R126, R129). -/
def releaseDue (t : Thread) (inks : List Nat) : Bool :=
  t.holds.all (fun k => !inks.contains k.ink || k.cmds.isEmpty)

/-- What a thread does once its holds are released. -/
def afterRelease (s : State) (key : Nat) (b : Blocked) (after : After) : State :=
  match after with
  | .ret ra => finishBlocked (returnTo s key ra) key
  | .exit => endThread s key
  | .rtt => applyAgain b.instr b.env (finishRtt b.env s)

/-- INK_RELEASE (R126, R127): the next hold of a thread that returns or ends is released. -/
def execInkRelease (team : Nat) (tid : Nat) (s : State) : Host.Outcome State Fault Refusal :=
  .next (match blockedAt s team tid with
    | some b =>
      let k := threadKey team tid
      match b.why with
      | .releasing inks after =>
        if !releaseDue (s.thread k) inks then s
        else
          match inks with
          | [] => afterRelease s k b after
          | j :: rest =>
            let s := releaseInk s k j true
            if rest.isEmpty then afterRelease s k b after else setWhy s k (.releasing rest after)
      | _ => s
    | none => s)

/-- The wait of a thread for a grant: the ink, the ticket, the block, and the data address. -/
def grantWait (b : Blocked) : Option (Nat × Nat × Nat × Word) :=
  match b.why with
  | .inkTicket j tk blk va => some (j, tk, blk, va)
  | .inkOld j tk blk i => some (j, tk, blk, b.env.addr + BitVec.ofNat 64 (256 * i))
  | _ => none

/-- A grant wait has reached the limit, and no grant has come (R132). The cycles of a debug halt count too, and the limit may be
reached in one (DESIGN CHOICE, log entry 45). -/
def inkTimedOut (s : State) (t : Thread) (b : Blocked) : Bool :=
  let limit := bitsOf (s.ctx t.ctx).inktmo 31 0
  match grantWait b with
  | some (j, tk, blk, _) => limit != 0 && decide (limit ≤ b.waited) && resident s t
      && !(monGrant s blk && monServe s blk == tk) && (heldDesc s t.core t.ctx j).te
  | none => false

/-- A blocked thread raises a trap, and its slot takes it. -/
def blockedTrap (s : State) (key : Nat) (b : Blocked) (tr : Trap) : State :=
  let t := s.thread key
  takeTraps (raiseBlocked s key b tr) t.core t.ctx t.slot

/-- INK_TIMEOUT (R132): a grant wait at its limit voids its ticket and traps. -/
def execInkTimeout (team : Nat) (tid : Nat) (s : State) : Host.Outcome State Fault Refusal :=
  .next (match blockedAt s team tid with
    | some b =>
      let k := threadKey team tid
      let t := s.thread k
      match grantWait b with
      | some (j, tk, blk, va) =>
        if inkTimedOut s t b then blockedTrap (voidTicket s blk tk t.core k) k b (inkTrap causeInkTimeout va j) else s
      | none => s
    | none => s)

/-- A watch has fired (R133): the word or SIGSEQ differs now from what was recorded. A word that has changed and changed back before
this is looked at does not fire it (DESIGN CHOICE, log entry 66). -/
def watchFired (s : State) (t : Thread) (b : Blocked) : Bool :=
  match b.why with
  | .watch va w0 k s0 =>
    monSig s (heldDesc s t.core t.ctx k).blk != s0
      || (match watchedWord s t.core t.ctx t.team va with | some w => w != w0 | none => false)
  | _ => false

/-- INKWAIT_WAKE (R133): a watch that has fired starts the reacquisition of its ink. -/
def execInkwaitWake (team : Nat) (tid : Nat) (s : State) : Host.Outcome State Fault Refusal :=
  .next (match blockedAt s team tid with
    | some b =>
      let k := threadKey team tid
      match b.why with
      | .watch va _ j _ =>
        if watchFired s (s.thread k) b then
          let b := { b with why := .inkReq j b.env.msg va, env := { b.env with watch := false }, waited := 0 }
          s.updThread k (fun t => { t with status := .blocked b })
        else s
      | _ => s
    | none => s)

/-! ### Rounds (R147, R150, R151) -/

/-- Stalled loads of a region whose minimum the core has observed go on. -/
def wakeReached (s : State) (core ctx rgn : Nat) : State :=
  let o := (observed s core ctx rgn).getD 0
  s.wakeAll (fun t w => t.core == core && t.ctx == ctx && (match w with
    | .round r n _ => r == rgn && decide (n.toNat ≤ o.toNat)
    | _ => false))

/-- The cores of a die on which a context is resident (R375). -/
def coresWith (s : State) (die ctx : Nat) : List Nat :=
  (List.range Config.coresPerDie).map (fun i => die * Config.coresPerDie + i) |>.filter (fun c =>
    (s.core c).active == some ctx || (s.core c).shadow == some ctx)

/-- BEACON (R147): a beacon reaches a die and raises the known entries of its cores. -/
def execBeacon (die : Nat) (ctx : Nat) (rgn : Nat) (s : State) : Host.Outcome State Fault Refusal :=
  .next (
    let d := s.die die
    match d.beacons.find? (fun b => b.1 == ctx && b.2.1 == rgn) with
    | none => s
    | some b =>
      let s := s.setDie die { d with beacons := d.beacons.erase b }
      (coresWith s die ctx).foldl (fun s c => wakeReached (raiseKnown s c ctx rgn b.2.2) c ctx rgn) s)

/-- ROUND_WAKE (R150): a wake raises a known observed round, and the stalled lanes judge their minimum again; where the entry is
unknown they seed it first (R145, R146; DEDUCED, log entry 39). -/
def execRoundWake (core : Nat) (s : State) : Host.Outcome State Fault Refusal :=
  .next (
    let x := s.core core
    match x.wakes with
    | [] => s
    | w :: rest =>
      let s := s.setCore core { x with wakes := rest }
      let s := raiseKnown s core w.1 w.2.1 w.2.2
      s.wakeAll (fun t y => t.core == core && t.ctx == w.1 && (match y with
        | .round r _ _ => r == w.2.1
        | _ => false)))

/-- A stalled load has reached its timeout, and no round it waits for has come (R151). -/
def roundTimedOut (s : State) (t : Thread) (b : Blocked) : Bool :=
  match b.why with
  | .round rgn n limit => limit != 0 && decide (limit ≤ b.waited) && resident s t
      && decide (((observed s t.core t.ctx rgn).getD 0).toNat < n.toNat)
      && (s.core t.core).wakes.all (fun w => !(w.1 == t.ctx && w.2.1 == rgn && decide (n.toNat ≤ w.2.2.toNat)))
  | _ => false

/-- ROUND_TMO (R151): a stalled load at its timeout traps. -/
def execRoundTmo (team : Nat) (tid : Nat) (s : State) : Host.Outcome State Fault Refusal :=
  .next (match blockedAt s team tid with
    | some b =>
      let k := threadKey team tid
      match b.why with
      | .round rgn n _ =>
        if roundTimedOut s (s.thread k) b then
          blockedTrap s k b ⟨causeRoundTmo, 0, b.env.addr, n, BitVec.ofNat 64 rgn, none, false⟩
        else s
      | _ => s
    | none => s)

/-! ### The watchdog (R165) -/

/-- A thread takes WATCHDOG in the next slot of its nib: it stands pending, at a unit boundary, outside a handler, and no CKPT
comes before it (R165, R196, R388, R397). -/
def wdReady (s : State) (t : Thread) : Bool :=
  t.watchdog && isReady s t && t.unit.isNone && t.ckptPend.isNone && !t.handler

/-- The threads of a nib that take WATCHDOG. -/
def overdue (s : State) (core nib : Nat) : List (Nat × Thread) := onNib s core nib (wdReady s)

/-- WATCHDOG (R165): the next slot of a nib goes to its overdue threads, which trap before their next instruction, but for a debug
halt there (R397); the frame records its address. aged_ptr goes to the slot's group whether one group is overdue or several (DESIGN CHOICE,
log entry 58). -/
def execWatchdog (core : Nat) (nib : Nat) (s : State) : Host.Outcome State Fault Refusal :=
  .next (
    let late := overdue s core nib
    match (rrOrder nib (nibPtr (s.core core).aged nib)).find? (fun g => late.any (fun p => p.2.slot == g)) with
    | none => s
    | some g =>
      match late.find? (fun p => p.2.slot == g) with
      | none => s
      | some (_, t) =>
        let xs := late.filter (fun p => p.2.slot == g && p.2.pc == t.pc)
        let s := (useSlot s core nib []).updCore core (fun x => { x with aged := Tbl.set x.aged nib g })
        match haltFirst s xs with
        | some s => s
        | none => takeTraps (xs.foldl (fun s p => raisePrecise s p.1 p.2.pc (trapOf causeWatchdog)) s) core t.ctx g)

/-! ### Quire memory (R168, R398) -/

/-- The waiting records of a team with one target PC, in ascending team thread index. -/
def quireSet (tm : Team) (pc : Word) : List Spawn :=
  (tm.spawns.filter (fun r => r.pc == pc)).sortBy (fun a b => decide (a.tid ≤ b.tid))

/-- The group in which records are placed, in slot `g`: it has the allotment of the oldest record's home group (R168), and its
role and priority too; of equally old records the lowest team thread index decides (DESIGN CHOICE, log entry 40). -/
def formedGroup (s : State) (team g : Nat) (rs : List Spawn) : Group :=
  let old := rs.foldl (fun (m : Option Spawn) r => match m with
    | some x => if x.waited < r.waited then some r else some x
    | none => some r) none
  let home := match old with | some r => homeGroup r.tid | none => 0
  match (s.team team).groups[home]? with
  | some x => { x with slot := g }
  | none => ⟨g, 128, none, 0⟩

/-- The commands that were issued from a slot before a group is formed there are none of that group's (R169). -/
def pastCmds (s : State) (core team g : Nat) : State :=
  s.updCore core (fun c => { c with cmds := c.cmds.map (fun p =>
    if p.2.team == team && p.2.slot == g then (p.1, { p.2 with past := true }) else p) })

/-- At most 32 records enter a free spawn slot as a group (R168). A short result of a member that is not due yet holds its readers
(R184). -/
def formGroup (s : State) (team g : Nat) (rs : List Spawn) : State :=
  let tm := s.team team
  let s := s.setTeam team { tm with
    spawnSlots := tm.spawnSlots.filter (fun x => x != g)
    groups := tm.groups ++ [formedGroup s team g rs]
    spawns := tm.spawns.filter (fun r => !(rs.any (fun q => q.tid == r.tid))) }
  let s := setSlotInfo (pastCmds s tm.core team g) tm.core tm.ctx g ⟨team, false, [], false, none⟩
  (rs.mapIdx (fun i r => (i, r))).foldl (fun s p => s.updThread (threadKey team p.2.tid) (fun t =>
    { t with slot := g, pos := p.1, pc := p.2.pc, status := .ready })) s

/-- The teams whose context is active on a core. -/
def activeTeams (s : State) (core : Nat) : List (Nat × Team) :=
  s.teams.filter (fun p => p.2.core == core && !p.2.exited && (s.core core).active == some p.2.ctx)

/-- A set of records that passes a test, with its team and a free slot for it: the lowest free slot, and the PC of the earliest
record (DESIGN CHOICE, log entry 40). -/
def quireFind (s : State) (core : Nat) (p : List Spawn → Bool) : Option (Nat × Nat × List Spawn) :=
  (activeTeams s core).findSome? (fun q =>
    match q.2.spawnSlots with
    | [] => none
    | g :: _ => (q.2.spawns.map (fun r => quireSet q.2 r.pc)).findSome? (fun rs => if p rs then some (q.1, g, rs) else none))

def fullSet (rs : List Spawn) : Bool := decide (32 ≤ rs.length)
def oldSet (rs : List Spawn) : Bool := decide (rs.length < 32) && rs.any (fun r => decide (64 ≤ r.waited))

/-- QUIRE_FORM (R168): 32 records of one PC enter a free spawn slot. -/
def execQuireForm (core : Nat) (s : State) : Host.Outcome State Fault Refusal :=
  .next (
    if s.now % 8 ≠ 0 then s
    else
      match quireFind s core fullSet with
      | some (team, g, rs) => formGroup s team g (rs.take 32)
      | none => s)

/-- QUIRE_PARTIAL_RELEASE (R168): a smaller set whose oldest record has waited 64 cycles is released. -/
def execQuirePartialRelease (core : Nat) (s : State) : Host.Outcome State Fault Refusal :=
  .next (match quireFind s core oldSet with
    | some (team, g, rs) => formGroup s team g rs
    | none => s)

/-- Every waiting record of a team is released into the free spawn slots (R398): at most `n` groups. -/
def quireRelease (s : State) (team : Nat) : Nat → State
  | 0 => s
  | n + 1 =>
    let tm := s.team team
    match tm.spawnSlots, tm.spawns with
    | g :: _, r :: _ => quireRelease (formGroup s team g ((quireSet tm r.pc).take 32)) team n
    | _, _ => s

/-! ### Collectives (R171) -/

/-- A rendezvous has stood unmet for COLLTMO resident cycles; a limit of 0 disables it. -/
def collTimedOut (s : State) (tm : Team) (r : Rendezvous) : Bool :=
  let limit := bitsOf (s.ctx tm.ctx).colltmo 31 0
  limit != 0 && decide (limit ≤ r.waited)

/-- COLL_TIMEOUT (R171): the arrived members of a rendezvous that stays unmet trap. -/
def execCollTimeout (team : Nat) (group : Nat) (csn : Nat) (s : State) : Host.Outcome State Fault Refusal :=
  .next (
    let tm := s.team team
    match tm.rendezvous.find? (fun r => r.group == group && r.csn.toNat == csn) with
    | some r => if collTimedOut s tm r then failRendezvous s team r causeCollTimeout none else s
    | none => s)

end Sys2Proof.Machine
end

