-- ==== Sys2Proof/Machine/MemoryEvents.lean ====
section
/-! DEFINITION. What the memory system does of itself: walks and fetches, the collector, the homes, promotion, the carve-out,
shootdowns and storage errors. -/

namespace Sys2Proof.Machine

/-! ### Walks and fetches (R44, R161) -/

/-- PAGE_WALK (R44): the walker of a die takes a walk for a core, ahead of the access that asks for it; what the checks
of R26 refuse installs nothing. -/
def execPageWalk (core : Nat) (ctx : Nat) (va : Word) (s : State) : Host.Outcome State Fault Refusal :=
  .next (match (s.die (dieOf core)).tlb.find? (fun t => t.covers (s.cid ctx) va.toNat) with
    | some _ => s
    | none => if window va = .glob then (walkInstall s core ctx va.toNat).2 else s)

/-- A fault of a context is still open, or waits to be posted. -/
def faultOpen (s : State) (ctx key : Nat) : Bool := (s.ctx ctx).faults.any (fun f => f.key == key)

/-- INSTRUCTION_FETCH (R38, R161): a fetch whose fault is answered translates again: its thread becomes ready, waits for
a new fault, or traps. -/
def execInstructionFetch (team : Nat) (tid : Nat) (s : State) : Host.Outcome State Fault Refusal :=
  .next (match blockedAt s team tid with
    | some b =>
      let k := threadKey team tid
      match b.why with
      | .fetch key =>
        if faultOpen s b.env.ctx key then s
        else
          match fetchWord s b.env.core b.env.ctx b.env.pc with
          | (.ok _, s) => s.updThread k (fun t => { t with status := .ready })
          | (.fault key, s) => setWhy s k (.fetch key)
          | (.trap tr, s) =>
            let t := s.thread k
            takeTraps (raisePrecise s k b.env.unit tr) t.core t.ctx t.slot
      | _ => s
    | none => s)

/-! ### The collector, the homes and promotion (R49, R71 to R74, R103) -/

/-- An entry has stood for its 32 cycles (R72). -/
def entryDue (s : State) (e : Entry) : Bool := e.reply.isNone && decide (e.since + 32 ≤ s.now)

/-- COLLECTOR_SEND (R72): the collector sends an entry to its home, behind what came before it for the same line; it may do so
early. -/
def execCollectorSend (core : Nat) (n : Nat) (s : State) : Host.Outcome State Fault Refusal :=
  .next (match (s.core core).coll[n]? with
    | some e => if e.reply.isNone then sendEntries s core (fun k => k.pline == e.pline) else s
    | none => s)

/-- COLLECTOR_REPLY (R74): the reply of an entry, when it is the next from its home (R53), fills its line and reaches every
load that waits in it. -/
def execCollectorReply (core : Nat) (n : Nat) (evict : Nat) (s : State) : Host.Outcome State Fault Refusal :=
  .next (if replyNext (s.core core).coll n then replyEntry s core n evict else s)

/-- No store on its way comes before the n-th in R53's order. -/
def firstOfHome (s : State) (n : Nat) : Bool :=
  match s.flights[n]? with
  | none => false
  | some f => (s.flights.take n).all (fun g => !(g.together f))

/-- HOME_ACCESS (R49): a store that is on its way arrives at its home and is performed there. -/
def execHomeAccess (n : Nat) (s : State) : Host.Outcome State Fault Refusal :=
  .next (match s.flights[n]? with
    | some f =>
      if firstOfHome s n then performStores { s with flights := s.flights.eraseIdx n } f.core f.pline f.rel f.stores else s
    | none => s)

/-- PROMOTE (R103): a core that receives a promotion drains its stores to their homes. What that does to the tag is the
home's part, `promoteMet`. -/
def execPromote (core : Nat) (s : State) : Host.Outcome State Fault Refusal := .next (promoteCore s core)

/-! ### The carve-out (R77) -/

/-- The ways have moved on every die: new Well ways read zero, and the lines of ways that left their role are written back and
gone. -/
def carveDone (s : State) : State :=
  let s := match s.wellFrom with
    | some w => discardWell s (w * 2 ^ 23)
    | none => s
  (roleLines { s with wellStatus := 0, wellFrom := none, farCur := s.farReq }).wakeAll (fun _ w => w.onCarve)

/-- CARVE_OUT_COMPLETE (R77): write-backs, invalidations and zero-fills are complete, and STATUS is READY. -/
def execCarveOutComplete (s : State) : Host.Outcome State Fault Refusal :=
  .next (if s.wellStatus = 1 then carveDone s else s)

/-! ### What host does (R409, R427) -/

/-- Host reaches the module: the launch sequencers' firmware is loaded, after which the ports enumerate (R427), and a port is
trained (R409). -/
def hostCan (s : State) : Bool := s.steps.getLsbD 4 && !s.ports.isEmpty

/-- What host does, when it reaches the module. -/
def byHost (s t : State) : State := if hostCan s then t else s

/-! ### Shootdowns (R46, R418) -/

/-- A range of 64 KiB pages meets the range of a shootdown; 0 pages covers all. -/
def Shootdown.meets (d : Shootdown) (page n : Nat) : Bool :=
  d.pages == 0 || (decide (page < d.base + d.pages) && decide (d.base < page + n))
def Shootdown.tlb (d : Shootdown) (cid : Nat) (t : TlbEntry) : Bool :=
  t.ctx == cid && d.meets (t.vpage * 2 ^ (t.bits - 16)) (2 ^ (t.bits - 16))
def Shootdown.line (d : Shootdown) (own line c : Nat) : Bool := c == own && d.meets (line / 512) 1

/-- Matching translations of the context's CTXID go from every TLB, and matching lines from every L1. -/
def shootdown (s : State) (ctx : Nat) (d : Shootdown) : State :=
  let cid := s.cid ctx
  { s with
    cores := s.cores.map (fun p => (p.1, { p.2 with
      tlb := p.2.tlb.filter (fun t => !(d.tlb cid t))
      l1 := p.2.l1.filter (fun l => !(d.line cid l.line l.ctx))
      coll := p.2.coll.map (fun e => if d.line cid e.line (s.cid e.ctx) then { e with fill := false } else e) }))
    diesT := s.diesT.map (fun p => (p.1, { p.2 with tlb := p.2.tlb.filter (fun t => !(d.tlb cid t)) })) }

/-- A write of SDCTL (R418): PAGES is stored, and GO starts a shootdown unless one is running. -/
def sdctlWrite (s : State) (ctx : Nat) (v : Word) : State :=
  let c := s.ctx ctx
  if bitAt v 63 && c.sd.isNone then
    let d : Shootdown := ⟨bitsOf c.sdva 55 16, bitsOf v 31 0, s.now⟩
    shootdown (s.setCtx ctx { c with sdctl := BitVec.ofNat 64 (2 ^ 62 + bitsOf v 31 0), sd := some d }) ctx d
  else if bitAt v 63 then s
  else s.setCtx ctx { c with sdctl := setBits c.sdctl 31 0 (bitsOf v 31 0) }

/-- SHOOTDOWN (R46): a write of GO to SDCTL invalidates the translations and lines of a range. -/
def execShootdown (ctx : Nat) (v : Word) (s : State) : Host.Outcome State Fault Refusal :=
  .next (byHost s (sdctlWrite s ctx v))

/-- No access that used an old translation of the range is still to be performed at its home. -/
def shootdownDone (s : State) (ctx : Nat) (d : Shootdown) : Bool :=
  s.flights.all (fun f => f.ctx != ctx)
    && s.cores.all (fun p => p.2.coll.all (fun e =>
      !(d.line ctx e.line e.ctx && decide (e.since ≤ d.since) && (e.reply.isNone))))

/-- SHOOTDOWN_COMPLETE (R46): BUSY falls once every access that used an old translation has been performed. -/
def execShootdownComplete (ctx : Nat) (s : State) : Host.Outcome State Fault Refusal :=
  .next (
    let c := s.ctx ctx
    match c.sd with
    | some d => if shootdownDone s ctx d then s.setCtx ctx { c with sd := none, sdctl := setBits c.sdctl 62 62 0 } else s
    | none => s)

/-! ### Storage errors (R80 to R82) -/

/-- One more error of a structure on a die: corrected, or a poisoned block (R82). -/
def countError (s : State) (die unit : Nat) (poisoned : Bool) : State :=
  let k := unit * 2 + (if poisoned then 1 else 0)
  s.updDie die (fun d => { d with errors := Tbl.set d.errors k (Tbl.getD d.errors k 0 + 1) })

/-- A block becomes poisoned. -/
def addPoison (s : State) (k : Nat) : State := if s.poison.contains k then s else { s with poison := s.poison ++ [k] }

/-- An error of a structure with SECDED or ECC: corrected and counted, or its block poisoned and counted. -/
def blockError (s : State) (die unit block : Nat) (hard : Bool) : State :=
  countError (if hard then addPoison s block else s) die unit hard

/-- An error in the home ways of the die a line is homed on, when the line stands there: corrected, or the block poisoned. -/
def homeError (s : State) (pa : Nat) (hard : Bool) : State :=
  match homeDie pa with
  | none => s
  | some d =>
    if !((s.die d).home.any (fun h => h.line == pa / 128)) then s
    else
      countError (if hard then s.updDie d (fun x => { x with home := x.home.map (fun h =>
        if h.line == pa / 128 then { h with bad := (pa / 64 % 2 :: h.bad).dedup } else h) }) else s) d 2 hard

/-- An error in a die's far-way copy of a line, when it holds one. -/
def farError (s : State) (d pa : Nat) (hard : Bool) : State :=
  if !((s.die d).far.any (fun l => l.line == pa / 128)) then s
  else
    countError (if hard then s.updDie d (fun x => { x with far := x.far.map (fun l =>
      if l.line == pa / 128 then { l with bad := (pa / 64 % 2 :: l.bad).dedup } else l) }) else s) d 2 hard

/-- SOFT_ERROR (R80): a storage error arises in a structure: 0 HBM, 1 second tier (a physical address), 2 L2 (a physical address
in the home ways; plus (d + 1) * 2^52 in the far ways of die d), 3 Well, 4 scratchpad (keys of State), 5 accumulator file (an
element key), 6 L1 (core * 4096 + line), 7 register file (thread key * 128 + register), 8 palette (a record key), 9 margin (a
byte key), 10 quire memory (a thread key). -/
def execSoftError (unit : Nat) (addr : Nat) (hard : Bool) (s : State) : Host.Outcome State Fault Refusal :=
  .next (match unit with
    | 0 | 1 => blockError s ((homeDie addr).getD 0) unit (poisonPhys addr) hard
    | 2 => if addr < 2 ^ 52 then homeError s addr hard else farError s (addr / 2 ^ 52 - 1) (addr % 2 ^ 52) hard
    | 3 => blockError s (addr / 2 ^ 28) unit (poisonWell addr) hard
    | 4 => blockError s (dieOf (addr / 2 ^ 20 % 320)) unit (poisonScratch addr) hard
    | 5 => blockError s (dieOf (s.team (addr / 2 ^ 17)).core) unit (poisonAcc addr) hard
    | 6 => countError (s.updCore (addr / 4096) (fun c => { c with l1 := c.l1.eraseIdx (addr % 4096) }))
        (dieOf (addr / 4096)) unit false
    | 7 =>
      match s.thread? (addr / 128) with
      | some t => s.setThread (addr / 128) { t with bad := t.bad ++ [addr % 128] }
      | none => s
    | 8 => { s with palette := s.palette.map (fun p => if p.1 = addr then (p.1, { p.2 with bad := true }) else p) }
    | 9 => addPoison s (poisonMargin addr)
    | 10 =>
      match (s.team (s.thread addr).team).spawns.find? (fun r => threadKey (s.thread addr).team r.tid == addr) with
      | some r => s.updThread addr (fun t => { t with bad := r.live })
      | none => s
    | _ => s)

end Sys2Proof.Machine
end

