-- ==== Sys2Proof/Machine/Launch.lean ====
section
/-! DEFINITION. The event queues (R346) and the launch sequencers: queues, records, nodes, placement and completion (R370 to R380). -/

namespace Sys2Proof.Machine

/-! ### The device's own accesses through a context's page tables -/

/-- The pieces of a range of the global window as a walk finds them, A set; a write also asks for W. -/
def devPieces (s : State) (ctx : Nat) (write : Bool) : List (Nat × Nat) → Except (XErr × Nat) (List Piece) × State
  | [] => (.ok [], s)
  | (va, n) :: ps =>
    match walk s ctx va with
    | (.error x, s) => (.error (x, va), s)
    | (.ok t, s) =>
      if write && !leafW t.leaf then (.error (.page 1 t.bits, va), s)
      else
        match devPieces (orLeaf s t.addr 9) ctx write ps with
        | (.ok qs, s) => (.ok (⟨va, n, t.pa va, t⟩ :: qs), s)
        | (.error x, s) => (.error x, s)

/-- A range of the global window; an address outside it is untranslatable and not offered to host. -/
def devRange (s : State) (ctx : Nat) (write : Bool) (va n : Nat) : Except (XErr × Nat) (List Piece) × State :=
  if va + n ≤ 2 ^ 56 then devPieces s ctx write (rangePieces (n / 2 ^ 16 + 2) va n) else (.error (.page 8 16, va), s)

def devRead (s : State) (ctx va n : Nat) : Except (XErr × Nat) (List Byte) × State :=
  match devRange s ctx false va n with
  | (.ok ps, s) => (.ok (ps.flatMap (fun p => physRead s p.pa p.len)), s)
  | (.error x, s) => (.error x, s)

/-- Bytes written at home; what cannot be translated is not written (log entry 22). -/
def devWrite (s : State) (ctx va : Nat) (bs : List Byte) : State :=
  match devRange s ctx true va bs.length with
  | (.ok ps, s) =>
    (ps.foldl (fun (a : State × List Byte) p => (physWrite a.1 p.pa (a.2.take p.len), a.2.drop p.len))
      (beforeWrite s ps, bs)).1
  | (.error _, s) => s

/-- Whether one of the device's writes meets a page that a snap has still to copy: the page is then copied ahead of its turn
(R338). -/
def devHeld (s : State) (ctx : Nat) : List (Nat × Nat) → Bool × State
  | [] => (false, s)
  | (va, n) :: ws =>
    match devRange s ctx true va n with
    | (.error _, s) => devHeld s ctx ws
    | (.ok ps, s) =>
      match snapWait s ctx ps with
      | (some _, s) => (true, s)
      | (none, s) => devHeld s ctx ws

/-- Whether a range can be written. -/
def devCan (s : State) (ctx va n : Nat) : Bool :=
  match devRange s ctx true va n with | (.ok _, _) => true | _ => false

/-- Whether a ring of `cap` records with these 32-bit counts has room for one more. -/
def ringRoom (tail head cap : Nat) : Bool := decide ((tail + 2 ^ 32 - head) % 2 ^ 32 < cap)

/-! ### The event queues (R346, R419) -/

/-- The 32 bytes of an event record. -/
def eventBytes (s : State) (r : EventRec) : List Byte :=
  wordBytes 8 r.handle ++ natToBytes 1 r.status ++ natToBytes 1 r.ekind ++ natToBytes 2 0 ++ natToBytes 4 r.prog
    ++ wordBytes 8 s.cycle ++ natToBytes 8 0

/-- BASE and capacity of a queue register in the layout of EVQBASE. -/
def evqBase (w : Word) : Nat := bitsOf w 55 12 * 2 ^ 12
def evqCap (w : Word) : Nat := 2 ^ (bitsOf w 3 0 + 4)

/-- TAIL of a context's event queue, when its header can be reached, has room, and the record's bytes can be written. -/
def eventRoom (s : State) (ctx : Nat) : Option Nat :=
  let w := (s.ctx ctx).evqbase
  match devRead s ctx (evqBase w) 16 with
  | (.ok bs, _) =>
    let tail := fieldAt bs 0 8
    if (tail + 2 ^ 64 - fieldAt bs 8 8) % 2 ^ 64 < evqCap w
        && devCan s ctx (evqBase w) 8 && devCan s ctx (evqBase w + 64 + tail % evqCap w * 32) 32 then some tail
    else none
  | _ => none

/-- The oldest record of a context is posted, and the completion it held is recorded (R107, R346). -/
def postEvent (s : State) (ctx : Nat) : State :=
  match (s.ctx ctx).events, eventRoom s ctx with
  | r :: rest, some tail =>
    let w := (s.ctx ctx).evqbase
    let (held, s) := devHeld s ctx [(evqBase w + 64 + tail % evqCap w * 32, 32), (evqBase w, 8)]
    if held then s else
    let s := devWrite s ctx (evqBase w + 64 + tail % evqCap w * 32) (eventBytes s r)
    let s := devWrite s ctx (evqBase w) (natToBytes 8 ((tail + 1) % 2 ^ 64))
    let s := s.updCtx ctx (fun c => { c with events := rest })
    match r.cmd with
    | some (core, cls, seq) => match getCmd s core cls seq with
      | some c => recordClass (recordNow s c) core cls
      | none => s
    | none => s
  | _, _ => s

/-- TAIL of the module event queue, when it has room: its BASE is a physical address (R419). -/
def moduleRoom (s : State) : Option Nat :=
  let w := s.mevqbase
  let tail := physNat s (evqBase w) 8
  if (tail + 2 ^ 64 - physNat s (evqBase w + 8) 8) % 2 ^ 64 < evqCap w then some tail else none

/-- The oldest record of the module is posted. -/
def postModule (s : State) : State :=
  match s.mevents, moduleRoom s with
  | r :: rest, some tail =>
    let w := s.mevqbase
    let s := hwWrite s (evqBase w + 64 + tail % evqCap w * 32) (eventBytes s r)
    { hwWrite s (evqBase w) (natToBytes 8 ((tail + 1) % 2 ^ 64)) with mevents := rest }
  | _, _ => s

/-- EVENT_RECORD_POST (R346): the device writes the oldest record that waits and advances TAIL; `ctx` 16 names the module's
queue. -/
def execEventRecordPost (ctx : Nat) (s : State) : Host.Outcome State Fault Refusal :=
  .next (if ctx < 16 then postEvent s ctx else postModule s)

/-! ### Launch queues (R370, R371) -/

/-- The registers of a launch queue. -/
def lqReg (c : Ctx) (q r : Nat) : Word := Tbl.getD c.lq (q * 4 + r) 0
def setLq (c : Ctx) (q r : Nat) (w : Word) : Ctx := { c with lq := Tbl.put 0 c.lq (q * 4 + r) w }
def lqCap (c : Ctx) (q : Nat) : Nat := 2 ^ (bitsOf (lqReg c q 0) 7 4 + 4)

/-- A write of LQTAIL; one that would exceed the capacity is ignored (R370). -/
def lqtailWrite (s : State) (ctx q : Nat) (v : Word) : State :=
  let c := s.ctx ctx
  let n := bitsOf v 31 0
  if (n + 2 ^ 32 - bitsOf (lqReg c q 2) 31 0) % 2 ^ 32 ≤ lqCap c q then s.setCtx ctx (setLq c q 1 (BitVec.ofNat 64 n))
  else s

/-- LQTAIL_WRITE (R370): host writes a launch queue's TAIL. -/
def execLqtailWrite (ctx : Nat) (q : Nat) (v : Word) (s : State) : Host.Outcome State Fault Refusal :=
  .next (if q < 32 then byHost s (lqtailWrite s ctx q v) else s)

/-! ### The launch record (R372, R373) -/

/-- Flags of a record: GANG 0, SER 1, EVT 2, ROLES 3, NODE 6; and PRIO. -/
def recFlag (r : List Byte) (i : Nat) : Bool := fieldAt r 46 1 / 2 ^ i % 2 == 1
def recPrio (r : List Byte) : Nat := fieldAt r 46 1 / 16 % 4

/-- The roles of a record: groups, allotment, priority. -/
def recRoles (r : List Byte) : List (Option Role × Nat × Nat × Nat) :=
  if recFlag r 3 then
    [(some .copy, 48), (some .matrix, 52), (some .vector, 56)].map (fun p =>
      (p.1, fieldAt r p.2 1, fieldAt r (p.2 + 1) 1, fieldAt r (p.2 + 2) 1))
  else [(none, fieldAt r 38 1, fieldAt r 40 1, 0)]

/-- Clusters, teams per cluster, teams per core, teams. -/
def recNcl (r : List Byte) : Nat := fieldAt r 32 4
def recTpc (r : List Byte) : Nat := fieldAt r 36 1
def recPer (r : List Byte) : Nat := recTpc r / ((rectOf r).1 * (rectOf r).2)
def recTeams (r : List Byte) : Nat := recNcl r * recTpc r

/-- What a team of a record takes of its core: group slots, registers, scratchpad blocks, tiles, palette, margin. -/
def recNeeds (r : List Byte) : List Nat :=
  [fieldAt r 38 1 + fieldAt r 39 1, (recRoles r).foldl (fun n p => n + 32 * p.2.1 * p.2.2.1) 0, fieldAt r 41 1,
   fieldAt r 42 1, fieldAt r 44 2, fieldAt r 43 1]

/-- What a core holds of each (R373). -/
def coreHas : List Nat := [32, 131072, 256, 8, 256, 32]

def allotOk (a : Nat) : Bool := decide (8 ≤ a) && decide (a ≤ 128) && a % 8 == 0

/-- An entry of ROLE, checked whether ROLES is set or not; one that declares no role has only its zero byte checked. -/
def roleOk (r : List Byte) (o : Nat) : Bool :=
  fieldAt r (o + 3) 1 == 0 && (fieldAt r o 1 == 0 || (allotOk (fieldAt r (o + 1) 1) && decide (fieldAt r (o + 2) 1 ≤ 3)))

/-- The limits of R372 by the byte offset of the field; those of a node only where NODE = 1 (log entry 23). -/
def recFields (r : List Byte) : List (Nat × Bool) :=
  let f := fieldAt r
  let w := (rectOf r).1
  let h := (rectOf r).2
  let node := recFlag r 6
  [(0, f 0 8 % 4 == 0 && decide (f 0 8 < 2 ^ 56)), (8, decide (f 8 8 + 256 ≤ 2 ^ 56)),
   (16, f 16 8 % 2 ^ 16 == 0 && decide (f 16 8 < 2 ^ 56)), (24, f 24 8 % 64 == 0 && decide (f 24 8 < 2 ^ 56)),
   (32, decide (1 ≤ f 32 4) && decide (f 32 4 ≤ 2 ^ 24)), (36, decide (1 ≤ f 36 1) && decide (f 36 1 ≤ 48)),
   (37, decide (1 ≤ w) && decide (w ≤ 8) && decide (1 ≤ h) && decide (h ≤ 5) && decide (w * h ≤ 12)
      && f 36 1 % (w * h) == 0),
   (38, decide (1 ≤ f 38 1) && decide (f 38 1 ≤ 32)), (39, decide (f 38 1 + f 39 1 ≤ 32)),
   (40, recFlag r 3 || allotOk (f 40 1)), (42, decide (f 42 1 ≤ 8)), (43, decide (f 43 1 ≤ 32)),
   (44, decide (f 44 2 ≤ 256)), (46, decide (f 46 1 < 128)), (47, f 47 1 == 0),
   (48, roleOk r 48 && roleOk r 52 && roleOk r 56 && (!recFlag r 3 || f 48 1 + f 52 1 + f 56 1 == f 38 1)),
   (60, (List.range 8).all (fun i => decide (f (60 + i) 1 ≤ 16))),
   (70, !node || (decide (1 ≤ f 70 2) && decide (f 70 2 ≤ 256))),
   (76, !node || (f 76 8 % 4096 == 0 && decide (f 76 8 < 2 ^ 56))),
   (84, !node || (decide (f 70 2 ≤ f 84 4) && f 84 4 == 2 ^ (Nat.log2 (f 84 4)))),
   (96, fieldAt r 96 160 == 0)]

/-- The field of the first resource that one core cannot hold (R373). -/
def recOverflow (r : List Byte) : Option Nat :=
  let fields := [38, if recFlag r 3 then 48 else 40, 41, 42, 44, 43]
  ((recNeeds r).zip (coreHas.zip fields)).findSome? (fun p => if p.2.1 < p.1 * recPer r then some p.2.2 else none)

/-- The byte offset of the first failing field of a record (R372, R373). -/
def recBad (r : List Byte) : Option Nat :=
  match firstBad (recFields r) with
  | some o => some o
  | none =>
    if 2 ^ 22 < recTeams r || 2 ^ 56 < fieldAt r 16 8 + recTeams r * 2 ^ 29 then some 32 else recOverflow r

/-- The handle of a launch (R379), or of a node (R423). -/
def launchHandle (ctxid cls slot seq : Nat) : Word :=
  BitVec.ofNat 64 (ctxid % 2 ^ 16 * 2 ^ 48 + 63 * 2 ^ 39 + cls * 2 ^ 37 + slot % 32 * 2 ^ 32 + seq % 2 ^ 32)

/-- HEAD advances past a record that is copied (R371). -/
def advanceHead (s : State) (ctx q : Nat) : State :=
  s.updCtx ctx (fun c =>
    let c := setLq c q 2 (BitVec.ofNat 64 ((bitsOf (lqReg c q 2) 31 0 + 1) % 2 ^ 32))
    { c with lqWait := Tbl.erase (Tbl.erase c.lqWait (q * 2)) (q * 2 + 1) })

/-- A record is refused (R373): HEAD advances and an event record names the field. -/
def refuseRecord (s : State) (ctx q prog : Nat) : State :=
  let i := bitsOf (lqReg (s.ctx ctx) q 2) 31 0
  pushEvent (advanceHead s ctx q) ctx ⟨launchHandle (s.ctx ctx).ctxid 0 q (i + 1), 4, 4, prog, none⟩

/-- A read of the record (part 0) or of the parameter block (part 1) failed: a kind offered to host is posted and the
queue waits; any other refuses the record. -/
def fetchFailed (s : State) (ctx q part : Nat) (x : XErr × Nat) : State :=
  match x.1 with
  | .page k bits =>
    if 8 ≤ k then refuseRecord s ctx q (8 * part)
    else
      let (key, s) := openFault s ctx (BitVec.ofNat 64 x.2) k bits 0 0 false
      s.updCtx ctx (fun c => { c with lqWait := Tbl.set c.lqWait (q * 2 + part) key })
  | .inkPage => refuseRecord s ctx q (8 * part)

/-- A launch of a record, or of a node's team, that waits to be placed. -/
def Launch.fresh (ctx q i : Nat) (r ps : List Byte) : Launch where
  ctx := ctx; queue := q; index := i; record := r; params := ps; next := 0; placed := 0; exits := 0; start := none
  leave := 0; waited := 0; aged := false; rects := []; holds := []; first := 0; batch := (0, 0); node := none
  done := false

/-- A node's queue holds records (R378). -/
def nodeHolds (c : Ctx) (n : Nat) : Bool :=
  match Tbl.get? c.nodes n with | some x => !x.waiting.isEmpty || !x.busy.isEmpty | none => false

/-- A record that passed its checks is copied: it registers a node, or waits to be placed. -/
def takeRecord (s : State) (ctx q : Nat) (r ps : List Byte) : State :=
  let i := bitsOf (lqReg (s.ctx ctx) q 2) 31 0
  let n := fieldAt r 68 2
  if recFlag r 6 then
    if nodeHolds (s.ctx ctx) n then refuseRecord s ctx q 68
    else
      let s := (advanceHead s ctx q).updCtx ctx (fun c => { c with
        nodes := Tbl.set c.nodes n ⟨r, ps, q, i, 0, [], [], 0, 0⟩ })
      s.wakeAll (fun t w => t.ctx == ctx && w == .nodeFull n)
  else
    let (id, s) := (advanceHead s ctx q).fresh
    s.setLaunch id (Launch.fresh ctx q i r ps)

/-- The parameter block of a record (R372). -/
def fetchParams (s : State) (ctx q : Nat) (r : List Byte) : State :=
  let a := fieldAt r 8 8
  if a = 0 then takeRecord s ctx q r []
  else match devRead s ctx a 256 with
    | (.ok ps, s) => takeRecord s ctx q r ps
    | (.error x, s) => fetchFailed s ctx q 1 x

/-- A launch is fully placed. -/
def Launch.allPlaced (l : Launch) : Bool := decide (recNcl l.record ≤ l.next)

/-- A queue can fetch: it is served and holds a record, waits for no host, and its last record is placed (R370, R371). -/
def fetchDue (s : State) (ctx q : Nat) : Bool :=
  let c := s.ctx ctx
  bitAt (lqReg c q 0) 3 && bitsOf (lqReg c q 1) 31 0 != bitsOf (lqReg c q 2) 31 0 && !c.stopped
    && c.lqWait.all (fun p => p.1 / 2 != q || !(faultOpen s ctx p.2))
    && s.launches.all (fun p => !(p.2.ctx == ctx && p.2.queue == q && p.2.node.isNone && !p.2.allPlaced))

/-- LAUNCH_RECORD_FETCH (R371 to R373, R378): the sequencer fetches and checks the next record of a queue. -/
def execLaunchRecordFetch (ctx : Nat) (q : Nat) (s : State) : Host.Outcome State Fault Refusal :=
  .next (
    if !fetchDue s ctx q then s
    else
      let c := s.ctx ctx
      let i := bitsOf (lqReg c q 2) 31 0
      match devRead s ctx (bitsOf (lqReg c q 0) 55 12 * 2 ^ 12 + i % lqCap c q * 256) 256 with
      | (.error x, s) => fetchFailed s ctx q 0 x
      | (.ok r, s) =>
        match recBad r with
        | some o => refuseRecord s ctx q o
        | none => fetchParams s ctx q r)

/-! ### Graph nodes (R378) -/

/-- The sequencer launches one team of a node with the records that wait, up to COAL and to the ring's end. -/
def launchNode (s : State) (ctx node : Nat) (x : Node) : State :=
  let cap := fieldAt x.record 84 4
  let n := min (min (fieldAt x.record 70 2) x.waiting.length) (cap - x.head % cap)
  let one := x.record.take 32 ++ natToBytes 4 1 ++ natToBytes 1 1 ++ natToBytes 1 0x11 ++ x.record.drop 38
  let l : Launch := { Launch.fresh ctx x.queue x.index one x.params with
    node := some node, first := x.teams, batch := (fieldAt x.record 76 8 + x.head % cap * 32, n) }
  let s := s.updCtx ctx (fun c => { c with nodes := Tbl.set c.nodes node { x with
    waiting := x.waiting.drop n, busy := x.busy ++ (List.range n).map (fun i => (x.head + i) % cap), head := x.head + n, teams := x.teams + 1 } })
  let (id, s) := s.fresh
  s.setLaunch id l

/-- A node's queue holds its threshold of records. -/
def nodeFullDue (x : Node) : Bool := decide (fieldAt x.record 70 2 ≤ x.waiting.length)

/-- Its oldest record has waited CTMO cycles; 0 means no timeout. -/
def nodeOldDue (s : State) (x : Node) : Bool :=
  fieldAt x.record 72 4 != 0 && !(nodeFullDue x) && (match x.waiting with
    | w :: _ => decide (w + fieldAt x.record 72 4 ≤ s.now)
    | [] => false)

/-- NODE_LAUNCH (R378): a node's queue holds COAL records, and one team of the node is launched. -/
def execNodeLaunch (ctx : Nat) (node : Nat) (s : State) : Host.Outcome State Fault Refusal :=
  .next (match Tbl.get? (s.ctx ctx).nodes node with
    | some x => if nodeFullDue x then launchNode s ctx node x else s
    | none => s)

/-- COALESCE_TIMEOUT (R378): the oldest record of a node has waited CTMO cycles. -/
def execCoalesceTimeout (ctx : Nat) (node : Nat) (s : State) : Host.Outcome State Fault Refusal :=
  .next (match Tbl.get? (s.ctx ctx).nodes node with
    | some x => if nodeOldDue s x then launchNode s ctx node x else s
    | none => s)

/-! ### Resources of a core (R373, R375) -/

/-- Teams of a context on a core whose resources are taken. -/
def coreTeams (s : State) (core ctx : Nat) : List Team :=
  ((s.teams.filter (fun p => p.2.core == core && p.2.ctx == ctx && !p.2.exited))).map (fun p => p.2)

/-- Those whose allocations last: a team keeps its own until the commands that its threads issued have run to completion (R59, R244;
DEDUCED, log entry 23). -/
def holdingTeams (s : State) (core ctx : Nat) : List Team :=
  ((s.teams.filter (fun p => p.2.core == core && p.2.ctx == ctx && !p.2.gone s p.1))).map (fun p => p.2)

/-- The contexts whose groups and registers stand on a core together: the active one, the shadow one, and `ctx` (R8, R159). -/
def bankContexts (s : State) (core ctx : Nat) : List Nat :=
  (ctx :: ((s.core core).active.toList ++ (s.core core).shadow.toList)).dedup

/-- What is taken of a core for a team of a context, in the order of `coreHas`: group slots and registers by both resident
contexts (R8, R158, R159), the rest, which a swap exchanges, by the context itself (R390). -/
def coreUsed (s : State) (core ctx : Nat) : List Nat :=
  let ts := holdingTeams s core ctx
  let sum (ts : List Team) (f : Team → Nat) : Nat := ts.foldl (fun n t => n + f t) 0
  let both := bankContexts s core ctx
  [((s.core core).slots.filter (fun p => both.contains (p.1 / 32))).length,
   sum (both.flatMap (holdingTeams s core)) (fun t => t.groups.foldl (fun n g => n + 32 * g.allot) 0),
   sum ts (fun t => t.scrSize / 4096), sum ts Team.tiles, sum ts Team.palKiB, sum ts (fun t => t.margBytes / 1024)]

/-- The blocks that a team has on its core: scratchpad, tiles, palette, margin (R390). -/
def Team.blocks (t : Team) : List Nat :=
  (List.range (t.scrSize / 4096)).map (fun i => t.scrBase / 4096 + i)
    ++ (List.range t.tiles).flatMap (fun i => tileBlocks (t.tileBase + i))
    ++ (if t.palKiB = 0 then [] else palBlocks) ++ margBlocks t.margBase t.margBytes

/-- The blocks that a context's teams have on a core, in ascending address. -/
def contextBlocks (s : State) (core ctx : Nat) : List Nat :=
  ((holdingTeams s core ctx).flatMap Team.blocks).dedup.sortBy (fun a b => decide (a ≤ b))

/-- The cores of a rectangle, row by row (R20). -/
def rectangle (r : List Byte) (at_ : Nat × Nat × Nat) : List Nat :=
  let (w, h) := rectOf r
  (List.range h).flatMap (fun i => (List.range w).map (fun j => at_.1 * 40 + (at_.2.1 + i) * 8 + at_.2.2 + j))

/-- Every place of a rectangle on the module, in order. -/
def rectPlaces (r : List Byte) : List (Nat × Nat × Nat) :=
  let (w, h) := rectOf r
  (List.range Config.dies).flatMap (fun d => (List.range (6 - h)).flatMap (fun i => (List.range (9 - w)).map (fun j =>
    (d, i, j))))

/-- Times the rectangles that a launch has still to take cover a core. -/
def coverCount (l : Launch) (core : Nat) : Nat :=
  ((l.rects.drop l.next).filter (fun a => (rectangle l.record a).contains core)).length

/-- Gangs that wait on rectangles they have chosen, oldest first. -/
def waitingGangs (s : State) : List (Nat × Launch) := s.launches.filter (fun p => !p.2.rects.isEmpty && !p.2.allPlaced)

/-- The resources of `coreHas` that both contexts of a core share: group slots and registers. -/
def sharedBank (r : Nat) : Bool := decide (r < 2)

/-- A launch with fewer teams than an aged gang takes nothing on the gang's rectangle (R375). -/
def agedBars (s : State) (id : Nat) (l : Launch) (core : Nat) : Bool :=
  (waitingGangs s).any (fun p => p.1 != id && p.2.aged && decide (recTeams l.record < recTeams p.2.record)
    && decide (0 < coverCount p.2 core))

/-- The sum of amounts by name. -/
def totalOf (xs : List (Nat × Nat)) : Nat := xs.foldl (fun n q => n + q.2) 0

/-- Resource `r` of a core, of a context's own bank or of both, as `Core.opens` numbers it; and how much of it no team has. -/
def openKey (ctx r : Nat) : Nat := if sharedBank r then r else 8 * (ctx + 1) + r
def coreFree (s : State) (core ctx r : Nat) : Nat := (coreHas[r]?).getD 0 - ((coreUsed s core ctx)[r]?).getD 0

/-- The gangs that wait for resource `r` of a core, oldest first. -/
def coreGangs (s : State) (core ctx r : Nat) : List (Nat × Launch) :=
  (waitingGangs s).filter (fun p => (sharedBank r || p.2.ctx == ctx) && decide (0 < coverCount p.2 core))

/-- What a gang has reserved of resource `r` of a core, and what it needs there. -/
def Launch.heldOf (l : Launch) (core r : Nat) : Nat := Tbl.getD l.holds (core * 8 + r) 0
def Launch.needOf (l : Launch) (core r : Nat) : Nat := ((recNeeds l.record)[r]?).getD 0 * recPer l.record * coverCount l core

/-- What the gangs hold of resource `r` of a core, gang by gang: what each has reserved, and of what has become free since the
sequencer last acted there each its need, the oldest first. One that an aged larger gang bars takes no more than it holds (R375;
DEDUCED, log entry 23). -/
def reserved (s : State) (core ctx r : Nat) : List (Nat × Nat) :=
  let gs := coreGangs s core ctx r
  let old := gs.map (fun p => (p.1, p.2.heldOf core r))
  let freed := coreFree s core ctx r - totalOf old - Tbl.getD (s.core core).opens (openKey ctx r) 0
  (gs.foldl (fun (acc : List (Nat × Nat) × Nat) p =>
    let held := p.2.heldOf core r
    let n := if agedBars s p.1 p.2 core then 0 else min acc.2 (p.2.needOf core r - held)
    (acc.1 ++ [(p.1, held + n)], acc.2 - n)) ([], freed)).1

/-- What a gang holds of resource `r` of a core. -/
def heldBy (s : State) (id core ctx r : Nat) : Nat :=
  (((reserved s core ctx r).find? (fun p => p.1 == id)).map (fun p => p.2)).getD 0

/-- Contexts that hold a bank of a core: active or shadow, with a slot taken. -/
def coreContexts (s : State) (core : Nat) : List Nat :=
  let c := s.core core
  (c.active.toList ++ c.shadow.toList).filter (fun x => c.slots.any (fun p => p.1 / 32 == x))

/-- A context may have a team on a core (R375). -/
def admits (s : State) (core ctx : Nat) : Bool :=
  (s.core core).active == some ctx || (s.core core).shadow == some ctx || decide ((coreContexts s core).length < 2)

/-- `p` runs of `n` units, one after another, each in the first gap among the ranges already taken. -/
def findRuns (cap n : Nat) : Nat → List (Nat × Nat) → Option (List Nat)
  | 0, _ => some []
  | p + 1, used =>
    if n = 0 then (findRuns cap n p used).map (fun l => 0 :: l)
    else match (List.range (cap + 1 - n)).find? (fun b => used.all (fun u => decide (b + n ≤ u.1) || decide (u.1 + u.2 ≤ b))) with
      | none => none
      | some b => (findRuns cap n p (used ++ [(b, n)])).map (fun l => b :: l)

/-- Where the scratchpads and margins of a launch's teams on a core would lie. -/
def scrRuns (s : State) (core : Nat) (l : Launch) : Option (List Nat) :=
  findRuns 256 (fieldAt l.record 41 1) (recPer l.record)
    ((holdingTeams s core l.ctx).map (fun t => (t.scrBase / 4096, t.scrSize / 4096)))
def margRuns (s : State) (core : Nat) (l : Launch) : Option (List Nat) :=
  findRuns 32 (fieldAt l.record 43 1) (recPer l.record)
    ((holdingTeams s core l.ctx).map (fun t => (t.margBase / 1024, t.margBytes / 1024)))

/-- One cluster's teams fit on a core. A gang that an aged larger one bars there starts on what it holds, and on that alone (R375). -/
def coreFits (s : State) (id : Nat) (l : Launch) (core : Nat) : Bool :=
  let need (r : Nat) : Nat := ((recNeeds l.record)[r]?).getD 0 * recPer l.record
  admits s core l.ctx
    && (!(agedBars s id l core) || (List.range 6).all (fun r => decide (need r ≤ heldBy s id core l.ctx r)))
    && (List.range 6).all (fun r =>
      let held := (reserved s core l.ctx r).foldl (fun n p => if p.1 = id then n else n + p.2) 0
      decide (((coreUsed s core l.ctx)[r]?).getD 0 + held + need r ≤ (coreHas[r]?).getD 0))
    && (scrRuns s core l).isSome && (margRuns s core l).isSome

/-- A cluster fits on a rectangle. -/
def rectFits (s : State) (id : Nat) (l : Launch) (at_ : Nat × Nat × Nat) : Bool :=
  (rectPlaces l.record).contains at_ && (rectangle l.record at_).all (coreFits s id l)

/-! ### Placement (R374) -/

/-- A context takes a bank of a core, if it has none: its observed rounds are unknown there (R146). -/
def joinCore (s : State) (core ctx : Nat) : State :=
  let c := s.core core
  if c.active == some ctx || c.shadow == some ctx then s
  else
    let idle (x : Option Nat) : Bool := match x with | none => true | some x => !(coreContexts s core).contains x
    let gone := (if idle c.active then c.active else c.shadow).toList ++ [ctx]
    let c := { c with observed := c.observed.filter (fun p => !gone.contains (p.1 / 1024)) }
    s.setCore core (if idle c.active then { c with active := some ctx, slice := 0, expired := false, unrestored := [] }
      else { c with shadow := some ctx, unspilled := [] })

/-- The groups of a team, its roles in the order COPY, MATRIX, VECTOR (R441), in the lowest free slots, which R159 leaves open
(DESIGN CHOICE, log entry 56). -/
def teamGroups (r : List Byte) (free : List Nat) : List Group :=
  let kinds := (recRoles r).flatMap (fun p => List.replicate p.2.1 (p.1, p.2.2.1, p.2.2.2))
  (free.zip kinds).map (fun p => ⟨p.1, p.2.2.1, p.2.1, p.2.2.2⟩)

/-- The tag that comes next in a context, past those of its live threads (R115). -/
def nextTag (s : State) (ctx : Nat) : Nat :=
  let used := (s.threads.filter (fun p => p.2.ctx == ctx && p.2.live)).map (fun p => p.2.tag)
  let tag (i : Nat) : Nat := ((s.ctx ctx).tagNext + 1 + i) % 2 ^ 40
  tag (((List.range (used.length + 1)).find? (fun i => !used.contains (tag i))).getD 0)

/-- The threads of a team as its launch creates them (R115, R158, R287, R426). -/
def createThreads (s : State) (team ctx core : Nat) (entry : Word) (gs : List Group) : State :=
  (gs.mapIdx (fun i g => (i, g))).foldl (fun s p =>
    (List.range 32).foldl (fun s lane =>
      let tag := nextTag s ctx
      let s := s.updCtx ctx (fun c => { c with tagNext := tag })
      let tid := 32 * p.1 + lane
      s.setThread (threadKey team tid) { Thread.reset with
        ctx := ctx, core := core, team := team, tid := tid, slot := p.2.slot, pos := lane, tag := tag, pc := entry }) s) s

/-- A scratchpad block whose last owner was of another context reads zero (R59; who that is, log entry 59). -/
def ownBlock (s : State) (core ctx blk : Nat) : State :=
  let id := (s.ctx ctx).ctxid + 1
  if Tbl.getD (s.core core).owner blk 0 = id then s
  else
    let k := scratchKey (s.cid ctx) core (blk * 4096)
    let s := { s with scratch := Memory.clear s.scratch k 4096 }
    unpoison (ownedBy core ctx blk s) poisonScratch k 4096

/-- The reservations of resource `r` of a core stand as `holds` says; of what else is free there, all but `taken` is open (R375). -/
def setHolds (s : State) (core ctx r taken : Nat) (holds : List (Nat × Nat)) : State :=
  let left := coreFree s core ctx r - taken - totalOf holds
  let s := s.updCore core (fun c => { c with opens := Tbl.set c.opens (openKey ctx r) left })
  { s with launches := s.launches.map (fun p => match holds.find? (fun h => h.1 == p.1) with
      | some h => (p.1, { p.2 with holds := Tbl.set p.2.holds (core * 8 + r) h.2 })
      | none => p) }

/-- A launch takes `need` of each resource of a core, of what it holds there itself first; what has become free since is reserved
before (R375). -/
def takeOpen (s : State) (id core ctx : Nat) (need : List Nat) : State :=
  (List.range 6).foldl (fun s r =>
    if (coreGangs s core ctx r).isEmpty then s
    else
      let n := (need[r]?).getD 0
      setHolds s core ctx r n ((reserved s core ctx r).map (fun h => if h.1 = id then (h.1, h.2 - n) else h))) s

/-- The parameters in c0 to c31, and the batch of a node's team in c32 and c33 (R172, R378). -/
def launchC (l : Launch) : Tbl Word :=
  let ps := (List.range 32).foldl (fun c i => Tbl.put 0 c i (BitVec.ofNat 64 (fieldAt l.params (8 * i) 8))) ([] : Tbl Word)
  match l.node with
  | some _ => Tbl.put 0 (Tbl.put 0 ps 32 (BitVec.ofNat 64 l.batch.1)) 33 (BitVec.ofNat 64 l.batch.2)
  | none => ps

/-- Free group slots of a context on a core, which a team's groups and then its spawn slots take from the lowest up; the two
contexts of a core may use one slot number (DESIGN CHOICE, log entry 56). -/
def freeSlots (s : State) (core ctx : Nat) : List Nat :=
  (List.range 32).filter (fun g => (Tbl.get? (s.core core).slots (slotKey ctx g)).isNone)

/-- The ring slots of the records that a node's team receives (R378). -/
def batchSlots (l : Launch) : List Nat :=
  (List.range l.batch.2).map (fun i => (l.batch.1 - fieldAt l.record 76 8) / 32 + i)

/-- Blocks of a new team that still hold what the outgoing context left there are in place once that is written (R390). -/
def awaitBlocks (s : State) (core ctx : Nat) (t : Team) : State :=
  s.updCore core (fun c =>
    if c.active == some ctx then { c with unrestored := (c.unrestored ++ t.blocks.filter c.unspilled.contains).dedup } else c)

/-- One team is placed on a core and starts, after an acquire (R371, R374, R378). -/
def placeTeam (s : State) (id : Nat) (l : Launch) (core index rank ordinal scr marg : Nat) : State :=
  let r := l.record
  let ctx := l.ctx
  let s := takeOpen (joinCore s core ctx) id core ctx (recNeeds r)
  let (team, s) := s.fresh
  let free := freeSlots s core ctx
  let gs := teamGroups r free
  let spare := (free.drop gs.length).take (fieldAt r 39 1)
  let tiles := (holdingTeams s core ctx).foldl (fun n t => max n (t.tileBase + t.tiles)) 0
  let s := s.setTeam team { Team.reset with
    ctx := ctx, core := core, launch := id, ordinal := l.first + ordinal, cluster := l.next, index := index, rank := rank
    groups := gs, spawnSlots := spare, hadSpawn := decide (0 < fieldAt r 39 1), c := launchC l
    ringStages := (List.range 8).foldl (fun t i => Tbl.put 0 t i (fieldAt r (60 + i) 1)) []
    scrBase := scr * 4096, scrSize := fieldAt r 41 1 * 4096, tileBase := tiles % 8, tiles := fieldAt r 42 1
    palKiB := fieldAt r 44 2, margBase := marg * 1024, margBytes := fieldAt r 43 1 * 1024
    rstack := BitVec.ofNat 64 (fieldAt r 16 8), nodeRecs := batchSlots l }
  let s := (gs.map Group.slot ++ spare).foldl (fun s g => setSlotInfo s core ctx g ⟨team, false, [], false, none⟩) s
  let s := (List.range (fieldAt r 41 1)).foldl (fun s b => ownBlock s core ctx (scr + b)) s
  let s := awaitBlocks s core ctx (s.team team)
  acquireActions (createThreads s team ctx core (BitVec.ofNat 64 (fieldAt r 0 8)) gs) core 4

/-- The teams of a cluster that stand on one core, rank by rank. -/
def placeCore (s : State) (id : Nat) (l : Launch) (core index : Nat) : State :=
  let p := recPer l.record
  let scrs := (scrRuns s core l).getD []
  let margs := (margRuns s core l).getD []
  (List.range p).foldl (fun s k =>
    placeTeam s id l core index k (l.next * recTpc l.record + index * p + k) ((scrs[k]?).getD 0) ((margs[k]?).getD 0)) s

/-- The next cluster of a launch is placed on a rectangle, whole. -/
def placeCluster (s : State) (id : Nat) (at_ : Nat × Nat × Nat) : State :=
  match s.launch id with
  | none => s
  | some l =>
    let s := ((rectangle l.record at_).mapIdx (fun i c => (i, c))).foldl (fun s p => placeCore s id l p.2 p.1) s
    match s.launch id with
    | none => s
    | some l => s.setLaunch id { l with next := l.next + 1, placed := l.placed + recTpc l.record
                                        start := some (l.start.getD s.now) }

/-- The clusters of a gang on given rectangles, or on the first that fit; none when one has no place. -/
def placeGang (id : Nat) : List (Option (Nat × Nat × Nat)) → State → Option State
  | [], s => some s
  | a :: as, s =>
    match s.launch id with
    | none => none
    | some l =>
      match (match a with
        | some a => if rectFits s id l a then some a else none
        | none => (rectPlaces l.record).find? (rectFits s id l)) with
      | none => none
      | some a => placeGang id as (placeCluster s id a)

/-- Rectangles for the clusters of a gang on cores that hold nothing else. -/
def chooseRects (r : List Byte) : Nat → List (Nat × Nat × Nat) → List (Nat × Nat × Nat)
  | 0, acc => acc
  | n + 1, acc =>
    match (rectPlaces r).find? (fun a => (rectangle r a).all (fun c =>
        let k := (acc.filter (fun b => (rectangle r b).contains c)).length + 1
        ((recNeeds r).zip coreHas).all (fun p => decide (p.1 * recPer r * k ≤ p.2)))) with
    | some a => chooseRects r n (acc ++ [a])
    | none => []

/-- A gang that lacks resources chooses its rectangles; what is free there now, and reserved by no gang, is open to others (R375). -/
def gangWaits (s : State) (id : Nat) (l : Launch) : State :=
  let rects := chooseRects l.record (recNcl l.record) []
  let cores := (rects.flatMap (rectangle l.record)).dedup
  let s := cores.foldl (fun s c => (List.range 6).foldl (fun s r => setHolds s c l.ctx r 0 (reserved s c l.ctx r)) s) s
  s.setLaunch id { l with rects := rects, holds := [] }

/-- The launch of the record before one in its queue; a record that was refused, or registered a node, has no teams. -/
def previous (s : State) (id : Nat) (l : Launch) : Option Launch :=
  ((s.launches.filter (fun p => decide (p.1 < id) && p.2.ctx == l.ctx && p.2.queue == l.queue && p.2.node.isNone
    && (p.2.index + 1) % 2 ^ 32 == l.index)).getLast?).map (fun p => p.2)

/-- A launch is ready to place: its context runs, and with SER every team of the record before has exited (R371). -/
def placeReady (s : State) (id : Nat) (l : Launch) : Bool :=
  !l.allPlaced && !(s.ctx l.ctx).stopped && (!recFlag l.record 1 || l.node.isSome || (match previous s id l with
    | some p => decide (recTeams p.record ≤ p.exits)
    | none => true))

/-- The order of service (R376), less first: priority, then an aged gang, then round-robin over the queues. -/
def serviceKey (s : State) (l : Launch) : Nat :=
  (3 - recPrio l.record) * 1024 + (if l.aged then 0 else 512) + (l.ctx * 32 + l.queue + 511 - s.rrq % 512) % 512

/-- Launches ready to place, in the order of service. -/
def serviceOrder (s : State) : List (Nat × Launch) :=
  (s.launches.filter (fun p => placeReady s p.1 p.2)).sortBy (fun a b => decide (serviceKey s a.2 ≤ serviceKey s b.2))

/-- A gang with every cluster placed. -/
def gangPlaced (s : State) (id : Nat) (l : Launch) : Option State :=
  placeGang id (if l.rects.isEmpty then List.replicate (recNcl l.record) none else l.rects.map some) s

/-- What the sequencer does next for a launch: a gang starts whole or chooses its rectangles; the next cluster of any other
goes on the first rectangle that takes it. -/
def placeAt (s : State) (id : Nat) (l : Launch) (at_ : Option (Nat × Nat × Nat)) : Option State :=
  if recFlag l.record 0 then
    match gangPlaced s id l with
    | some s => some s
    | none => if l.rects.isEmpty && !(chooseRects l.record (recNcl l.record) []).isEmpty then some (gangWaits s id l) else none
  else
    match at_ with
    | some a => if rectFits s id l a then some (placeCluster s id a) else none
    | none => ((rectPlaces l.record).find? (rectFits s id l)).map (placeCluster s id)

/-- The first launch in the order of service that can go on. -/
def nextPlaced (s : State) : Option Nat :=
  ((serviceOrder s).find? (fun p => (placeAt s p.1 p.2 none).isSome)).map (fun p => p.1)

/-- TEAM_PLACEMENT (R374 to R376): the launch whose turn it is has its next cluster placed on the rectangle named, or on the
first that takes it when that one does not. -/
def execTeamPlacement (launch : Nat) (die : Nat) (row : Nat) (col : Nat)
    (s : State) : Host.Outcome State Fault Refusal :=
  .next (
    match s.launch launch with
    | none => s
    | some l =>
      if nextPlaced s != some launch then s
      else
        let t := match placeAt s launch l (some (die, row, col)) with
          | some t => t
          | none => (placeAt s launch l none).getD s
        if (t.launch launch).any (fun k => decide (l.next < k.next)) then { t with rrq := l.ctx * 32 + l.queue } else t)

/-- A gang that waits has reached GANGAGE (R375). -/
def gangDue (s : State) (l : Launch) : Bool :=
  recFlag l.record 0 && !l.aged && !l.rects.isEmpty && l.next == 0 && decide (bitsOf s.gangage 31 0 ≤ l.waited)

/-- A gang that becomes aged takes hold of what is open of resource `r` of a core, up to its need; what the other gangs have reserved
there stays theirs (R375; DEDUCED, log entry 23). -/
def ageHolds (s : State) (id : Nat) (l : Launch) (core r : Nat) : State :=
  let hs := reserved s core l.ctx r
  let left := coreFree s core l.ctx r - totalOf hs
  setHolds s core l.ctx r 0 (hs.map (fun h => if h.1 = id then (h.1, h.2 + min left (l.needOf core r - h.2)) else h))

/-- GANG_AGED (R375): a waiting gang reaches GANGAGE. -/
def execGangAged (launch : Nat) (s : State) : Host.Outcome State Fault Refusal :=
  .next (match s.launch launch with
    | some l =>
      if gangDue s l then
        let cores := (l.rects.flatMap (rectangle l.record)).dedup
        let s := cores.foldl (fun s c => (List.range 6).foldl (fun s r => ageHolds s launch l c r) s) s
        match s.launch launch with
        | some l => s.setLaunch launch { l with aged := true }
        | none => s
      else s
    | none => s)

/-! ### Completion (R379, R407) -/

/-- Every team of a launch has exited. -/
def launchDone (l : Launch) : Bool := !l.done && l.allPlaced && decide (recTeams l.record ≤ l.exits)

/-- LAUNCH_COMPLETE (R379, R407): with every team exited and their stores performed, the colophon and the event record are
written. -/
def execLaunchComplete (launch : Nat) (s : State) : Host.Outcome State Fault Refusal :=
  .next (match s.launch launch with
    | none => s
    | some l =>
      if !launchDone l then s
      else
        let colo := fieldAt l.record 24 8
        let (held, s) := if colo = 0 then (false, s) else devHeld s l.ctx [(colo + 48, 16)]
        if held then s else
        let cores := ((s.teams.filter (fun p => p.2.launch == launch)).map (fun p => p.2.core)).dedup
        let s := cores.foldl (fun s c => waitRelease s c 3) s
        let s := s.setLaunch launch { l with done := true }
        let s := if colo = 0 then s
          else devWrite s l.ctx (colo + 48) (natToBytes 8 (s.now - l.start.getD s.now) ++ natToBytes 8 l.leave)
        if recFlag l.record 2 then
          pushEvent s l.ctx ⟨launchHandle (s.ctx l.ctx).ctxid 0 l.queue (l.index + 1), 2, 0, recTeams l.record, none⟩
        else s)

end Sys2Proof.Machine
end

