-- ==== Sys2Proof/Machine/Supervise.lean ====
section
/-! DEFINITION. Faults and their answers, traps between units, checkpoint, debug, time slices, spills and sampling
(R377, R381, R386 to R406, R421 to R425). -/

namespace Sys2Proof.Machine

/-! ### The fault queue (R38, R421, R422) -/

/-- Threads that wait for a fault. -/
def faultThreads (s : State) (key : Nat) : List (Nat × Thread) :=
  s.threads.filter (fun p => match p.2.why? with
    | some (.fault k _) | some (.fetch k) | some (.inkFault k _) => k == key
    | _ => false)

/-- Commands that wait for a fault. -/
def faultCmds (s : State) (key : Nat) : List Cmd :=
  s.cores.flatMap (fun p => (p.2.cmds.filter (fun q => q.2.fault == some key)).map (fun q => q.2))

/-- Group slots whose trap entry waits for a fault: core and slot key (R381). -/
def faultSlots (s : State) (key : Nat) : List (Nat × Nat) :=
  s.cores.flatMap (fun p => (p.2.slots.filter (fun q => q.2.wait == some key)).map (fun q => (p.1, q.1)))

/-- The core of the first waiting lane of a fault (R421): of the cores whose lanes have met it, the first on which one still waits. -/
def firstLane (s : State) (f : PageFault) : Option Nat :=
  f.lanes.find? (fun c => (faultThreads s f.key).any (fun p => p.2.core == c) || (faultSlots s f.key).any (fun p => p.1 == c))

/-- CORE of a fault record: that of the first waiting lane; 0xFF when no lane waits. -/
def faultCore (s : State) (f : PageFault) : Nat :=
  match firstLane s f with
  | some c => c % Config.coresPerDie
  | none => 0xFF

/-- The 64 bytes of a fault record. -/
def faultBytes (s : State) (ctx : Nat) (f : PageFault) (id : Nat) : List Byte :=
  let wait := (faultThreads s f.key).length + (faultCmds s f.key).length
    + (faultSlots s f.key).foldl (fun n p => n + ((entering s p.1 (p.2 / 32) (p.2 % 32)).length)) 0
  wordBytes 8 f.va ++ natToBytes 2 (s.ctx ctx).ctxid ++ natToBytes 1 f.kind ++ natToBytes 1 f.access
    ++ natToBytes 1 f.die ++ natToBytes 1 (faultCore s f) ++ natToBytes 2 0 ++ natToBytes 4 id ++ natToBytes 4 wait
    ++ wordBytes 8 s.cycle ++ natToBytes 32 0

/-- BASE and capacity of the fault queue and of the edit queue. -/
def pqBase (w : Word) : Nat := bitsOf w 51 12 * 2 ^ 12
def pqCap (w : Word) : Nat := 2 ^ (bitsOf w 3 0 + 4)

/-- A fault that waits to be posted, when the queue has room. -/
def faultToPost (s : State) (ctx : Nat) : Option PageFault :=
  let c := s.ctx ctx
  if ringRoom (bitsOf c.fqtail 31 0) (bitsOf c.fqhead 31 0) (pqCap c.fqcfg) then c.faults.find? (fun f => f.id.isNone)
  else none

/-- The port through which the device signals: 0, or 1 when port 0 is not trained (R421). -/
def msixPort (s : State) : Nat := if s.ports.contains 0 then 0 else 1

/-- FAULT_RECORD_POST (R421): the device writes a fault record, advances FQTAIL, and signals when the queue was empty. -/
def execFaultRecordPost (ctx : Nat) (s : State) : Host.Outcome State Fault Refusal :=
  .next (match faultToPost s ctx with
    | none => s
    | some f =>
      let c := s.ctx ctx
      let tail := bitsOf c.fqtail 31 0
      let id := if c.faultNo % 2 ^ 32 = 2 ^ 32 - 1 then 1 else c.faultNo % 2 ^ 32 + 1
      let s := hwWrite s (pqBase c.fqcfg + tail % pqCap c.fqcfg * 64) (faultBytes s ctx f id)
      let s := s.updCtx ctx (fun c => { c with
        fqtail := BitVec.ofNat 64 ((tail + 1) % 2 ^ 32), faultNo := id
        faults := c.faults.map (fun g => if g.key = f.key then { g with id := some id } else g) })
      if tail = bitsOf c.fqhead 31 0 then { s with msix := s.msix ++ [(msixPort s, 1 + ctx)] } else s)

/-- A waiting lane takes its PAGE trap. -/
def refuseThread (kind : Nat) (s : State) (p : Nat × Thread) : State :=
  match p.2.status with
  | .blocked b =>
    match b.why with
    | .fetch _ => raisePrecise s p.1 b.env.unit (pageTrap kind b.env.pc)
    | _ => raiseRefused s p.1 b kind
  | _ => s

/-- The queues of a context that wait for a fault. -/
def faultQueues (c : Ctx) (key : Nat) : List Nat := (c.lqWait.filter (fun p => p.2 == key)).map (fun p => p.1)

/-- Every waiting lane traps, every waiting command ends, a trap entry or a spill stops the context (R381), and a launch
queue refuses its record (R373). -/
def refuseFault (s : State) (ctx : Nat) (f : PageFault) : State :=
  let ts := faultThreads s f.key
  let cs := faultCmds s f.key
  let ss := faultSlots s f.key
  let sp := (s.cores.filter (fun p => p.2.spillWait == some f.key)).map (fun p => p.1)
  let qs := faultQueues (s.ctx ctx) f.key
  let s := closeFault s ctx f.key
  let s := ts.foldl (refuseThread f.kind) s
  let s := ((ts.map (fun p => (p.2.core, p.2.slot))).dedup).foldl (fun s p => takeTraps s p.1 ctx p.2) s
  let s := cs.foldl (fun s c => failCmd s c 1 f.kind c.faultVa) s
  let s := ss.foldl (fun s p => stopContext s ctx p.1 (p.2 % 32) 1 0) s
  let s := sp.foldl (fun s c => stopContext s ctx c 0 1 0) s
  qs.foldl (fun s q => refuseRecord s ctx (q / 2) (8 * (q % 2))) s

/-- The open fault of a number. -/
def openFaultOf (s : State) (ctx id : Nat) : Option PageFault := (s.ctx ctx).faults.find? (fun f => f.id == some id)

/-- FRESP_RESOLVE (R422): host resolves an open fault. -/
def execFrespResolve (ctx : Nat) (id : Nat) (s : State) : Host.Outcome State Fault Refusal :=
  .next (match openFaultOf s ctx id with
    | some f => byHost s (resolveFault s ctx f.key)
    | none => s)

/-- FRESP_REFUSE (R422): host refuses an open fault. -/
def execFrespRefuse (ctx : Nat) (id : Nat) (s : State) : Host.Outcome State Fault Refusal :=
  .next (match openFaultOf s ctx id with
    | some f => byHost s (refuseFault s ctx f)
    | none => s)

/-! ### Traps taken between units (R386, R388, R397, R405) -/

/-- A synchronous trap of a slot, or an entry that waited for host, can go on. -/
def trapDue (s : State) (core ctx slot : Nat) : Bool :=
  let si := slotInfo s core ctx slot
  if (entering s core ctx slot).isEmpty then
    (trapping s core ctx slot).any (fun p => p.2.handler || si.frame.isEmpty || p.2.why? != some .frame)
  else si.wait.isNone

/-- A team runs: its context is active, no swap is under way, and it is neither stopped nor halted. -/
def teamActive (s : State) (tm : Team) : Bool :=
  let c := s.core tm.core
  c.active == some tm.ctx && c.swapping == 0 && !(s.ctx tm.ctx).stopped && !tm.halted && !tm.exited

/-- Threads of a slot that take a pending TIMER now: outside a handler, with no CKPT and no WATCHDOG before it (R388, R397). -/
def timerThreads (s : State) (tm : Team) (slot : Nat) : List (Nat × Thread) :=
  if teamActive s tm && (slotInfo s tm.core tm.ctx slot).frame.isEmpty then
    (slotThreads s tm.core tm.ctx slot).filter (fun p => p.2.timerPend.isSome && p.2.status == .ready && p.2.unit.isNone
      && p.2.trap.isNone && p.2.ckptPend.isNone && !p.2.watchdog && !p.2.handler)
  else []

/-- The threads take TIMER. -/
def takeTimer (s : State) (tm : Team) (slot : Nat) (ps : List (Nat × Thread)) : State :=
  let s := ps.foldl (fun s p => s.setThread p.1 { p.2 with
    timerPend := none, trap := some ⟨causeTimer, 0, 0, p.2.timerPend.getD 0, 0, none, false⟩ }) s
  takeTraps s tm.core tm.ctx slot

/-- TRAP_ENTRY (R386, R405): threads of a slot that wait to take a trap at a boundary enter their handler; a debug
halt comes before a TIMER (R397). -/
def execTrapEntry (team : Nat) (slot : Nat) (s : State) : Host.Outcome State Fault Refusal :=
  .next (
    let tm := s.team team
    if trapDue s tm.core tm.ctx slot then takeTraps s tm.core tm.ctx slot
    else match timerThreads s tm slot with
      | [] => s
      | ps => (haltFirst s ps).getD (takeTimer s tm slot ps))

/-- GTIME of a running team has reached GTCMP. -/
def timerDue (s : State) (tm : Team) : Bool := teamActive s tm && decide (tm.gtcmp.toNat ≤ tm.gtime.toNat)

/-- The lowest group slot of a team that holds a live thread. -/
def lowestSlot (s : State) (team : Nat) : Option Nat :=
  let ss := ((s.threadsOf team).filter (fun p => p.2.live && p.2.status != .spawned)).map (fun p => p.2.slot)
  match ss with
  | [] => none
  | g :: gs => some (gs.foldl min g)

/-- TIMER (R405): GTIME reaches GTCMP, and TIMER stands pending in the threads of the team's lowest live slot. -/
def execTimer (team : Nat) (s : State) : Host.Outcome State Fault Refusal :=
  .next (
    let tm := s.team team
    if !timerDue s tm then s
    else match lowestSlot s team with
      | none => s
      | some g =>
        let s := (s.threadsOf team).foldl (fun s p =>
          if p.2.live && p.2.status != .spawned && p.2.slot == g then s.setThread p.1 { p.2 with timerPend := some tm.gtcmp } else s) s
        s.updTeam team (fun t => { t with gtcmp := BitVec.allOnes 64 }))

/-! ### Checkpoint (R322, R392, R398, R423) -/

/-- A thread stands where CKPT can take it: at a boundary, at no switch marker, and in no handler. -/
def ckptSettled (t : Thread) : Bool :=
  t.unit.isNone && t.trap.isNone && !t.handler && (match t.status with
    | .waking _ => false
    | .blocked b => !(b.why == .park || b.why == .parkFirst)
    | _ => true)

/-- CKPT is pending in a running team, no frame is busy, and every live thread stands where it can be taken. -/
def ckptDue (s : State) (team : Nat) : Bool :=
  let ts := (s.threadsOf team).filter (fun p => p.2.live)
  ts.any (fun p => p.2.ckptPend.isSome) && teamActive s (s.team team) && !framesBusy s team
    && ts.all (fun p => p.2.status == .spawned || ckptSettled p.2)

/-- What a blocked thread has taken part in is given up: its ticket is void, its arrivals are withdrawn (R138, R247, R392). -/
def withdraw (s : State) (key : Nat) (t : Thread) : State :=
  match t.status with
  | .blocked b =>
    let s := unclose s b
    match b.why with
    | .inkTicket _ tk blk _ | .inkOld _ tk blk _ => voidTicket s blk tk t.core key
    | .cbar id =>
      let k := cbarOf s t.team id
      setCbar s t.team id { k with arrived := k.arrived.filter (fun x => x != key) }
    | .coll => withdrawColl s t.team t.tid
    | _ => s
  | _ => s

/-- A thread is made ready to take CKPT: the instruction at which it is blocked stands in its replay queue, before the entries that were
not yet re-injected (R384, R387). -/
def Thread.toCkpt (t : Thread) : Thread :=
  { t with
    trap := some ⟨causeCkpt, 0, 0, BitVec.ofNat 64 (t.ckptPend.getD 1), 0, none, true⟩, ckptPend := none
    replay := blockedEntry t ++ t.replay, status := .ready, age := 0 }

/-- One class-1 command of the team (R322): a running matrix command stops, a queued one is cancelled and a tile command
that runs goes on. -/
def ckptCmd (s : State) (c : Cmd) : State :=
  let mx := c.op == .mma || c.op == .mmas
  if c.started then if mx then setCmd s { c with stop := some true } else s
  else
    let s := if mx && !c.retired then writeBlock s c none 2 else s
    recordClass (setCmd s { c with cancel := true }) c.core 1

/-- The team's class-1 commands, in issue order, each as those before it leave it. -/
def ckptCmds (s : State) (team : Nat) : State :=
  let core := (s.team team).core
  ((s.core core).cmds.map (fun p => p.1)).foldl (fun s k => match Tbl.get? (s.core core).cmds k with
    | some c => if c.team == team && c.cls == 1 && decide (c.status < 2) then ckptCmd s c else s
    | none => s) s

/-- CKPT strikes a team. -/
def takeCkpt (s : State) (team : Nat) : State :=
  let s := quireRelease s team 32
  let tm := s.team team
  let ts := (s.threadsOf team).filter (fun p => p.2.live && p.2.status != .spawned)
  let s := ts.foldl (fun s p => (withdraw s p.1 p.2).updThread p.1 Thread.toCkpt) s
  let s := s.updTeam team (fun t => { t with bars := t.bars.map (fun b => (b.1, { b.2 with arrived := [] })) })
  let s := ckptCmds s team
  let s := ((ts.map (fun p => p.2.slot)).dedup).foldl (fun s g => takeTraps s tm.core tm.ctx g) s
  { s with threads := s.threads.map (fun p =>
      if p.2.team == team then (p.1, { p.2 with ckptPend := none }) else p) }

/-- CKPT (R392, R398): quire memory is released, and every live thread of the team takes CKPT, in KEEP frames, unless the team
halts at the same boundary (R397). -/
def execCkpt (team : Nat) (s : State) : Host.Outcome State Fault Refusal :=
  .next (if ckptDue s team then (haltFirst s (s.threadsOf team)).getD (takeCkpt s team) else s)

/-- The teams of the launch that TEAMSEL names, or of a node, whose ordinal is `n` (R423). -/
def namedTeam (s : State) (ctx : Nat) (node : Bool) (queue rec n : Nat) : Option Nat :=
  let mine (l : Launch) : Bool := l.ctx == ctx && (if node then l.node == some (rec % 2 ^ 16)
    else l.node.isNone && l.queue == queue && l.index % 2 ^ 32 == rec)
  ((s.teams.filter (fun p => p.2.ctx == ctx && !p.2.exited && p.2.ordinal == n
    && (s.launch p.2.launch).any mine)).getLast?).map (fun p => p.1)

/-- The team that TEAMSEL and a TEAM field name. -/
def selectedTeam (s : State) (ctx n : Nat) : Option Nat :=
  let w := (s.ctx ctx).teamsel
  namedTeam s ctx (bitAt w 40) (bitsOf w 36 32) (bitsOf w 31 0) n

/-- The teams a request names: one, or every placed team of the context. -/
def requestTeams (s : State) (ctx : Nat) (all : Bool) (n : Nat) : List Nat :=
  if all then (s.teamsOf ctx).map (fun p => p.1) else (selectedTeam s ctx n).toList

/-- A request that names no placed team is dropped with an event record (R423). -/
def dropRequest (s : State) (ctx n : Nat) : State :=
  let c := s.ctx ctx
  let w := c.teamsel
  let h := if bitAt w 40 then launchHandle c.ctxid 1 0 (bitsOf w 15 0 + 1)
    else launchHandle c.ctxid 0 (bitsOf w 36 32) (bitsOf w 31 0 + 1)
  pushEvent s ctx ⟨h, 4, 4, n, none⟩

/-- A write of CKREQ (R423). -/
def ckreqWrite (s : State) (ctx : Nat) (v : Word) : State :=
  let n := bitsOf v 31 0
  let s := s.updCtx ctx (fun c => { c with ckreq := BitVec.ofNat 64 n })
  if !bitAt v 63 then s
  else
    match requestTeams s ctx (bitAt v 62) n with
    | [] => if bitAt v 62 then s else dropRequest s ctx n
    | us => us.foldl (fun s u => raiseCkpt s u 1) s

/-- CKREQ (R423): host requests a checkpoint of a named team or of every placed team. -/
def execCkreq (ctx : Nat) (v : Word) (s : State) : Host.Outcome State Fault Refusal :=
  .next (byHost s (ckreqWrite s ctx v))

/-! ### Debug halts (R402, R424) -/

/-- The edit queue is empty. -/
def editsEmpty (c : Ctx) : Bool := bitsOf c.edqtail 31 0 == bitsOf c.edqhead 31 0

/-- Teams that are to resume do so once their halt is complete and the edit queue is empty. -/
def tryResume (s : State) (ctx : Nat) : State :=
  if editsEmpty (s.ctx ctx) then
    { s with teams := s.teams.map (fun p =>
        if p.2.ctx == ctx && p.2.resume && p.2.haltReason.isNone then (p.1, { p.2 with halted := false, resume := false }) else p) }
  else s

/-- A host halt (R402): the threads of the team are blocked by it (R161). -/
def hostHalt (s : State) (team : Nat) : State := haltTeam s team 0

/-- A write of HALTREQ (R424). -/
def haltreqWrite (s : State) (ctx : Nat) (v : Word) : State :=
  let halt := bitAt v 63
  let go := bitAt v 62
  if !bitAt (s.ctx ctx).dbgctl 3 || (halt && go) then s
  else
    let n := bitsOf v 31 0
    let us := requestTeams s ctx (bitAt v 61) n
    let s := s.updCtx ctx (fun c => { c with haltreq := BitVec.ofNat 64 n })
    if halt then us.foldl hostHalt s
    else if go then
      tryResume (us.foldl (fun s u => s.updTeam u (fun t => if t.halted then { t with resume := true } else t)) s) ctx
    else s

/-- HALT (R402, R424): a write of HALTREQ that halts. -/
def execHalt (ctx : Nat) (v : Word) (s : State) : Host.Outcome State Fault Refusal :=
  .next (if bitAt v 63 then byHost s (haltreqWrite s ctx v) else s)

/-- RESUME (R424): a write of HALTREQ that resumes. -/
def execResume (ctx : Nat) (v : Word) (s : State) : Host.Outcome State Fault Refusal :=
  .next (if bitAt v 62 then byHost s (haltreqWrite s ctx v) else s)

/-- Teams of a context whose halt is complete and has no record yet. -/
def haltsToQueue (s : State) (ctx : Nat) : List (Nat × Nat) :=
  (s.teams.filter (fun p => p.2.ctx == ctx && !p.2.exited && haltComplete s p.1)).filterMap (fun p =>
    p.2.haltReason.map (fun r => (p.1, r)))

/-- BASE and capacity of the halt queue. -/
def hqBase (w : Word) : Nat := bitsOf w 51 8 * 2 ^ 8
def hqCap (w : Word) : Nat := 2 ^ bitsOf w 3 0

/-- The 256 bytes of a halt record (R402). -/
def haltBytes (s : State) (team reason : Nat) : List Byte :=
  let tm := s.team team
  let bars := (List.range 16).map (barOf s team)
  let cbars := (List.range 4).map (cbarOf s team)
  natToBytes 4 (s.ctx tm.ctx).ctxid ++ natToBytes 1 (dieOf tm.core) ++ natToBytes 1 (tm.core % Config.coresPerDie)
    ++ natToBytes 2 0 ++ natToBytes 4 tm.ordinal ++ natToBytes 1 reason ++ natToBytes 3 0 ++ wordBytes 8 s.cycle
    ++ natToBytes 8 0 ++ bars.flatMap (fun b => natToBytes 2 b.arrived.length)
    ++ bars.flatMap (fun b => natToBytes 4 b.phase.toNat)
    ++ cbars.flatMap (fun b => natToBytes 4 b.arrived.length ++ natToBytes 4 b.phase.toNat) ++ natToBytes 96 0

/-- The halt queue has room. -/
def haltRoom (c : Ctx) : Bool := ringRoom (bitsOf c.hqtail 31 0) (bitsOf c.hqhead 31 0) (hqCap c.hqcfg)

/-- The oldest halt record is written, when the queue has room. -/
def writeHalt (s : State) (ctx : Nat) : State :=
  let c := s.ctx ctx
  match c.halts with
  | [] => s
  | (team, reason) :: rest =>
    if !haltRoom c then s
    else
      let tail := bitsOf c.hqtail 31 0
      let s := hwWrite s (hqBase c.hqcfg + tail % hqCap c.hqcfg * 256) (haltBytes s team reason)
      s.updCtx ctx (fun c => { c with halts := rest, hqtail := BitVec.ofNat 64 ((tail + 1) % 2 ^ 32) })

/-- HALT_RECORD (R402, R424): halts that are complete queue their records, in order, and the oldest is written. -/
def execHaltRecord (ctx : Nat) (s : State) : Host.Outcome State Fault Refusal :=
  .next (
    let new := haltsToQueue s ctx
    let s := new.foldl (fun s p => s.updTeam p.1 (fun t => { t with haltReason := none })) s
    let s := s.updCtx ctx (fun c => { c with halts := c.halts ++ new })
    tryResume (writeHalt s ctx) ctx)

/-! ### The debug right, breakpoints and edits (R399, R400, R403, R425) -/

/-- DEBUG_GRANT (R424): host grants the debug right. -/
def execDebugGrant (ctx : Nat) (s : State) : Host.Outcome State Fault Refusal :=
  .next (byHost s (s.updCtx ctx (fun c => { c with dbgctl := setBits c.dbgctl 3 3 1 })))

/-- The debug right is revoked (R403). -/
def revoke (s : State) (ctx : Nat) : State :=
  let c := s.ctx ctx
  let s : State := { s with teams := s.teams.map (fun p =>
    if p.2.ctx == ctx then (p.1, { p.2 with halted := false, resume := false, haltReason := none }) else p) }
  let w := setBits c.dbgctl 3 3 0
  let s := s.updCtx ctx (fun c => { c with
    edqhead := c.edqtail, bp := [], wp := [], edited := false
    dbgctl := if c.edited then setBits w 7 7 1 else w })
  pushEvent s ctx ⟨handleWord c.ctxid 0 3 0 0, 2, 0, 0, none⟩

/-- DEBUG_REVOKE (R403): host revokes the debug right. -/
def execDebugRevoke (ctx : Nat) (s : State) : Host.Outcome State Fault Refusal :=
  .next (if bitAt (s.ctx ctx).dbgctl 3 then byHost s (revoke s ctx) else s)

/-- The class that a slot of a nib would issue, when its threads are to meet a breakpoint. -/
def breakChoice (s : State) (core nib : Nat) : Option (Choice × Nat) :=
  match pick s core nib with
  | none => none
  | some c => if (breakThreads s c).isEmpty then none else (breakAt s c.ctx c.pc).map (fun i => (c, i))

/-- BREAKPOINT_MATCH (R400): the class that a slot issues meets a breakpoint at the first word of its unit. -/
def execBreakpointMatch (team : Nat) (slot : Nat) (s : State) : Host.Outcome State Fault Refusal :=
  .next (
    let core := (s.team team).core
    match breakChoice s core (slot % 8) with
    | some (c, i) =>
      if c.team = team && c.slot = slot then meetBreak (notePick (useSlot s core (slot % 8) []) core (slot % 8) c) c i (breakThreads s c)
      else s
    | none => s)

/-- A PC edit of a thread (R425). A blocked instruction that goes past its unit leaves the PC there; a form that sets the PC itself,
or stays at its unit until it completes, still does so (DEDUCED, log entry 60). -/
def Thread.editPc (t : Thread) (v : Word) : Thread :=
  let past (b : Blocked) : Blocked := if holdsPc b.instr then b else { b with env := { b.env with npc := v } }
  { t with pc := v, stepOver := t.stepOver && t.pc == v
           status := match t.status with | .blocked b => .blocked (past b) | .waking b => .waking (past b) | st => st }

/-- A PC edit of a team's thread: one in quire memory has its target in its record (R167). -/
def editSpawn (tm : Team) (tid : Nat) (v : Word) : Team :=
  { tm with spawns := tm.spawns.map (fun r => if r.tid = tid then { r with pc := v } else r) }

/-- An edit of a thread (R425), or none when it is invalid. -/
def editThread (s : State) (t : Thread) (kind idx : Nat) (v : Word) : Option Thread :=
  match kind with
  | 0 => if idx < (groupOf s t).allot then some (t.setV idx v) else none
  | 1 => if 1 ≤ idx ∧ idx < 8 then some (t.setM idx (v.setWidth 8)) else none
  | 2 => if v.toNat % 4 = 0 then some (t.editPc v) else none
  | 3 => some { t with fd := v.toNat % 2 ^ 16 }
  | 4 => some { t with csn := v.setWidth 32 }
  | 5 => some { t with fpctl := fpctlWrite v }
  | _ => none

/-- An edit of a halted team, or none when its record is invalid. -/
def editTeam (s : State) (team : Nat) (r : List Byte) : Option State :=
  let tm := s.team team
  let kind := fieldAt r 5 1
  let idx := fieldAt r 12 2
  let v := BitVec.ofNat 64 (fieldAt r 16 8)
  let off := fieldAt r 24 8
  if kind ≤ 5 then
    let tid := fieldAt r 6 2
    let k := threadKey team tid
    match s.thread? k with
    | some t =>
      if t.live then (editThread s t kind idx v).map (fun t =>
        let s := s.setThread k t
        if kind = 2 then s.setTeam team (editSpawn tm tid v) else s)
      else none
    | none => none
  else if kind = 6 then if idx < 64 then some (s.setTeam team (tm.setC idx v)) else none
  else if kind = 7 then if idx < 8 then some (s.setTeam team (tm.setQ idx v)) else none
  else if kind = 8 then
    if off % 8 = 0 ∧ off + 8 ≤ tm.scrSize then
      some (scratchWrite s (scratchKey (s.cid tm.ctx) tm.core (tm.scrBase + off)) (wordBytes 8 v))
    else none
  else if kind = 9 then
    if idx < tm.tiles ∧ off < 2 ^ 14 then some (accSet s (accKey team idx 0 off) (v.setWidth 32)) else none
  else none

/-- The next edit record: applied, or skipped with an event record; EDQHEAD advances. -/
def applyEdit (s : State) (ctx : Nat) : State :=
  let c := s.ctx ctx
  let i := bitsOf c.edqhead 31 0
  let (r, s) := hwRead s (pqBase c.edqcfg + i % pqCap c.edqcfg * 32) 32
  let sel := fieldAt r 4 1
  let team := namedTeam s ctx (sel / 32 % 2 == 1) (sel % 32) (fieldAt r 0 4) (fieldAt r 8 4)
  let done := match team with
    | some u => if (s.team u).halted && haltComplete s u then editTeam s u r else none
    | none => none
  let s := match done with
    | some s => s.updCtx ctx (fun c => { c with edited := true })
    | none => pushEvent s ctx ⟨handleWord c.ctxid 0 0 0 0, 4, 4, i, none⟩
  s.updCtx ctx (fun c => { c with edqhead := BitVec.ofNat 64 ((i + 1) % 2 ^ 32) })

/-- EDIT_APPLY (R425): the device takes the next edit record. -/
def execEditApply (ctx : Nat) (s : State) : Host.Outcome State Fault Refusal :=
  .next (if editsEmpty (s.ctx ctx) then s else tryResume (applyEdit s ctx) ctx)

/-! ### Time slices, swaps and spills (R377, R389 to R391) -/

/-- The priority of a team is that of its launch. -/
def teamPrio (s : State) (tm : Team) : Nat := match s.launch tm.launch with | some l => recPrio l.record | none => 0

/-- The slice in force on a core, in cycles: that of the highest priority among the active context's teams; 0 is no limit. -/
def sliceLimit (s : State) (core : Nat) : Nat :=
  match (s.core core).active with
  | none => 0
  | some ctx =>
    let p := (coreTeams s core ctx).foldl (fun n t => max n (teamPrio s t)) 0
    bitsOf (s.ctx ctx).slice (16 * p + 15) (16 * p) * 1024

/-- The active context's slice has run out. -/
def sliceDue (s : State) (core : Nat) : Bool :=
  let c := s.core core
  let n := sliceLimit s core
  n != 0 && decide (n ≤ c.slice) && !c.expired && c.swapping == 0

/-- SLICE_EXPIRY (R377): the active context's time slice expires. -/
def execSliceExpiry (core : Nat) (s : State) : Host.Outcome State Fault Refusal :=
  .next (if sliceDue s core then s.updCore core (fun c => { c with expired := true }) else s)

/-- A thread is ready in its bank, active or not (R161): nothing of its own holds it back, its wait or its park has ended, its next
replay entry can be re-injected (R387), or the trap that it is to take waits for nothing (R381). -/
def readyInBank (s : State) (t : Thread) : Bool :=
  (t.trap.isSome && trapDue s t.core t.ctx t.slot) || (match t.status with
    | .ready => unheld s t
    | .waking _ => t.trap.isNone
    | .reinject => t.trap.isNone && t.outs.isEmpty
    | .blocked b => t.trap.isNone && b.why == .parkFirst && parkOver s b
    | _ => false)

/-- The highest priority among the ready threads of a context on a core, plus one; 0 when it has none. -/
def readyPrio (s : State) (core ctx : Nat) : Nat :=
  if (s.ctx ctx).stopped then 0
  else (s.threads.filter (fun p => p.2.core == core && p.2.ctx == ctx && teamRuns s p.2 && readyInBank s p.2)).foldl
    (fun n p => max n (teamPrio s (s.team p.2.team) + 1)) 0

/-- A CKPT, a WATCHDOG or a TIMER of the active context is to be taken at a boundary first (R397). -/
def beforeSwap (s : State) (core ctx : Nat) : Bool :=
  s.threads.any (fun p => p.2.core == core && wdReady s p.2)
    || s.teams.any (fun p => p.2.core == core && p.2.ctx == ctx && !p.2.exited && (ckptDue s p.1 || timerDue s p.2
      || p.2.groups.any (fun g => !(timerThreads s p.2 g.slot).isEmpty)))

/-- A swap is due (R377): the shadow has ready threads of a higher priority, or the slice has expired and it has ready
threads; a halted team keeps its context active, and what ranks before a swap is taken first (R397). -/
def swapDue (s : State) (core : Nat) : Bool :=
  let c := s.core core
  match c.active, c.shadow with
  | some a, some b =>
    let p := readyPrio s core b
    p != 0 && (c.expired || decide (readyPrio s core a < p)) && c.swapping == 0
      && !((coreTeams s core a).any (fun t => t.halted)) && !beforeSwap s core a
  | _, _ => false

/-- A matrix command has an open partial sum, or holds leave, an index vector or operands that it has read: what a stop for a
swap closes or drops (R321). -/
def Cmd.opened (c : Cmd) : Bool := c.ks != c.at_ || c.leave.isSome || !c.idx.isEmpty || !c.cfg.isEmpty

/-- The running matrix command of a context, which must stop before a swap (R321). -/
def mxOpen (s : State) (core ctx : Nat) : Option Cmd :=
  ((s.core core).cmds.find? (fun p => p.2.cls == 1 && p.2.ctx == ctx && decide (p.2.status < 2) && p.2.started
    && (p.2.op == .mma || p.2.op == .mmas) && p.2.opened)).map (fun p => p.2)

/-- A Ligature command of a context runs (R368). -/
def ligBusy (s : State) (core ctx : Nat) : Bool :=
  (s.core core).cmds.any (fun p => p.2.cls == 3 && p.2.ctx == ctx && p.2.started && decide (p.2.status < 2))

/-- The banks are exchanged (R389). What the incoming context left in place needs no restoring, and what the outgoing one has
not restored needs no spill (R390); a thread of another core that waits for a block here looks again. The incoming context's
observed rounds are unknown, and its stalled lanes judge their minimum afresh (R146, R151). -/
def swapBanks (s : State) (core : Nat) : State :=
  let c := s.core core
  let blocks (x : Option Nat) : List Nat := match x with | some b => contextBlocks s core b | none => []
  let s := s.setCore core { c with
    active := c.shadow, shadow := c.active, slice := 0, expired := false, swapping := 96
    unrestored := (blocks c.shadow).filter (fun b => !(c.unspilled.contains b))
    unspilled := (blocks c.active).filter (fun b => !(c.unrestored.contains b)) }
  let s := s.wakeAll (fun t w => t.core != core && (match w with | .restore k _ => k == core | _ => false))
  match c.shadow with
  | some b => (forgetRounds s core b).wakeAll (fun t w => t.core == core && t.ctx == b && (match w with
      | .round .. => true
      | _ => false))
  | none => s

/-- CONTEXT_SWAP (R321, R389): a debug halt comes first (R397); then the core exchanges its banks, once the Ligature command of the
outgoing context has ended (R368) and its matrix command has stopped. -/
def execContextSwap (core : Nat) (s : State) : Host.Outcome State Fault Refusal :=
  .next (
    if !swapDue s core then s
    else match (s.core core).active with
      | none => s
      | some a =>
        match haltFirst s (s.threads.filter (fun p => p.2.core == core && p.2.ctx == a)) with
        | some s => s
        | none =>
          if ligBusy s core a then s
          else match mxOpen s core a with
            | some c => setCmd s { c with stop := some (c.stop == some true) }
            | none => swapBanks s core)

/-- The spill area of a core (R381): where the copy of a block goes, and where the registers of a context do (log entry 22:
the format is not architectural). -/
def spillVa (s : State) (core ctx block : Nat) : Nat :=
  (s.ctx ctx).savebase.toNat + 0x1400_0000 + core * 0x40_0000 + block * 4096
def registerVa (s : State) (core ctx : Nat) : Nat := spillVa s core ctx 512

/-- Bytes of free words: what a spill writes (log entries 5 and 22). -/
def freeBytes : Nat → State → List Byte × State
  | 0, s => ([], s)
  | n + 1, s =>
    let (w, s) := s.freeWord
    let (bs, s) := freeBytes n s
    (wordBytes 8 w ++ bs, s)

/-- A hardware write of `n` words to a context's spill area, and whether it was made: it waits for a fault offered to host, or
for a snap, and any other failure stops the context (R338, R381). The contents of a stopped context stay where they are. -/
def spillWrite (s : State) (core ctx va n : Nat) : Bool × State :=
  let hold (key : Nat) (s : State) : Bool × State := (false, s.updCore core (fun c => { c with spillWait := some key }))
  if (s.ctx ctx).stopped then (true, s)
  else
    match devRange s ctx true va (8 * n) with
    | (.error (.inkPage, _), s) => (false, stopContext s ctx core 0 1 0)
    | (.error (.page k bits, at_), s) =>
      if 8 ≤ k then (false, stopContext s ctx core 0 1 0)
      else
        let (key, s) := openFault s ctx (BitVec.ofNat 64 at_) k bits (accessByte true false false false false) core false
        hold key s
    | (.ok ps, s) =>
      match snapWait s ctx ps with
      | (some key, s) => hold key s
      | (none, s) =>
        let (bs, s) := freeBytes n s
        (true, devWrite s ctx va bs)

/-- The block of the active context that is to be restored next: the one demanded first, or else the lowest (R390). -/
def nextRestore (c : Core) : Option Nat :=
  match c.demands.find? (fun d => c.active == some d.1 && c.unrestored.contains d.2) with
  | some d => some d.2
  | none => c.unrestored.min?

/-- A block is in place: what waits for it, on whichever core, goes on, and a scratchpad block has its context for its last owner
(R59). -/
def restoreBlock (s : State) (core block : Nat) : State :=
  let c := s.core core
  let s := s.updCore core (fun c => { c with
    unrestored := c.unrestored.filter (fun b => b != block)
    demands := c.demands.filter (fun d => !(c.active == some d.1 && d.2 == block)) })
  let s := match c.active with
    | some a => if block < 256 then ownedBy core a block s else s
    | none => s
  s.wakeAll (fun _ w => w == .restore core block)

/-- A block of the outgoing context is written to its spill area. -/
def spillBlock (s : State) (core block : Nat) : Bool × State :=
  let done (s : State) : Bool × State :=
    (true, s.updCore core (fun c => { c with unspilled := c.unspilled.filter (fun b => b != block) }))
  match (s.core core).shadow with
  | none => done s
  | some out =>
    match spillWrite s core out (spillVa s core out block) 512 with
    | (true, s) => done s
    | r => r

/-- SPILL_RESTORE (R381, R390): the outgoing copy of a block is written, and then the block is restored, where its turn has come. -/
def execSpillRestore (core : Nat) (block : Nat) (s : State) : Host.Outcome State Fault Refusal :=
  .next (
    let c := s.core core
    if c.spillWait.isSome || c.swapping != 0 || (c.unrestored.contains block && nextRestore c != some block) then s
    else
      let (ok, s) := if c.unspilled.contains block then spillBlock s core block else (true, s)
      if ok && c.unrestored.contains block then restoreBlock s core block else s)

/-- A third context needs a bank of a core: one with teams there, or with a launch that finds no place (R391). -/
def thirdNeeds (s : State) (core : Nat) : Bool :=
  let c := s.core core
  let here (x : Nat) : Bool := c.active == some x || c.shadow == some x
  s.teams.any (fun p => p.2.core == core && !p.2.exited && !(here p.2.ctx))
    || s.launches.any (fun p => !(here p.2.ctx) && placeReady s p.1 p.2 && (placeAt s p.1 p.2 none).isNone)

/-- SHADOW_EVICT (R391): a third context needs the shadow bank: the registers of the shadow context's threads are written to its
spill area, and it is no longer resident on the core. -/
def execShadowEvict (core : Nat) (s : State) : Host.Outcome State Fault Refusal :=
  .next (
    let c := s.core core
    match c.shadow with
    | some ctx =>
      if c.swapping = 0 && c.unrestored.isEmpty && c.unspilled.isEmpty && c.spillWait.isNone && thirdNeeds s core then
        let n := (s.threads.filter (fun p => p.2.core == core && p.2.ctx == ctx && p.2.live)).length
        match spillWrite s core ctx (registerVa s core ctx) (128 * n) with
        | (true, s) => forgetRounds (s.updCore core (fun c => { c with shadow := none })) core ctx
        | (false, s) => s
      else s
    | none => s)

/-- CONTEXT_BECOMES_RESIDENT (R146, R391): a context with teams on the core comes back to its free shadow bank, where its groups
and registers fit (R8), with every observed round unknown. -/
def execContextBecomesResident (core : Nat) (ctx : Nat) (s : State) : Host.Outcome State Fault Refusal :=
  .next (
    let c := s.core core
    if c.shadow.isNone && c.active != some ctx && !(coreTeams s core ctx).isEmpty
        && ((coreUsed s core ctx).zip coreHas).all (fun p => decide (p.1 ≤ p.2)) then
      forgetRounds (s.updCore core (fun c => { c with shadow := some ctx, unspilled := [] })) core ctx
    else s)

/-! ### Stall sampling (R406) -/

/-- A command that a handle names, or that a waitc covers, waits for leave (R320). -/
def waitsLeave (s : State) (t : Thread) (w : Why) : Bool :=
  match w with
  | .waith h => match handleParts h with
    | some (core, k) => (match Tbl.get? (s.core core).cmds k with | some c => c.leave == some false | none => false)
    | none => false
  | .waitc 1 n => (coveredCmds s t.core t.team t.slot 1 n).any (fun c => decide (c.status < 2) && c.leave == some false)
  | _ => false

/-- The reason of a thread that is not ready. -/
def stallReason (s : State) (t : Thread) : Nat :=
  match t.status with
  | .blocked b | .waking b =>
    match b.why with
    | .park | .parkFirst | .outstanding => 2
    | .inkReq .. | .inkTicket .. | .inkOld .. | .watch .. => 4
    | .bar _ | .cbar _ => 5
    | .ringGive .. | .ringTake .. => 6
    | .waith h => if waitsLeave s t (.waith h) then 10 else 7
    | .waitc k n => if waitsLeave s t (.waitc k n) then 10 else 7
    | .ligDrain .. => (match b.instr with | .lgclr .. => 3 | _ => 7)
    | .holdCmds | .errors _ | .ligClosed .. | .palette _ => 7
    | .coll => 8
    | .fetch _ => 11
    | .sleep _ => 12
    | _ => 3
  | .yielding _ => 1
  | _ => 2

/-- The next resident group in round-robin order of group slot, from slot `n`. -/
def sampleSlot (s : State) (core ctx n : Nat) : Option Nat :=
  let gs := (List.range 32).filter (fun g => !(slotThreads s core ctx g).isEmpty)
  match gs.find? (fun g => decide (n ≤ g)) with
  | some g => some g
  | none => gs.head?

/-- The reason of a group (R406). -/
def groupReason (s : State) (core ctx g : Nat) (t : Thread) : Nat :=
  let issued := (s.core core).issued
  let prio (k : Nat) : Nat := match slotThreads s core ctx k with | p :: _ => (groupOf s p.2).prio | [] => 0
  if issued.contains g then 0
  else if (slotThreads s core ctx g).any (fun p => isReady s p.2) then
    if issued.any (fun k => k % 8 == g % 8 && decide (prio g < prio k)) then 9 else 1
  else stallReason s t

/-- The 32 bytes of a sample. -/
def sampleBytes (s : State) (core g : Nat) (t : Thread) : List Byte :=
  wordBytes 8 s.cycle ++ wordBytes 8 t.pc ++ natToBytes 4 (s.team t.team).ordinal ++ natToBytes 1 (dieOf core)
    ++ natToBytes 1 (core % Config.coresPerDie) ++ natToBytes 1 g ++ natToBytes 1 (groupReason s core t.ctx g t) ++ natToBytes 8 0

/-- The lowest-indexed thread of a slot. -/
def lowestThread (ps : List (Nat × Thread)) : Option Thread :=
  ps.foldl (fun (m : Option Thread) p => match m with
    | some x => if p.2.tid < x.tid then some p.2 else some x
    | none => some p.2) none

/-- What a record is written to: the record and TAIL, or DROPPED where there is no room; nothing where the buffer's header
cannot be read. -/
def sampleWrites (s : State) (ctx : Nat) (bs : List Byte) : List (Nat × List Byte) × State :=
  let w := (s.ctx ctx).sampbuf
  let base := bitsOf w 55 12 * 2 ^ 12
  let cap := 2 ^ (bitsOf w 3 0 + 5)
  match devRead s ctx base 24 with
  | (.ok h, s) =>
    let tail := fieldAt h 0 8
    (if (tail + 2 ^ 64 - fieldAt h 8 8) % 2 ^ 64 < cap then
        [(base + 64 + tail % cap * 32, bs), (base, natToBytes 8 ((tail + 1) % 2 ^ 64))]
      else [(base + 16, natToBytes 8 ((fieldAt h 16 8 + 1) % 2 ^ 64))], s)
  | (.error _, s) => ([], s)

/-- A core's sampling period of its active context has passed. -/
def sampleDue (s : State) (core : Nat) : Bool :=
  let c := s.core core
  match c.active with
  | some ctx => bitAt (s.ctx ctx).sampcfg 0 && decide (bitsOf (s.ctx ctx).sampcfg 39 8 ≤ Tbl.getD c.sampCount ctx 0)
  | none => false

/-- SAMPLE_RECORD (R406): a core writes one record every PERIOD cycles, for its next resident group. -/
def execSampleRecord (core : Nat) (s : State) : Host.Outcome State Fault Refusal :=
  .next (
    let c := s.core core
    match c.active with
    | none => s
    | some ctx =>
      if !sampleDue s core then s
      else
        let last := s.setCore core { c with sampCount := Tbl.set c.sampCount ctx 0 }
        match sampleSlot s core ctx (Tbl.getD c.sampLast ctx 0) with
        | none => last
        | some g =>
          match lowestThread (slotThreads s core ctx g) with
          | none => last
          | some t =>
            let (ws, s) := sampleWrites s ctx (sampleBytes s core g t)
            let (held, s) := devHeld s ctx (ws.map (fun p => (p.1, p.2.length)))
            if held then s
            else ws.foldl (fun s p => devWrite s ctx p.1 p.2)
              (s.updCore core (fun c => { c with
                sampCount := Tbl.set c.sampCount ctx 0, sampLast := Tbl.set c.sampLast ctx (g + 1) })))

end Sys2Proof.Machine
end

