-- ==== Sys2Proof/Machine/HostEvents.lean ====
section
/-! DEFINITION. Host, peers, reset, bring-up and the readback window (R409 to R427). -/

namespace Sys2Proof.Machine

/-! ### Host and peer accesses (R410 to R414) -/

/-- Device and host memory that a host access reaches. -/
def hostReaches (pa n : Nat) : Bool :=
  match homeOf pa, homeOf (pa + n - 1) with
  | .hbm _, .hbm _ | .hbm _, .tier2 | .tier2, .tier2 | .host, .host => true
  | _, _ => false

/-- An answer to a read from outside. -/
def answer (s : State) (r : HostRead) (bs : List Byte) : State := { s with hostReads := s.hostReads ++ [(r, bs)] }

/-- HOST_MEM_READ (R411): a host read is performed at its home. -/
def execHostMemRead (pa : Nat) (len : Nat) (s : State) : Host.Outcome State Fault Refusal :=
  .next (if 0 < len && hostReaches pa len then byHost s (answer s (.mem pa) (physRead s pa len)) else s)

/-- HOST_MEM_WRITE (R411, R140): a host write is performed at its home; it takes no ink and advances no round. -/
def execHostMemWrite (pa : Nat) (bytes : List Byte) (s : State) : Host.Outcome State Fault Refusal :=
  .next (if !bytes.isEmpty && hostReaches pa bytes.length then byHost s (physWrite s pa bytes) else s)

/-- The die and Well offset that the aperture shows at a window offset (R419). -/
def apertureAt (s : State) (off : Nat) : Nat × Nat :=
  (bitsOf s.winsel 7 5, bitsOf s.winsel 2 0 * 0x100_0000 + off / 8 * 8 % 0x100_0000)

/-- A 64-bit access of the aperture; beyond the Well it reads zero and writes nothing. A way that is not filled yet is filled
before a write, and reads as the zeros that its fill gives it, for a read changes no state (R77, R408). A bucket head that a link
holds takes no access until the link's block is written (R359; log entry 1). -/
def apertureAccess (s : State) (off : Nat) (wr : Bool) (v : Word) : State :=
  let (d, o) := apertureAt s off
  if headHeld s (wellKey d o) 8 noCmd then s
  else if wr then
    let s := if wellFilling s o then carveDone s else s
    if o + 8 ≤ wellSize s then wellWrite s d o (wordBytes 8 v) else s
  else answer s (.window (0x300_0000 + off % 0x100_0000))
    (if decide (o + 8 ≤ wellSize s) && !(wellFilling s o) then wellRead s d o 8 else natToBytes 8 0)

/-- WELL_APERTURE_ACCESS (R411, R419): a host access at an offset of the aperture is performed at the bank that WINSEL
selects. -/
def execWellApertureAccess (off : Nat) (wr : Bool) (v : Word) (s : State) : Host.Outcome State Fault Refusal :=
  .next (byHost s (apertureAccess s off wr v))

/-- A peer reaches the module once its links are up, the last step of bring-up (R427). -/
def peerCan (s : State) : Bool := s.steps.getLsbD 6

/-- PEER_REQUEST (R413, R414): a request for peer 0 to 255 is forwarded and touches nothing here; any other number names this
module, whose home performs it, and an address beyond its memory faults at the sender. -/
def execPeerRequest (peer : Nat) (pa : Nat) (wr : Bool) (v : Word) (s : State) : Host.Outcome State Fault Refusal :=
  .next (
    let a := pa / 8 * 8
    if peer < 256 || 0x600_0000_0000 ≤ a || !peerCan s then s
    else if wr then physWrite s a (wordBytes 8 v) else answer s (.peer a) (physRead s a 8))

/-- Peers whose route starts with a link. -/
def routesOf (s : State) (link : Nat) : List Nat :=
  (s.peerrt.filter (fun p => p.2.getLsbD 4 && p.2.toNat % 16 == link && !s.routesDown.contains p.1)).map (fun p => p.1)

/-- A line is homed at one of these peers. -/
def lineOfPeer (ps : List Nat) (pline : Nat) : Bool :=
  match homeOf (pline * 128) with | .peer p => ps.contains p | _ => false

/-- A reply that was lost with its link: every byte is poisoned. -/
def lostReply : Reply := ⟨List.replicate 128 0, [0, 1], 0, 0, 0⟩

/-- A link goes down (R415): stores on its routes are dropped, loads come back poisoned and their lanes raise ECC, and a
module event is queued. -/
def linkDown (s : State) (link : Nat) : State :=
  let ps := routesOf s link
  let gone := s.flights.filter (fun f => lineOfPeer ps f.pline)
  let hit (e : Entry) : Bool := lineOfPeer ps e.pline
  let lost := s.cores.flatMap (fun p => p.2.coll.flatMap (fun e => if hit e then e.loads else []))
  let s : State := { s with
    routesDown := s.routesDown ++ ps
    flights := s.flights.filter (fun f => !(lineOfPeer ps f.pline))
    mevents := s.mevents ++ [⟨0, 4, 1, 0, none⟩]
    cores := s.cores.map (fun p => (p.1, { p.2 with
      coll := p.2.coll.filter (fun e => !(hit e))
      dropped := p.2.dropped || gone.any (fun f => f.core == p.1) || p.2.coll.any (fun e => hit e && !e.stores.isEmpty) })) }
  lost.foldl (fun s w => arriveAt s lostReply { w with seen := [] }) s

/-- LINK_DOWN (R415): a link goes down. -/
def execLinkDown (link : Nat) (s : State) : Host.Outcome State Fault Refusal :=
  .next (linkDown s link)

/-! ### Reset and bring-up (R426, R427) -/

/-- Memory that is no part of the module keeps its bytes. -/
def outsideMemory (m : Memory) : Memory :=
  m.filter (fun c => match homeOf c.1 with | .host | .peer _ => true | _ => false)

/-- A module reset: every register and structure at its reset value. It is the one event of the model that clears
DBGCTL.EDITED: R12 has an RS field sticky until "context reset", and the spec calls no event so (DESIGN CHOICE, log
entry 25). What arrives from outside next, what was answered and
the numbers of objects and free values are not the module's. -/
def moduleReset (s : State) : State :=
  { State.reset with
    phys := outsideMemory s.phys, inbox := s.inbox, hostReads := s.hostReads, msix := s.msix, uid := s.uid, free := s.free }

/-- MODULE_RESET (R426). -/
def execModuleReset (s : State) : Host.Outcome State Fault Refusal :=
  .next (moduleReset s)

/-- BRING_UP (R427): the steps complete in order; `fail` names the step that fails, 0 none, and `code` its code. Step 6 trains
both host ports (DESIGN CHOICE, log entry 55). -/
def execBringUp (fail : Nat) (code : BitVec 8) (s : State) : Host.Outcome State Fault Refusal :=
  .next (if 1 ≤ fail ∧ fail ≤ 7 then { s with
      steps := BitVec.ofNat 7 (2 ^ (fail - 1) - 1), failCode := code, ports := if fail = 7 then [0, 1] else [] }
    else { s with steps := 127, failCode := 0, ports := [0, 1] })

/-- A host port trains, once the ports may enumerate, or goes down (R409, R427). -/
def portMove (s : State) (p : Nat) (up : Bool) : State :=
  if up then if s.steps.getLsbD 4 && decide (p < 2) && !s.ports.contains p then { s with ports := s.ports ++ [p] } else s
  else { s with ports := s.ports.filter (fun q => q != p) }

/-! ### Registers of the window (R12, R370, R377, R380, R400, R417 to R425) -/

/-- A SIZE in bits [7:4] above 12 stores 12 (R370). -/
def lqcfgWrite (x : Word) : Word :=
  let x := x &&& (onesAt 55 12 ||| onesAt 7 3)
  if 12 < bitsOf x 7 4 then setBits x 7 4 12 else x

/-- The module block (R419). -/
def moduleWrite (s : State) (o : Nat) (v : Word) : State :=
  if o = 0x08 then { s with winsel := v &&& (onesAt 7 5 ||| onesAt 2 0) }
  else if o = 0x10 then { s with gangage := v &&& onesAt 31 0 }
  else if o = 0x18 then { s with mevqbase := capSize (v &&& (onesAt 55 12 ||| onesAt 3 0)) 12 }
  else if 0x1000 ≤ o ∧ o < 0x1800 then
    let p := (o - 0x1000) / 8
    { s with peerrt := Tbl.put 0 s.peerrt p (v.setWidth 5), routesDown := s.routesDown.filter (fun q => q != p) }
  else s

/-- The context of a slot ends when host gives the slot another CTXID (DEDUCED, log entry 43): its nodes are registered no more
(R378), what a core or a die keeps of it by slot is forgotten, and a reply on its way fills no line. The slot's head-sets (their
configuration, GEN, projection and statistics) are kept (DESIGN CHOICE, log entry 43). -/
def endContext (s : State) (ctx : Nat) : State :=
  let s := s.updCtx ctx (fun c => { c with nodes := [] })
  { s with
    cores := s.cores.map (fun p => (p.1, { p.2 with
      observed := p.2.observed.filter (fun o => o.1 / 1024 != ctx)
      wakes := p.2.wakes.filter (fun w => w.1 != ctx)
      sampLast := Tbl.erase p.2.sampLast ctx, sampCount := Tbl.erase p.2.sampCount ctx
      coll := p.2.coll.map (fun e => if e.ctx == ctx then { e with fill := false } else e) }))
    diesT := s.diesT.map (fun p => (p.1, { p.2 with beacons := p.2.beacons.filter (fun b => b.1 != ctx) })) }

/-- A write of CTXID. -/
def ctxidWrite (s : State) (ctx : Nat) (v : Word) : State :=
  if bitsOf v 15 0 = s.cid ctx then s
  else (endContext s ctx).updCtx ctx (fun c => { c with ctxid := bitsOf v 15 0 })

/-- CTXID and ROOT keep their values while a queue of the slot is served or a team is placed (R420). -/
def slotInUse (s : State) (ctx : Nat) : Bool :=
  (List.range 32).any (fun q => bitAt (lqReg (s.ctx ctx) q 0) 3) || !(s.teamsOf ctx).isEmpty

/-- The debug block (R400, R424, R425). -/
def debugWrite (s : State) (ctx o : Nat) (v : Word) : State :=
  let upd (f : Ctx → Ctx) : State := s.updCtx ctx f
  match o with
  | 0x000 =>
    if bitAt v 1 then if bitAt (s.ctx ctx).dbgctl 3 then revoke s ctx else s
    else if bitAt v 0 then upd (fun c => { c with dbgctl := setBits c.dbgctl 3 3 1 }) else s
  | 0x008 => haltreqWrite s ctx v
  | 0x010 => upd (fun c => { c with hqcfg := capSize (v &&& (onesAt 51 8 ||| onesAt 3 0)) 12 })
  | 0x020 => upd (fun c => { c with hqhead := v &&& onesAt 31 0 })
  | 0x028 => upd (fun c => { c with edqcfg := capSize (v &&& (onesAt 51 12 ||| onesAt 3 0)) 12 })
  | 0x030 => upd (fun c =>
      if (bitsOf v 31 0 + 2 ^ 32 - bitsOf c.edqhead 31 0) % 2 ^ 32 ≤ pqCap c.edqcfg then { c with edqtail := v &&& onesAt 31 0 }
      else c)
  | _ =>
    if 0x40 ≤ o ∧ o < 0x80 then upd (fun c => { c with bp := Tbl.put 0 c.bp ((o - 0x40) / 8) (v &&& (onesAt 55 2 ||| 1)) })
    else if 0x80 ≤ o ∧ o < 0xA0 then
      upd (fun c => { c with wp := Tbl.put 0 c.wp ((o - 0x80) / 8) (v &&& (onesAt 63 62 ||| onesAt 55 6)) })
    else if 0xA0 ≤ o ∧ o < 0xC0 then upd (fun c => { c with wl := Tbl.put 0 c.wl ((o - 0xA0) / 8) (v &&& onesAt 63 6) })
    else s

/-- A write of FRESP (R422). -/
def frespWrite (s : State) (ctx : Nat) (v : Word) : State :=
  if !bitAt v 63 then s
  else match openFaultOf s ctx (bitsOf v 31 0) with
    | none => s
    | some f => if bitAt v 32 then refuseFault s ctx f else resolveFault s ctx f.key

/-- A context block (R420 to R425). -/
def contextWrite (s : State) (ctx o : Nat) (v : Word) : State :=
  let upd (f : Ctx → Ctx) : State := s.updCtx ctx f
  match o with
  | 0x0000 => if slotInUse s ctx then s else ctxidWrite s ctx v
  | 0x0008 => if slotInUse s ctx then s else upd (fun c => { c with root := v &&& onesAt 51 20 })
  | 0x2000 => upd (fun c => { c with slice := v })
  | 0x2008 => upd (fun c => { c with bgshare := v &&& onesAt 3 0 })
  | 0x2010 => upd (fun c => { c with sdva := v &&& onesAt 55 16 })
  | 0x2018 => sdctlWrite s ctx v
  | 0x2020 => upd (fun c => { c with teamsel := v &&& (onesAt 40 40 ||| onesAt 36 0) })
  | 0x2028 => ckreqWrite s ctx v
  | 0x2030 => upd (fun c => { c with fqcfg := capSize (v &&& (onesAt 51 12 ||| onesAt 3 0)) 12 })
  | 0x2040 => upd (fun c => { c with fqhead := v &&& onesAt 31 0 })
  | 0x2048 => frespWrite s ctx v
  | _ =>
    if 0x40 ≤ o ∧ o < 0x80 then
      upd (fun c => { c with wb := Tbl.put 0 c.wb ((o - 0x40) / 8) (v &&& (onesAt 59 38 ||| onesAt 27 6)) })
    else if 0x1000 ≤ o ∧ o < 0x1400 then
      let q := (o - 0x1000) / 32
      if o % 32 = 0 then upd (fun c => setLq c q 0 (lqcfgWrite v))
      else if o % 32 = 8 then lqtailWrite s ctx q v
      else s
    else if 0x8000 ≤ o then debugWrite s ctx (o - 0x8000) v
    else s

/-- LEAVECFG (R380): it stands at the start of its die's block (log entry 25). -/
def dieWrite (s : State) (die o : Nat) (v : Word) : State :=
  let g := bitsOf v 5 0
  if o = 0 then s.updDie die (fun d => { d with gmax := if g = 0 then 1 else min g 40 }) else s

/-- A 64-bit write of a window offset (R417). -/
def windowWrite (s : State) (off : Nat) (v : Word) : State :=
  if off % 8 ≠ 0 then s
  else if off < 0x10_0000 then moduleWrite s off v
  else if off < 0x110_0000 then contextWrite s (off / 0x10_0000 - 1) (off % 0x10_0000) v
  else if 0x200_0000 ≤ off ∧ off < 0x280_0000 then dieWrite s ((off - 0x200_0000) / 0x10_0000) (off % 0x10_0000) v
  else if 0x300_0000 ≤ off ∧ off < 0x400_0000 then apertureAccess s (off - 0x300_0000) true v
  else s

/-- REGISTER_WRITE (R12, R417): a host write of a window register stores its fields under their access codes; a register
with a behaviour of its own acts as its own row says. -/
def execRegisterWrite (off : Nat) (v : Word) (s : State) : Host.Outcome State Fault Refusal :=
  .next (byHost s (windowWrite s off v))

/-! ### Reads from outside (R3, R12, R14, R82, R404, R408, R417) -/

/-- The module block. -/
def moduleRead (s : State) (o : Nat) : Word :=
  match o with
  | 0x00 => BitVec.ofNat 64 (s.failCode.toNat * 2 ^ 24 + s.steps.toNat)
  | 0x08 => s.winsel
  | 0x10 => s.gangage
  | 0x18 => s.mevqbase
  | _ => if 0x1000 ≤ o ∧ o < 0x1800 then (Tbl.getD s.peerrt ((o - 0x1000) / 8) 0).setWidth 64 else 0

/-- DBGHOST (R424): copies of EDITED, HALTED and RIGHT; its WO bits read zero. -/
def dbghostRead (s : State) (ctx : Nat) : Word :=
  let w := (s.ctx ctx).dbgctl &&& (onesAt 7 7 ||| onesAt 3 3)
  if anyHalted s ctx then setBits w 4 4 1 else w

/-- The debug block (R400, R424, R425). -/
def debugRead (s : State) (ctx o : Nat) : Word :=
  let c := s.ctx ctx
  match o with
  | 0x000 => dbghostRead s ctx
  | 0x008 => c.haltreq
  | 0x010 => c.hqcfg
  | 0x018 => c.hqtail
  | 0x020 => c.hqhead
  | 0x028 => c.edqcfg
  | 0x030 => c.edqtail
  | 0x038 => c.edqhead
  | _ =>
    if 0x40 ≤ o ∧ o < 0x80 then Tbl.getD c.bp ((o - 0x40) / 8) 0
    else if 0x80 ≤ o ∧ o < 0xA0 then Tbl.getD c.wp ((o - 0x80) / 8) 0
    else if 0xA0 ≤ o ∧ o < 0xC0 then Tbl.getD c.wl ((o - 0xA0) / 8) 0
    else 0

/-- A context block (R420 to R425): a WO field and a reserved field read zero, since none is stored (R12, R14). -/
def contextRead (s : State) (ctx o : Nat) : Word :=
  let c := s.ctx ctx
  match o with
  | 0x0000 => BitVec.ofNat 64 c.ctxid
  | 0x0008 => c.root
  | 0x2000 => c.slice
  | 0x2008 => c.bgshare
  | 0x2010 => c.sdva
  | 0x2018 => c.sdctl
  | 0x2020 => c.teamsel
  | 0x2028 => c.ckreq
  | 0x2030 => c.fqcfg
  | 0x2038 => c.fqtail
  | 0x2040 => c.fqhead
  | _ =>
    if 0x40 ≤ o ∧ o < 0x80 then Tbl.getD c.wb ((o - 0x40) / 8) 0
    else if 0x1000 ≤ o ∧ o < 0x1400 then (if o % 32 = 24 then 0 else lqReg c ((o - 0x1000) / 32) (o % 32 / 8))
    else if 0x8000 ≤ o then debugRead s ctx (o - 0x8000)
    else 0

/-- LEAVECFG (R380). -/
def dieRead (s : State) (die o : Nat) : Word := if o = 0 then BitVec.ofNat 64 (s.die die).gmax else 0

/-- The word of a window offset outside the aperture; an offset that no block names reads zero (R417). -/
def windowRead (s : State) (off : Nat) : Word :=
  if off % 8 ≠ 0 then 0
  else if off < 0x10_0000 then moduleRead s off
  else if off < 0x110_0000 then contextRead s (off / 0x10_0000 - 1) (off % 0x10_0000)
  else if 0x200_0000 ≤ off ∧ off < 0x280_0000 then dieRead s ((off - 0x200_0000) / 0x10_0000) (off % 0x10_0000)
  else 0

/-- The state of a thread as a read shows it (DESIGN CHOICE, log entry 41). -/
def statusCode : Status → Word
  | .ready => 0
  | .yielding _ => 1
  | .blocked _ | .waking _ | .reinject => 2
  | .spawned => 3
  | .exited => 4

/-- What stands pending in a thread (R388, R392, R405), as a read shows it: TIMER in bit 0, CKPT in bit 1, WATCHDOG in bit 2, a trap to
take in bit 3 (DESIGN CHOICE, log entry 41). -/
def pendingWord (t : Thread) : Word :=
  let bit (n : Nat) (b : Bool) : Nat := if b then 2 ^ n else 0
  BitVec.ofNat 64 (bit 0 t.timerPend.isSome + bit 1 t.ckptPend.isSome + bit 2 t.watchdog + bit 3 t.trap.isSome)

/-- The ticket with which a thread waits for an ink, as a read shows it: bit 63 says that it has one, the ticket stands in the low half
(R121, R389; DESIGN CHOICE, log entry 41). -/
def ticketWord (t : Thread) : Word :=
  match t.why? with
  | some (.inkTicket _ tk _ _) | some (.inkOld _ tk _ _) => BitVec.ofNat 64 (2 ^ 63 + tk)
  | _ => 0

/-- A rendezvous under way, as a read shows it: its CSN in the low half, its home group in bits [47:32] and bit 63 set; or the home lanes
that have arrived in the low half and its mask above (R170, R389; DESIGN CHOICE, log entry 41). -/
def rendezvousWord (r : Rendezvous) (lanes : Bool) : Word :=
  if lanes then BitVec.ofNat 64 (r.mask.toNat * 2 ^ 32 + r.arrived.foldl (fun n tid => n + 2 ^ (tid % 32)) 0)
  else BitVec.ofNat 64 (2 ^ 63 + r.group * 2 ^ 32 + r.csn.toNat)

/-- A register of a thread or of its team, as the gloss port reads it (R404). -/
def glossRead (s : State) (team tid : Nat) (r : GlossReg) : Word :=
  let t := s.thread (threadKey team tid)
  let tm := s.team team
  match r with
  | .v n => t.getV n
  | .m n => (t.getM n).setWidth 64
  | .h n => t.getH n
  | .k n => t.getK n
  | .c n => tm.getC n
  | .q n => tm.getQ n
  | .pc => t.pc
  | .fd => BitVec.ofNat 64 t.fd
  | .csn => t.csn.setWidth 64
  | .tag => BitVec.ofNat 64 t.tag
  | .fpctl => t.fpctl
  | .fpf => t.fpf.setWidth 64
  | .mxf => tm.mxf.setWidth 64
  | .gtime => tm.gtime
  | .gtcmp => tm.gtcmp
  | .age => BitVec.ofNat 64 t.age
  | .appendOrd => BitVec.ofNat 64 t.appendOrd
  | .pending hi => t.pending.foldl (fun w r => if decide (64 ≤ r) == hi then w ||| BitVec.twoPow 64 (r % 64) else w) 0
  | .handler => if t.handler then 1 else 0
  | .status => statusCode t.status
  | .pends => pendingWord t
  | .ticket => ticketWord t
  | .waited => match t.status with | .blocked b | .waking b => BitVec.ofNat 64 b.waited | _ => 0

/-- The status that a handle names, as testh reads it; one whose status is no longer kept reads DONE (R330, R331). -/
def handleStatus (s : State) (h : Word) : Word :=
  match handleParts h with
  | none => BitVec.ofNat 64 stDone
  | some (core, k) =>
    match Tbl.get? (s.core core).cmds k with
    | some c => if c.forgotten s then BitVec.ofNat 64 stDone else statusWord c
    | none => BitVec.ofNat 64 stDone

/-- Arrivals of a barrier in the low half, its phase in the high half. -/
def barrierWord (b : Barrier) : Word := BitVec.ofNat 64 (b.phase.toNat * 2 ^ 32 + b.arrived.length)

/-- State of a ring stage, 0 free, 1 full, 2 taken, and its phase bit at bit 8. -/
def stageWord (x : Stage × Bool) : Word :=
  BitVec.ofNat 64 ((match x.1 with | .free => 0 | .full => 1 | .taken => 2) + (if x.2 then 256 else 0))

/-- The image of a palette record (R311): its header line and its scales; nothing where the team has no such record. -/
def palImage (s : State) (team id : Nat) : List Byte :=
  match palRec? s team id with
  | some p => natToBytes 1 p.fmt ++ natToBytes 1 p.blk ++ natToBytes 2 p.stride ++ natToBytes 2 p.rows ++ natToBytes 58 0 ++ p.scales
  | none => []

/-- The word that a read shows; it changes nothing (R408; the words without a field map in the spec: DESIGN CHOICE, log entry 41). -/
def readWord (s : State) (r : HostRead) : Word :=
  match r with
  | .mem pa => if hostReaches (pa / 8 * 8) 8 then bytesWord (physRead s (pa / 8 * 8) 8) else 0
  | .peer pa => bytesWord (physRead s (pa / 8 * 8) 8)
  | .window off => windowRead s off
  | .gloss team tid r => glossRead s team tid r
  | .errors die unit poisoned => BitVec.ofNat 64 (Tbl.getD (s.die die).errors (unit * 2 + (if poisoned then 1 else 0)) 0)
  | .well die off => bytesWord (wellRead s die (off / 8 * 8) 8)
  | .counter team slot cls => BitVec.ofNat 64 (Tbl.getD (s.team team).counters (slot * 4 + cls) 0)
  | .handle h => handleStatus s h
  | .round core ctx rgn => (observed s core ctx rgn).getD 0
  | .known core ctx rgn => if (observed s core ctx rgn).isSome then 1 else 0
  | .bar team id => barrierWord (Tbl.getD (s.team team).bars id ⟨[], 0⟩)
  | .cbar team id => barrierWord (cbarOf s team id)
  | .stage team ring stage => stageWord (Tbl.getD (s.team team).rings (ring * 16 + stage) (.free, false))
  | .node ctx node =>
    match Tbl.get? (s.ctx ctx).nodes node with
    | some n => BitVec.ofNat 64 (n.tail % 2 ^ 32 * 2 ^ 32 + n.head % 2 ^ 32)
    | none => 0
  | .scratch team off =>
    let tm := s.team team
    let o := off / 8 * 8
    if o + 8 ≤ tm.scrSize then bytesWord (scratchRead s (scratchKey (s.cid tm.ctx) tm.core (tm.scrBase + o)) 8) else 0
  | .acc team tile elem =>
    if tile < (s.team team).tiles ∧ elem < 2 ^ 14 then (accGet s (accKey team tile 0 elem)).setWidth 64 else 0
  | .margin team off =>
    if off / 8 * 8 + 8 ≤ (s.team team).margBytes then bytesWord (Memory.readN s.margin (marginKey team (off / 8 * 8)) 8) else 0
  | .palette team id => bytesWord ((palImage s team id).take 8)
  | .proj ctx off => bytesWord (Memory.readN (s.ctx ctx).proj (off / 8 * 8) 8)
  | .headCfg ctx set word => BitVec.ofNat 64 (fieldAt ((headSet s ctx set).cfg.getD []) (8 * word) 8)
  | .headGen ctx set =>
    let x := headSet s ctx set
    BitVec.ofNat 64 ((if x.closed then 2 ^ 63 else 0) + (if x.cfg.isSome then 2 ^ 62 else 0) + x.gen)
  | .headStat ctx set n => Tbl.getD (headSet s ctx set).stats n 0
  | .rendezvous team n lanes => match (s.team team).rendezvous[n]? with | some r => rendezvousWord r lanes | none => 0

/-- The bytes that a read shows: a 64-bit word, or a palette record's image. -/
def readBytes (s : State) (r : HostRead) : List Byte :=
  match r with
  | .palette team id => palImage s team id
  | _ => wordBytes 8 (readWord s r)

/-- A read from outside, single-copy atomic for its 64-bit word (R404, R408); the aperture is read at its bank. Host reads once it
reaches the module, a peer once its links are up, and the gloss port at any time (R427). -/
def hostRead (s : State) (r : HostRead) : State :=
  match r with
  | .window off =>
    byHost s (if 0x300_0000 ≤ off ∧ off < 0x400_0000 ∧ off % 8 = 0 then apertureAccess s (off - 0x300_0000) false 0
      else answer s r (readBytes s r))
  | .peer _ => if peerCan s then answer s r (readBytes s r) else s
  | .gloss .. => answer s r (readBytes s r)
  | _ => byHost s (answer s r (readBytes s r))

end Sys2Proof.Machine
end

