-- ==== Sys2Proof/Machine/Dispatch.lean ====
section
/-! DEFINITION. The meaning of each instruction and of each of the machine's own steps: one arm per constructor. -/

namespace Sys2Proof.Machine

def exec (i : Instr) (s : State) : Host.Outcome State Fault Refusal :=
  match i with
  | .br sw m p o => Sys2Proof.Machine.execBr sw m p o s
  | .brs sw m p o => Sys2Proof.Machine.execBrs sw m p o s
  | .jmp sw o => Sys2Proof.Machine.execJmp sw o s
  | .call sw o => Sys2Proof.Machine.execCall sw o s
  | .jmpr sw a => Sys2Proof.Machine.execJmpr sw a s
  | .callr sw a => Sys2Proof.Machine.execCallr sw a s
  | .ret sw => Sys2Proof.Machine.execRet sw s
  | .exit sw => Sys2Proof.Machine.execExit sw s
  | .trap sw b => Sys2Proof.Machine.execTrap sw b s
  | .rtt sw => Sys2Proof.Machine.execRtt sw s
  | .bkpt sw => Sys2Proof.Machine.execBkpt sw s
  | .bar sw n => Sys2Proof.Machine.execBar sw n s
  | .cbar sw n => Sys2Proof.Machine.execCbar sw n s
  | .sleep sw b => Sys2Proof.Machine.execSleep sw b s
  | .nop sw => Sys2Proof.Machine.execNop sw s
  | .mfs sw d r => Sys2Proof.Machine.execMfs sw d r s
  | .mts sw r b => Sys2Proof.Machine.execMts sw r b s
  | .rdfpf sw d => Sys2Proof.Machine.execRdfpf sw d s
  | .clfpf sw b => Sys2Proof.Machine.execClfpf sw b s
  | .add sw w d a b => Sys2Proof.Machine.execAdd sw w d a b s
  | .sub sw w d a b => Sys2Proof.Machine.execSub sw w d a b s
  | .addSat sw t d a b => Sys2Proof.Machine.execAddSat sw t d a b s
  | .subSat sw t d a b => Sys2Proof.Machine.execSubSat sw t d a b s
  | .mul sw w d a b => Sys2Proof.Machine.execMul sw w d a b s
  | .mad sw w d a b => Sys2Proof.Machine.execMad sw w d a b s
  | .mulh sw t d a b => Sys2Proof.Machine.execMulh sw t d a b s
  | .div sw t d a b => Sys2Proof.Machine.execDiv sw t d a b s
  | .rem sw t d a b => Sys2Proof.Machine.execRem sw t d a b s
  | .and sw d a b => Sys2Proof.Machine.execAnd sw d a b s
  | .or sw d a b => Sys2Proof.Machine.execOr sw d a b s
  | .xor sw d a b => Sys2Proof.Machine.execXor sw d a b s
  | .andn sw d a b => Sys2Proof.Machine.execAndn sw d a b s
  | .orn sw d a b => Sys2Proof.Machine.execOrn sw d a b s
  | .xnor sw d a b => Sys2Proof.Machine.execXnor sw d a b s
  | .not sw d b => Sys2Proof.Machine.execNot sw d b s
  | .mov sw d b => Sys2Proof.Machine.execMov sw d b s
  | .shl sw w d a b => Sys2Proof.Machine.execShl sw w d a b s
  | .shr sw w d a b => Sys2Proof.Machine.execShr sw w d a b s
  | .sar sw w d a b => Sys2Proof.Machine.execSar sw w d a b s
  | .rol sw w d a b => Sys2Proof.Machine.execRol sw w d a b s
  | .min sw t d a b => Sys2Proof.Machine.execMin sw t d a b s
  | .max sw t d a b => Sys2Proof.Machine.execMax sw t d a b s
  | .cmp sw t c m a b => Sys2Proof.Machine.execCmp sw t c m a b s
  | .abs sw d t b => Sys2Proof.Machine.execAbs sw d t b s
  | .neg sw d t b => Sys2Proof.Machine.execNeg sw d t b s
  | .clz sw d t b => Sys2Proof.Machine.execClz sw d t b s
  | .popc sw d t b => Sys2Proof.Machine.execPopc sw d t b s
  | .cvtInt sw d u y z b => Sys2Proof.Machine.execCvtInt sw d u y z b s
  | .sel sw m d a b => Sys2Proof.Machine.execSel sw m d a b s
  | .bfe sw d a b => Sys2Proof.Machine.execBfe sw d a b s
  | .bfeI sw d a b => Sys2Proof.Machine.execBfeI sw d a b s
  | .bfi sw d a b => Sys2Proof.Machine.execBfi sw d a b s
  | .setc sw c b => Sys2Proof.Machine.execSetc sw c b s
  | .movk sw d k => Sys2Proof.Machine.execMovk sw d k s
  | .movm sw d m => Sys2Proof.Machine.execMovm sw d m s
  | .setm sw m b => Sys2Proof.Machine.execSetm sw m b s
  | .movq sw d q => Sys2Proof.Machine.execMovq sw d q s
  | .setq sw q b => Sys2Proof.Machine.execSetq sw q b s
  | .shuf sw w d a b => Sys2Proof.Machine.execShuf sw w d a b s
  | .voteAny sw d b => Sys2Proof.Machine.execVoteAny sw d b s
  | .voteAll sw d b => Sys2Proof.Machine.execVoteAll sw d b s
  | .voteBallot sw d b => Sys2Proof.Machine.execVoteBallot sw d b s
  | .elect sw d => Sys2Proof.Machine.execElect sw d s
  | .matchAny sw d b => Sys2Proof.Machine.execMatchAny sw d b s
  | .redux sw d o e b => Sys2Proof.Machine.execRedux sw d o e b s
  | .scanIncl sw d o e b => Sys2Proof.Machine.execScanIncl sw d o e b s
  | .scanExcl sw d o e b => Sys2Proof.Machine.execScanExcl sw d o e b s
  | .pack6 sw d u f b => Sys2Proof.Machine.execPack6 sw d u f b s
  | .unpack6 sw d f b => Sys2Proof.Machine.execUnpack6 sw d f b s
  | .addF sw f d a b => Sys2Proof.Machine.execAddF sw f d a b s
  | .subF sw f d a b => Sys2Proof.Machine.execSubF sw f d a b s
  | .mulF sw f d a b => Sys2Proof.Machine.execMulF sw f d a b s
  | .scale sw f d a b => Sys2Proof.Machine.execScale sw f d a b s
  | .fma sw f d a b => Sys2Proof.Machine.execFma sw f d a b s
  | .fms sw f d a b => Sys2Proof.Machine.execFms sw f d a b s
  | .minF sw f d a b => Sys2Proof.Machine.execMinF sw f d a b s
  | .minnum sw f d a b => Sys2Proof.Machine.execMinnum sw f d a b s
  | .maxF sw f d a b => Sys2Proof.Machine.execMaxF sw f d a b s
  | .maxnum sw f d a b => Sys2Proof.Machine.execMaxnum sw f d a b s
  | .negF sw f d b => Sys2Proof.Machine.execNegF sw f d b s
  | .absF sw f d b => Sys2Proof.Machine.execAbsF sw f d b s
  | .fclass sw f d b => Sys2Proof.Machine.execFclass sw f d b s
  | .copysign sw f d a b => Sys2Proof.Machine.execCopysign sw f d a b s
  | .cmpF sw f c m a b => Sys2Proof.Machine.execCmpF sw f c m a b s
  | .fdot2 sw f d a b => Sys2Proof.Machine.execFdot2 sw f d a b s
  | .fdot4 sw f d a b => Sys2Proof.Machine.execFdot4 sw f d a b s
  | .rsum sw f d b => Sys2Proof.Machine.execRsum sw f d b s
  | .rmax sw f d b => Sys2Proof.Machine.execRmax sw f d b s
  | .rcp sw d f b => Sys2Proof.Machine.execRcp sw d f b s
  | .rsqrt sw d f b => Sys2Proof.Machine.execRsqrt sw d f b s
  | .sqrt sw d f b => Sys2Proof.Machine.execSqrt sw d f b s
  | .exp2 sw d f b => Sys2Proof.Machine.execExp2 sw d f b s
  | .log2 sw d f b => Sys2Proof.Machine.execLog2 sw d f b s
  | .tanh sw d f b => Sys2Proof.Machine.execTanh sw d f b s
  | .cvtFloatFloat sw d y z b => Sys2Proof.Machine.execCvtFloatFloat sw d y z b s
  | .cvtF32Binary8 sw d u f b => Sys2Proof.Machine.execCvtF32Binary8 sw d u f b s
  | .cvtF16Binary8 sw d u f b => Sys2Proof.Machine.execCvtF16Binary8 sw d u f b s
  | .cvtBf16Binary8 sw d u f b => Sys2Proof.Machine.execCvtBf16Binary8 sw d u f b s
  | .cvtBinary8F32 sw d f b => Sys2Proof.Machine.execCvtBinary8F32 sw d f b s
  | .cvtBinary8F16 sw d f b => Sys2Proof.Machine.execCvtBinary8F16 sw d f b s
  | .cvtBinary8Bf16 sw d f b => Sys2Proof.Machine.execCvtBinary8Bf16 sw d f b s
  | .cvtFloatInteger sw d y g h b => Sys2Proof.Machine.execCvtFloatInteger sw d y g h b s
  | .topk sw f d a b => Sys2Proof.Machine.execTopk sw f d a b s
  | .ld sw z d a o c p => Sys2Proof.Machine.execLd sw z d a o c p s
  | .st sw z d a o c p => Sys2Proof.Machine.execSt sw z d a o c p s
  | .ldb sw z d a o p => Sys2Proof.Machine.execLdb sw z d a o p s
  | .atom sw z d a o c p => Sys2Proof.Machine.execAtom sw z d a o c p s
  | .cas sw z d a o c => Sys2Proof.Machine.execCas sw z d a o c s
  | .wupd sw o e a b => Sys2Proof.Machine.execWupd sw o e a b s
  | .wred sw o e a b => Sys2Proof.Machine.execWred sw o e a b s
  | .fence sw k => Sys2Proof.Machine.execFence sw k s
  | .ink sw a b => Sys2Proof.Machine.execInk sw a b s
  | .inkq sw d a => Sys2Proof.Machine.execInkq sw d a s
  | .inkwait sw a b => Sys2Proof.Machine.execInkwait sw a b s
  | .inksig sw b => Sys2Proof.Machine.execInksig sw b s
  | .pref sw f a => Sys2Proof.Machine.execPref sw f a s
  | .ldround sw d b => Sys2Proof.Machine.execLdround sw d b s
  | .ldroundAcq sw d b => Sys2Proof.Machine.execLdroundAcq sw d b s
  | .round sw d b => Sys2Proof.Machine.execRound sw d b s
  | .cpy sw e h a => Sys2Proof.Machine.execCpy sw e h a s
  | .cpyt sw e h a => Sys2Proof.Machine.execCpyt sw e h a s
  | .snap sw e h a => Sys2Proof.Machine.execSnap sw e h a s
  | .gath sw e h a => Sys2Proof.Machine.execGath sw e h a s
  | .scatadd sw e h a => Sys2Proof.Machine.execScatadd sw e h a s
  | .waitc sw c b => Sys2Proof.Machine.execWaitc sw c b s
  | .waith sw h => Sys2Proof.Machine.execWaith sw h s
  | .testh sw d h => Sys2Proof.Machine.execTesth sw d h s
  | .cancelh sw h => Sys2Proof.Machine.execCancelh sw h s
  | .movhToV sw d h => Sys2Proof.Machine.execMovhToV sw d h s
  | .movhToH sw h b => Sys2Proof.Machine.execMovhToH sw h b s
  | .rgive sw r b => Sys2Proof.Machine.execRgive sw r b s
  | .rtake sw r b => Sys2Proof.Machine.execRtake sw r b s
  | .rfree sw r b => Sys2Proof.Machine.execRfree sw r b s
  | .emit sw a b => Sys2Proof.Machine.execEmit sw a b s
  | .mma sw e h a => Sys2Proof.Machine.execMma sw e h a s
  | .mmas sw e h a => Sys2Proof.Machine.execMmas sw e h a s
  | .azero sw e h t => Sys2Proof.Machine.execAzero sw e h t s
  | .ald sw e h a b => Sys2Proof.Machine.execAld sw e h a b s
  | .ast sw e h a b => Sys2Proof.Machine.execAst sw e h a b s
  | .palres sw r a => Sys2Proof.Machine.execPalres sw r a s
  | .palrel sw r => Sys2Proof.Machine.execPalrel sw r s
  | .mgld sw e h a b => Sys2Proof.Machine.execMgld sw e h a b s
  | .kstore sw e h a => Sys2Proof.Machine.execKstore sw e h a s
  | .lgather sw e h a => Sys2Proof.Machine.execLgather sw e h a s
  | .lgsig sw e h a => Sys2Proof.Machine.execLgsig sw e h a s
  | .lgproj sw e h a b => Sys2Proof.Machine.execLgproj sw e h a b s
  | .lgpool sw e h a => Sys2Proof.Machine.execLgpool sw e h a s
  | .lgcfg sw a b => Sys2Proof.Machine.execLgcfg sw a b s
  | .lgclr sw b => Sys2Proof.Machine.execLgclr sw b s
  | .lgstat sw d b => Sys2Proof.Machine.execLgstat sw d b s
  | .movi sw d n => Sys2Proof.Machine.execMovi sw d n s
  | .lea sw d n => Sys2Proof.Machine.execLea sw d n s
  | .pre sw m z r f b => Sys2Proof.Machine.execPre sw m z r f b s
  | .live sw l h => Sys2Proof.Machine.execLive sw l h s
  | .yield sw n => Sys2Proof.Machine.execYield sw n s
  | .off sw o => Sys2Proof.Machine.execOff sw o s
  | .scope sw c => Sys2Proof.Machine.execScope sw c s
  | .longResultReturn team tid id => Sys2Proof.Machine.execLongResultReturn team tid id s
  | .shortInterlockEnd team tid => Sys2Proof.Machine.execShortInterlockEnd team tid s
  | .pageWalk core ctx va => Sys2Proof.Machine.execPageWalk core ctx va s
  | .faultRecordPost ctx => Sys2Proof.Machine.execFaultRecordPost ctx s
  | .frespResolve ctx id => Sys2Proof.Machine.execFrespResolve ctx id s
  | .frespRefuse ctx id => Sys2Proof.Machine.execFrespRefuse ctx id s
  | .shootdown ctx v => Sys2Proof.Machine.execShootdown ctx v s
  | .shootdownComplete ctx => Sys2Proof.Machine.execShootdownComplete ctx s
  | .collectorSend core n => Sys2Proof.Machine.execCollectorSend core n s
  | .collectorReply core n evict => Sys2Proof.Machine.execCollectorReply core n evict s
  | .homeAccess n => Sys2Proof.Machine.execHomeAccess n s
  | .promote core => Sys2Proof.Machine.execPromote core s
  | .carveOutComplete => Sys2Proof.Machine.execCarveOutComplete s
  | .inkTicket team tid => Sys2Proof.Machine.execInkTicket team tid s
  | .inkGrant team tid => Sys2Proof.Machine.execInkGrant team tid s
  | .inkRelease team tid => Sys2Proof.Machine.execInkRelease team tid s
  | .inkTimeout team tid => Sys2Proof.Machine.execInkTimeout team tid s
  | .inkwaitWake team tid => Sys2Proof.Machine.execInkwaitWake team tid s
  | .beacon die ctx rgn => Sys2Proof.Machine.execBeacon die ctx rgn s
  | .roundWake core => Sys2Proof.Machine.execRoundWake core s
  | .roundTmo team tid => Sys2Proof.Machine.execRoundTmo team tid s
  | .watchdog core nib => Sys2Proof.Machine.execWatchdog core nib s
  | .yieldHoldEnd team tid => Sys2Proof.Machine.execYieldHoldEnd team tid s
  | .sleepEnd team tid => Sys2Proof.Machine.execSleepEnd team tid s
  | .quireForm core => Sys2Proof.Machine.execQuireForm core s
  | .quirePartialRelease core => Sys2Proof.Machine.execQuirePartialRelease core s
  | .collTimeout team group csn => Sys2Proof.Machine.execCollTimeout team group csn s
  | .copyRun core seq => Sys2Proof.Machine.execCopyRun core seq s
  | .snapCopy core seq => Sys2Proof.Machine.execSnapCopy core seq s
  | .gatherRun core seq => Sys2Proof.Machine.execGatherRun core seq s
  | .scataddAppendRun core seq => Sys2Proof.Machine.execScataddAppendRun core seq s
  | .scataddDrainRun core seq => Sys2Proof.Machine.execScataddDrainRun core seq s
  | .mmaRun core steps => Sys2Proof.Machine.execMmaRun core steps s
  | .mmaStop core => Sys2Proof.Machine.execMmaStop core s
  | .tileCommandRun core => Sys2Proof.Machine.execTileCommandRun core s
  | .leaveGrant die => Sys2Proof.Machine.execLeaveGrant die s
  | .kstoreRun core seq => Sys2Proof.Machine.execKstoreRun core seq s
  | .lgatherRun core seq => Sys2Proof.Machine.execLgatherRun core seq s
  | .lgsigRun core seq => Sys2Proof.Machine.execLgsigRun core seq s
  | .lgprojRun core seq => Sys2Proof.Machine.execLgprojRun core seq s
  | .lgpoolRun core seq => Sys2Proof.Machine.execLgpoolRun core seq s
  | .eventRecordPost ctx => Sys2Proof.Machine.execEventRecordPost ctx s
  | .lqtailWrite ctx q v => Sys2Proof.Machine.execLqtailWrite ctx q v s
  | .launchRecordFetch ctx q => Sys2Proof.Machine.execLaunchRecordFetch ctx q s
  | .teamPlacement launch die row col => Sys2Proof.Machine.execTeamPlacement launch die row col s
  | .gangAged launch => Sys2Proof.Machine.execGangAged launch s
  | .nodeLaunch ctx node => Sys2Proof.Machine.execNodeLaunch ctx node s
  | .coalesceTimeout ctx node => Sys2Proof.Machine.execCoalesceTimeout ctx node s
  | .launchComplete launch => Sys2Proof.Machine.execLaunchComplete launch s
  | .sliceExpiry core => Sys2Proof.Machine.execSliceExpiry core s
  | .contextSwap core => Sys2Proof.Machine.execContextSwap core s
  | .spillRestore core block => Sys2Proof.Machine.execSpillRestore core block s
  | .shadowEvict core => Sys2Proof.Machine.execShadowEvict core s
  | .trapEntry team slot => Sys2Proof.Machine.execTrapEntry team slot s
  | .timer team => Sys2Proof.Machine.execTimer team s
  | .ckreq ctx v => Sys2Proof.Machine.execCkreq ctx v s
  | .ckpt team => Sys2Proof.Machine.execCkpt team s
  | .halt ctx v => Sys2Proof.Machine.execHalt ctx v s
  | .haltRecord ctx => Sys2Proof.Machine.execHaltRecord ctx s
  | .resume ctx v => Sys2Proof.Machine.execResume ctx v s
  | .debugGrant ctx => Sys2Proof.Machine.execDebugGrant ctx s
  | .debugRevoke ctx => Sys2Proof.Machine.execDebugRevoke ctx s
  | .editApply ctx => Sys2Proof.Machine.execEditApply ctx s
  | .breakpointMatch team slot => Sys2Proof.Machine.execBreakpointMatch team slot s
  | .sampleRecord core => Sys2Proof.Machine.execSampleRecord core s
  | .hostMemRead pa len => Sys2Proof.Machine.execHostMemRead pa len s
  | .hostMemWrite pa bytes => Sys2Proof.Machine.execHostMemWrite pa bytes s
  | .wellApertureAccess off wr v => Sys2Proof.Machine.execWellApertureAccess off wr v s
  | .peerRequest peer pa wr v => Sys2Proof.Machine.execPeerRequest peer pa wr v s
  | .linkDown link => Sys2Proof.Machine.execLinkDown link s
  | .moduleReset => Sys2Proof.Machine.execModuleReset s
  | .bringUp fail code => Sys2Proof.Machine.execBringUp fail code s
  | .registerWrite off v => Sys2Proof.Machine.execRegisterWrite off v s
  | .contextBecomesResident core ctx => Sys2Proof.Machine.execContextBecomesResident core ctx s
  | .instructionFetch team tid => Sys2Proof.Machine.execInstructionFetch team tid s
  | .softError unit addr hard => Sys2Proof.Machine.execSoftError unit addr hard s

end Sys2Proof.Machine
end

