-- ==== Sys2Proof/Machine/Rerun.lean ====
section
/-! DEFINITION. Instructions that run again: after a wait (R161), and from the replay queue (R387). -/

namespace Sys2Proof.Machine

/-- The meaning of an instruction for one thread alone. -/
def laneOf (ins : Instr) : LaneFn :=
  match ins with
  | .br _ m p o => laneBr m p o
  | .brs _ _ _ _ => laneBrs
  | .jmp _ o => laneJmp o
  | .call _ o => laneCall o
  | .jmpr _ _ => laneJmpr
  | .callr _ _ => laneCallr
  | .ret _ => laneRet
  | .exit _ => laneExit
  | .trap _ _ => laneTrap
  | .rtt _ => laneRtt
  | .bkpt _ => laneBkpt
  | .bar _ i => laneBar i
  | .cbar _ i => laneCbar i
  | .sleep _ _ => laneSleep
  | .nop _ => laneNop
  | .mfs _ d r => laneMfs ins d r
  | .mts _ r _ => fun v s => match mtsCheck r.toNat [v] s with
    | some tr => .trap s tr
    | none => (match laneMts r v s with
      | .done s => .done (mtsShared r.toNat [v] s)
      | x => x)
  | .rdfpf _ d => laneRdfpf ins d
  | .clfpf _ _ => laneClfpf
  | .add _ w d _ _ => laneAdd ins w d
  | .sub _ w d _ _ => laneSub ins w d
  | .addSat _ t d _ _ => laneAddSat ins t d
  | .subSat _ t d _ _ => laneSubSat ins t d
  | .mul _ w d _ _ => laneMul ins w d
  | .mad _ w d _ _ => laneMad ins w d
  | .mulh _ t d _ _ => laneMulh ins t d
  | .div _ t d _ _ => laneDiv ins t d
  | .rem _ t d _ _ => laneRem ins t d
  | .and _ d _ _ => laneAnd ins d
  | .or _ d _ _ => laneOr ins d
  | .xor _ d _ _ => laneXor ins d
  | .andn _ d _ _ => laneAndn ins d
  | .orn _ d _ _ => laneOrn ins d
  | .xnor _ d _ _ => laneXnor ins d
  | .not _ d _ => laneNot ins d
  | .mov _ d _ => laneMov ins d
  | .shl _ w d _ _ => laneShl ins w d
  | .shr _ w d _ _ => laneShr ins w d
  | .sar _ w d _ _ => laneSar ins w d
  | .rol _ w d _ _ => laneRol ins w d
  | .min _ t d _ _ => laneMin ins t d
  | .max _ t d _ _ => laneMax ins t d
  | .cmp _ t c m _ _ => laneCmp ins t c m
  | .abs _ d t _ => laneAbs ins d t
  | .neg _ d t _ => laneNeg ins d t
  | .clz _ d t _ => laneClz ins d t
  | .popc _ d t _ => lanePopc ins d t
  | .cvtInt _ d u y z _ => laneCvtInt ins d u y z
  | .sel _ m d _ _ => laneSel ins m d
  | .bfe _ d _ _ => laneBfe ins d
  | .bfeI _ d _ _ => laneBfeI ins d
  | .bfi _ d _ _ => laneBfi ins d
  | .setc _ c _ => fun v s => .done (lateWrite c.toNat [v] s)
  | .movk _ d k => laneMovk ins d k
  | .movm _ d m => laneMovm ins d m
  | .setm _ m _ => laneSetm ins m
  | .movq _ d q => laneMovq ins d q
  | .setq _ q _ => fun v s => .done (lateWrite (64 + q.toNat) [v] s)
  | .shuf _ _ _ _ _ => laneShuf ins
  | .voteAny _ _ _ => laneVoteAny ins
  | .voteAll _ _ _ => laneVoteAll ins
  | .voteBallot _ _ _ => laneVoteBallot ins
  | .elect _ _ => laneElect ins
  | .matchAny _ _ _ => laneMatchAny ins
  | .redux _ _ _ _ _ => laneRedux ins
  | .scanIncl _ _ _ _ _ => laneScanIncl ins
  | .scanExcl _ _ _ _ _ => laneScanExcl ins
  | .pack6 _ _ _ _ _ => lanePack6 ins
  | .unpack6 _ _ _ _ => laneUnpack6 ins
  | .addF _ f d _ _ => laneAddF ins f d
  | .subF _ f d _ _ => laneSubF ins f d
  | .mulF _ f d _ _ => laneMulF ins f d
  | .scale _ f d _ _ => laneScale ins f d
  | .fma _ f d _ _ => laneFma ins f d
  | .fms _ f d _ _ => laneFms ins f d
  | .minF _ f d _ _ => laneMinF ins f d
  | .minnum _ f d _ _ => laneMinnum ins f d
  | .maxF _ f d _ _ => laneMaxF ins f d
  | .maxnum _ f d _ _ => laneMaxnum ins f d
  | .negF _ f d _ => laneNegF ins f d
  | .absF _ f d _ => laneAbsF ins f d
  | .fclass _ f d _ => laneFclass ins f d
  | .copysign _ f d _ _ => laneCopysign ins f d
  | .cmpF _ f c m _ _ => laneCmpF ins f c m
  | .fdot2 _ f d _ _ => laneFdot2 ins f d
  | .fdot4 _ f d _ _ => laneFdot4 ins f d
  | .rsum _ f d _ => laneRsum ins f d
  | .rmax _ f d _ => laneRmax ins f d
  | .rcp _ _ f _ => laneRcp ins f
  | .rsqrt _ _ f _ => laneRsqrt ins f
  | .sqrt _ _ f _ => laneSqrt ins f
  | .exp2 _ _ f _ => laneExp2 ins f
  | .log2 _ _ f _ => laneLog2 ins f
  | .tanh _ _ f _ => laneTanh ins f
  | .cvtFloatFloat _ d y z _ => laneCvtFloatFloat ins d y z
  | .cvtF32Binary8 _ d u f _ => laneCvtF32Binary8 ins d u f
  | .cvtF16Binary8 _ d u f _ => laneCvtF16Binary8 ins d u f
  | .cvtBf16Binary8 _ d u f _ => laneCvtBf16Binary8 ins d u f
  | .cvtBinary8F32 _ d f _ => laneCvtBinary8F32 ins d f
  | .cvtBinary8F16 _ d f _ => laneCvtBinary8F16 ins d f
  | .cvtBinary8Bf16 _ d f _ => laneCvtBinary8Bf16 ins d f
  | .cvtFloatInteger _ d y g h _ => laneCvtFloatInteger ins d y g h
  | .topk _ _ _ _ _ => laneTopk ins
  | .ld _ z _ _ o c p => laneLd ins z o c p
  | .st _ z _ _ o c p => laneSt ins z o c p
  | .ldb _ z _ _ o p => laneLdb ins z o p
  | .atom _ z _ _ o c p => laneAtom ins z o c p
  | .cas _ z _ _ o c => laneCas ins z o c
  | .wupd _ o e _ _ => laneWupd o e
  | .wred _ o e _ _ => wredAgain o e
  | .fence _ k => laneFence k
  | .ink _ _ _ => laneInk
  | .inkq _ _ _ => laneInkq ins
  | .inkwait _ _ _ => laneInkwait
  | .inksig _ _ => laneInksig
  | .pref _ f _ => lanePref f
  | .ldround _ _ _ => laneLdround ins
  | .ldroundAcq _ _ _ => laneLdroundAcq ins
  | .round _ _ _ => laneRound ins
  | .cpy _ e h _ => laneCpy e h
  | .cpyt _ e h _ => laneCpyt e h
  | .snap _ e h _ => laneSnap e h
  | .gath _ e h _ => laneGath e h
  | .scatadd _ e h _ => laneScatadd e h
  | .waitc _ c _ => laneWaitc c
  | .waith _ _ => laneWaith
  | .testh _ d _ => laneTesth ins d
  | .cancelh _ _ => laneCancelh
  | .movhToV _ d _ => laneMovhToV ins d
  | .movhToH _ h _ => laneMovhToH ins h
  | .rgive _ r _ => laneRgive r
  | .rtake _ r _ => laneRtake r
  | .rfree _ r _ => laneRfree r
  | .emit _ _ _ => laneEmit
  | .mma _ e h _ => laneMma e h
  | .mmas _ e h _ => laneMmas e h
  | .azero _ e h t => laneAzero e h t
  | .ald _ e h _ _ => laneAld e h
  | .ast _ e h _ _ => laneAst e h
  | .palres _ r _ => lanePalres r
  | .palrel _ r => lanePalrel r
  | .mgld _ e h _ _ => laneMgld e h
  | .kstore _ e h _ => laneKstore e h
  | .lgather _ e h _ => laneLgather e h
  | .lgsig _ e h _ => laneLgsig e h
  | .lgproj _ e h _ _ => laneLgproj e h
  | .lgpool _ e h _ => laneLgpool e h
  | .lgcfg _ _ _ => laneLgcfg
  | .lgclr _ _ => laneLgclr
  | .lgstat _ _ _ => laneLgstat ins
  | .movi _ d i => laneMovi ins d i
  | .lea _ d i => laneLea ins d i
  | .pre _ m z r f b => lanePre m z r f b
  | .live _ l h => laneLive l h
  | .yield _ n => laneYield n
  | .off _ o => laneOff o
  | .scope _ c => laneScope c
  | .longResultReturn .. | .shortInterlockEnd .. | .pageWalk .. | .faultRecordPost .. | .frespResolve .. | .frespRefuse ..
  | .shootdown .. | .shootdownComplete .. | .collectorSend .. | .collectorReply .. | .homeAccess .. | .promote ..
  | .carveOutComplete .. | .inkTicket .. | .inkGrant .. | .inkRelease .. | .inkTimeout .. | .inkwaitWake ..
  | .beacon .. | .roundWake .. | .roundTmo .. | .watchdog .. | .yieldHoldEnd .. | .sleepEnd ..
  | .quireForm .. | .quirePartialRelease .. | .collTimeout .. | .copyRun .. | .snapCopy .. | .gatherRun ..
  | .scataddAppendRun .. | .scataddDrainRun .. | .mmaRun .. | .mmaStop .. | .tileCommandRun .. | .leaveGrant ..
  | .kstoreRun .. | .lgatherRun .. | .lgsigRun .. | .lgprojRun .. | .lgpoolRun .. | .eventRecordPost ..
  | .lqtailWrite .. | .launchRecordFetch .. | .teamPlacement .. | .gangAged .. | .nodeLaunch .. | .coalesceTimeout ..
  | .launchComplete .. | .sliceExpiry .. | .contextSwap .. | .spillRestore .. | .shadowEvict .. | .trapEntry ..
  | .timer .. | .ckreq .. | .ckpt .. | .halt .. | .haltRecord .. | .resume ..
  | .debugGrant .. | .debugRevoke .. | .editApply .. | .breakpointMatch .. | .sampleRecord .. | .hostMemRead ..
  | .hostMemWrite .. | .wellApertureAccess .. | .peerRequest .. | .linkDown .. | .moduleReset .. | .bringUp ..
  | .registerWrite .. | .contextBecomesResident .. | .instructionFetch .. | .softError .. => fun _ s => .done s

/-- The instruction of a replay entry: its literals are in the operands it captured. -/
def replayInstr (r : Replay) : Option Instr :=
  match decodeWords [r.word, 0, 0] with
  | .ok (i, _) => some i
  | .error _ => none

/-- The operands of a replay entry (R384). -/
def replayEnv (s : State) (t : Thread) (r : Replay) (i : Instr) : Env :=
  let pc := unitInstr s t.core t.ctx 11 r.pcu
  { ctx := t.ctx, core := t.core, team := t.team, tid := t.tid, msg := s.uid, unit := r.pcu, pc := pc
    npc := pc + BitVec.ofNat 64 (4 * i.size), opA := r.opA, opB := r.opB, opC := r.opC, opD := r.opD, opE := r.opD
    addr := r.addr, hints := r.hints, mask := r.mask, replay := true, watch := r.watch
    settled := r.settled, flags := r.flags }

/-- The oldest entry of a thread's replay queue executes with its recorded operands (R387). An entry whose word is no
instruction raises ILLEGAL. -/
def reinject (s : State) (key : Nat) : State :=
  let t := s.thread key
  match t.replay with
  | [] => s.updThread key Thread.resume
  | r :: rest =>
    let (_, s) := s.fresh
    let s := s.setThread key { t with replay := rest }
    match replayInstr r with
    | some i =>
      let e := replayEnv s t r i
      applyAgain i e (laneOf i e s)
    | none =>
      let s := s.setThread key { t with trap := some { trapOf causeIllegal with at_ := some r.pcu, keep := true } }
      takeTraps s t.core t.ctx t.slot

/-- A thread whose wait has ended runs its instruction again; one that waited to issue only becomes ready. -/
def rerun (s : State) (key : Nat) (b : Blocked) : State :=
  match b.why with
  | .park | .outstanding | .frame | .fetch _ => s.updThread key Thread.resume
  | _ => applyAgain b.instr b.env (laneOf b.instr b.env s)

/-- A thread that has parked first goes on (R169, R244): the threads of a brs together, once all have their results. -/
def parkedFirst (s : State) (b : Blocked) : Option State :=
  if parkOver s b then
    some (match b.instr with
      | .brs _ m p o => splitBundle b.instr m p o (brsPeers s b) s
      | _ => rerun s b.env.key b)
  else none

/-- What a thread of a running context does next of itself: it runs again, goes on with its replay queue, where each entry
returns before the next is re-injected (R387), or ends its park. -/
def threadGoes (s : State) (k : Nat) (t : Thread) : Option State :=
  if t.trap.isSome || !(resident s t) || !(teamRuns s t) then none
  else match t.status with
    | .waking b => some (rerun s k b)
    | .reinject => if t.outs.isEmpty then some (reinject s k) else none
    | .blocked b => if b.why = .parkFirst then parkedFirst s b else none
    | _ => none

/-- The first thread that goes on. -/
def wakeStep (s : State) : Option State := s.threads.findSome? (fun p => threadGoes s p.1 p.2)

end Sys2Proof.Machine
end

