-- ==== Sys2Proof/Machine/Schedule.lean ====
section
/-! DEFINITION. What the machine does next of itself (log entry 1): waits that end, the machine's own steps that are due,
the slots of the nibs in order, and the end of a cycle. -/

namespace Sys2Proof.Machine

/-! ### Steps that are due -/

/-- A thread's long result that may return. -/
def resultDue (t : Thread) : Option Nat := (t.outs.find? (fun o => (readyOut t o.id).isSome)).map (fun o => o.id)

/-- What is due for a blocked thread. -/
def blockedDue (s : State) (t : Thread) (b : Blocked) : Option Instr :=
  match b.why with
  | .inkReq .. => some (.inkTicket t.team t.tid)
  | .inkTicket _ tk blk _ | .inkOld _ tk blk _ =>
    if monGrant s blk && monServe s blk == tk then some (.inkGrant t.team t.tid)
    else if inkTimedOut s t b then some (.inkTimeout t.team t.tid)
    else none
  | .releasing inks _ => if releaseDue t inks then some (.inkRelease t.team t.tid) else none
  | .watch .. => if watchFired s t b then some (.inkwaitWake t.team t.tid) else none
  | .round .. => if roundTimedOut s t b then some (.roundTmo t.team t.tid) else none
  | .sleep n => if n ≤ b.waited then some (.sleepEnd t.team t.tid) else none
  | .fetch key => if faultOpen s t.ctx key then none else some (.instructionFetch t.team t.tid)
  | _ => none

/-- What is due for a thread. -/
def threadDue (s : State) (t : Thread) : Option Instr :=
  match resultDue t with
  | some id => some (.longResultReturn t.team t.tid id)
  | none =>
    if t.ilock.any (fun p => decide (p.2 ≤ s.now)) then some (.shortInterlockEnd t.team t.tid)
    else match t.status with
      | .yielding 0 => some (.yieldHoldEnd t.team t.tid)
      | .blocked b => if t.trap.isSome then none else blockedDue s t b
      | _ => none

/-- A trap or a TIMER that a thread's slot takes now. -/
def trapEntryDue (s : State) (t : Thread) : Option Instr :=
  if (t.trap.isSome && resident s t && trapDue s t.core t.ctx t.slot)
      || (t.timerPend.isSome && !(timerThreads s (s.team t.team) t.slot).isEmpty) then
    some (.trapEntry t.team t.slot)
  else none

/-- What is due for a team. -/
def teamDue (s : State) (u : Nat) (tm : Team) : Option Instr :=
  if ckptDue s u then some (.ckpt u)
  else if timerDue s tm then some (.timer u)
  else (tm.rendezvous.find? (collTimedOut s tm)).map (fun r => .collTimeout u r.group r.csn.toNat)

/-- The steps of a command that its form names. -/
def cmdSteps (c : Cmd) : List Instr :=
  match c.op with
  | .cpy | .cpyt => [.copyRun c.core c.seq]
  | .snap => [.snapCopy c.core c.seq]
  | .gath => [.gatherRun c.core c.seq]
  | .scatadd => [.scataddAppendRun c.core c.seq, .scataddDrainRun c.core c.seq]
  | .mma | .mmas => [.mmaRun c.core (mxK c.desc / 8 + 1)]
  | .azero | .ald | .ast | .mgld => [.tileCommandRun c.core]
  | .kstore => [.kstoreRun c.core c.seq]
  | .lgather => [.lgatherRun c.core c.seq]
  | .lgsig => [.lgsigRun c.core c.seq]
  | .lgproj => [.lgprojRun c.core c.seq]
  | .lgpool => [.lgpoolRun c.core c.seq]

/-- The state after the first of some steps that changes anything: an engine that waits for a block does nothing. -/
def firstChange (s : State) : List Instr → Option State
  | [] => none
  | i :: is =>
    match exec i s with
    | .next t => if t = s then firstChange s is else some t
    | _ => firstChange s is

/-- The engines of a core. -/
def engineStep (s : State) (x : Core) : Option State :=
  firstChange s ((x.cmds.filter (fun p => canRun s p.2)).flatMap (fun p => cmdSteps p.2))

/-- The block whose turn it is: the next to be restored, after its outgoing copy (R390); or else one that is to be spilled. -/
def nextBlock (x : Core) : Option Nat := (nextRestore x).orElse (fun _ => x.unspilled.head?)

/-- What is due for a core. -/
def coreDue (s : State) (k : Nat) (x : Core) : Option Instr :=
  if !x.wakes.isEmpty then some (.roundWake k)
  else if x.cmds.any (fun p => p.2.cls == 1 && decide (p.2.status < 2) && p.2.stop.isSome) then some (.mmaStop k)
  else if sliceDue s k then some (.sliceExpiry k)
  else if swapDue s k && !((x.active.map (ligBusy s k)).getD false) then some (.contextSwap k)
  else if (nextBlock x).isSome && x.spillWait.isNone && x.swapping = 0 then
    (nextBlock x).map (fun b => .spillRestore k b)
  else match (List.range x.coll.length).find? (replyNext x.coll) with
    | some n => some (.collectorReply k n 0)
    | none =>
      match x.coll.findIdx? (entryDue s) with
      | some n => some (.collectorSend k n)
      | none => none

/-- What is due for a die. -/
def dieDue (s : State) (k : Nat) (d : Die) : Option Instr :=
  match d.beacons, d.leaveQ with
  | b :: _, _ => some (.beacon k b.1 b.2.1)
  | [], r :: _ => if r.1 < s.now ∧ d.grants.length < d.gmax then some (.leaveGrant k) else none
  | [], [] => none

/-- A team that is to resume can. -/
def resumeDue (s : State) (k : Nat) : Bool :=
  s.teams.any (fun p => p.2.ctx == k && p.2.halted && p.2.resume && p.2.haltReason.isNone) && editsEmpty (s.ctx k)

/-- What is due for a context. -/
def ctxDue (s : State) (k : Nat) (c : Ctx) : Option Instr :=
  if (faultToPost s k).isSome then some (.faultRecordPost k)
  else if !c.events.isEmpty && (eventRoom s k).isSome then some (.eventRecordPost k)
  else if (c.sd.map (shootdownDone s k)).getD false then some (.shootdownComplete k)
  else if !(haltsToQueue s k).isEmpty || (!c.halts.isEmpty && haltRoom c) || resumeDue s k then some (.haltRecord k)
  else if !editsEmpty c then some (.editApply k)
  else match c.nodes.find? (fun p => nodeFullDue p.2) with
    | some p => some (.nodeLaunch k p.1)
    | none =>
      match c.nodes.find? (fun p => nodeOldDue s p.2) with
      | some p => some (.coalesceTimeout k p.1)
      | none => ((c.lq.map (fun p => p.1 / 4)).find? (fetchDue s k)).map (fun q => .launchRecordFetch k q)

/-- What is due for a launch. -/
def launchDue (s : State) (k : Nat) (l : Launch) : Option Instr :=
  if launchDone l then some (.launchComplete k) else if gangDue s l then some (.gangAged k) else none

/-- The quire former of a core (R168): sets of 32 in the cycles in which CYCLE is a multiple of 8, a partial group in any cycle once its
time has come (both DESIGN CHOICE, log entry 40). -/
def quireDue (s : State) (core : Nat) : Option Instr :=
  if s.now % 8 = 0 ∧ (quireFind s core fullSet).isSome then some (.quireForm core)
  else if (quireFind s core oldSet).isSome then some (.quirePartialRelease core)
  else none

/-- The steps of the machine's own that are due, in the order in which they are tried (log entry 1). -/
def dueEvents (s : State) : List Instr :=
  s.threads.filterMap (fun p => trapEntryDue s p.2)
  ++ s.threads.filterMap (fun p => threadDue s p.2)
  ++ s.teams.filterMap (fun p => if p.2.exited then none else teamDue s p.1 p.2)
  ++ s.diesT.filterMap (fun p => dieDue s p.1 p.2)
  ++ s.cores.filterMap (fun p => coreDue s p.1 p.2)
  ++ s.ctxs.filterMap (fun p => ctxDue s p.1 p.2)
  ++ (if !s.mevents.isEmpty && (moduleRoom s).isSome then [.eventRecordPost 16] else [])
  ++ (if s.wellStatus = 1 then [.carveOutComplete] else [])
  ++ (if s.flights.isEmpty then [] else [.homeAccess 0])
  ++ s.launches.filterMap (fun p => launchDue s p.1 p.2)
  ++ (if s.launches.all (fun p => p.2.allPlaced) then [] else ((nextPlaced s).map (fun l => .teamPlacement l 0 0 0)).toList)
  ++ (if s.teams.all (fun p => p.2.spawns.isEmpty) then [] else s.cores.filterMap (fun p => quireDue s p.1))

/-! ### The slots of a cycle -/

/-- The nibs with a ready thread, whose age counts, and whose slot is still to come, lowest first (R161, R162). -/
def nextNib (s : State) : Option Nat :=
  s.threads.foldl (fun (m : Option Nat) p =>
    let k := p.2.core * 8 + p.2.slot % 8
    if s.cursor ≤ k ∧ !s.taken.contains k ∧ isReady s p.2 then
      match m with
      | some j => some (min j k)
      | none => some k
    else m) none

/-- A choice issues: its instruction is fetched and executes; what cannot be fetched or decoded traps or waits. -/
def issueChoice (s : State) (core nib : Nat) (c : Choice) : Host.Outcome State Fault Refusal :=
  let (bd, s) := startBundle s core nib c
  match fetchInstr s bd with
  | (.instr i, s) => exec i (endStepOver { s with bundle := some bd } bd)
  | (.illegal, s) => .next (trapBundle s bd (trapOf causeIllegal))
  | (.trap t, s) => .next (trapBundle s bd t)
  | (.fault key, s) => .next (holdFetch s bd key)

/-- One slot of a nib (R162, R165, R400); one that issues nothing passes all the same. -/
def slotStep (s : State) (core nib : Nat) : Host.Outcome State Fault Refusal :=
  if !(overdue s core nib).isEmpty then exec (.watchdog core nib) s
  else match breakChoice s core nib with
    | some (c, _) => exec (.breakpointMatch c.team c.slot) s
    | none =>
      match pick s core nib with
      | none => .next (useSlot s core nib [])
      | some c => issueChoice s core nib c

/-! ### The end of a cycle -/

/-- A thread's count of resident cycles and its hold by YIELD (R132, R151, R164, R248). The cycles of a sleep and the slots of a YIELD
count like the cycles of R132 and R151: not those in the shadow bank, nor those of a swap (DESIGN CHOICE, log entry 61). -/
def Thread.tick (t : Thread) (on : Bool) : Thread :=
  if !on then t
  else match t.status with
    | .blocked b => { t with status := .blocked { b with waited := b.waited + 1 } }
    | .yielding n => { t with status := .yielding (n - 1) }
    | _ => t

/-- A team's GTIME, its rendezvous and its spawn records (R168, R171, R405). A spawn record's 64 cycles count only while the
team's context is active on its core, which R168 leaves open (DESIGN CHOICE, log entry 40). -/
def Team.tick (tm : Team) (on : Bool) : Team :=
  if !on then tm
  else { tm with
    gtime := if tm.halted then tm.gtime else tm.gtime + 1
    rendezvous := tm.rendezvous.map (fun r => { r with waited := r.waited + 1 })
    spawns := tm.spawns.map (fun r => { r with waited := r.waited + 1 }) }

/-- The sampling period of a core's active context goes on. -/
def Core.countSample (s : State) (x : Core) : Tbl Nat :=
  match x.active with
  | some a => if bitAt (s.ctx a).sampcfg 0 then Tbl.set x.sampCount a (Tbl.getD x.sampCount a 0 + 1) else x.sampCount
  | none => x.sampCount

/-- A core's slice, its swap and its sampling period (R377, R389, R406). -/
def Core.tick (s : State) (x : Core) : Core :=
  { x with
    issued := []
    slice := if x.active.isSome && x.swapping = 0 then x.slice + 1 else x.slice
    swapping := x.swapping - 1
    sampCount := x.countSample s }

/-- Commands of a launch that wait for leave: the cycle counts once for each (R320, R379, R407; DESIGN CHOICE, log entry 69). -/
def leaveWaits (s : State) (id : Nat) : Nat :=
  s.cores.foldl (fun n p => n + (p.2.cmds.filter (fun q => q.2.leave == some false && decide (q.2.status < 2)
    && (s.team q.2.team).launch == id)).length) 0

/-- A launch's time spent waiting for leave, and a gang's wait (R375, R407). -/
def Launch.tick (s : State) (id : Nat) (l : Launch) : Launch :=
  { l with
    leave := if l.done then l.leave else l.leave + leaveWaits s id
    waited := if recFlag l.record 0 && !l.rects.isEmpty && l.next == 0 then l.waited + 1 else l.waited }

/-- A cycle ends: CYCLE rises, late writes are made, the counts of what is resident go on, and every nib has its next slot
(R162, R172, R405). -/
def tickState (s : State) : State :=
  let on (t : Thread) : Bool := resident s t
  let teamOn (tm : Team) : Bool := (s.core tm.core).active == some tm.ctx && (s.core tm.core).swapping == 0
    && !(s.ctx tm.ctx).stopped
  applyLate { s with
    cycle := s.cycle + 1, cursor := 0, taken := []
    threads := s.threads.map (fun p => (p.1, p.2.tick (on p.2)))
    teams := s.teams.map (fun p => (p.1, p.2.tick (teamOn p.2)))
    cores := s.cores.map (fun p => (p.1, p.2.tick s))
    launches := s.launches.map (fun p => (p.1, p.2.tick s p.1)) }

/-- The end of a cycle: samples first, core by core (R406); one that waits for a snap is no step. -/
def endCycle (s : State) : Host.Outcome State Fault Refusal :=
  match firstChange s ((s.cores.filter (fun p => sampleDue s p.1)).map (fun p => .sampleRecord p.1)) with
  | some t => .next t
  | none => .next (tickState s)

/-! ### The next step -/

/-- A move from outside (log entry 1): a step, a read, a slot that has not passed, or the end of the cycle, once every nib has had its
slot (R162). -/
def moveStep (s : State) (m : Move) : Host.Outcome State Fault Refusal :=
  match m with
  | .event i => exec i s
  | .read r => .next (hostRead s r)
  | .port p up => .next (portMove s p up)
  | .slot core nib =>
    if s.cursor ≤ core * 8 + nib ∧ !s.taken.contains (core * 8 + nib) ∧ nib < 8 then slotStep s core nib else .next s
  | .tick => if (nextNib s).isNone then endCycle s else .next s

/-- What the machine does of itself. -/
def ownStep (s : State) : Host.Outcome State Fault Refusal :=
  match wakeStep s with
  | some t => .next t
  | none =>
    match firstChange s (dueEvents s) with
    | some t => .next t
    | none =>
      match s.cores.findSome? (fun p => engineStep s p.2) with
      | some t => .next t
      | none =>
        match homeOver s with
        | some (die, h) => .next (evictHome s die h)
        | none =>
          match nextNib s with
          | some k => slotStep { s with cursor := k } (k / 8) (k % 8)
          | none => endCycle s

end Sys2Proof.Machine
end

