-- ==== Sys2Proof/Machine/Step.lean ====
section
/-! DEFINITION. One step of the machine, and the state in which a given instruction is the next one fetched. -/

namespace Sys2Proof.Machine

/-- One step: a machine that has stopped stays stopped; else the next move from outside, or the machine's own (log entry 1). -/
def step (s : State) : Host.Outcome State Fault Refusal :=
  match s.stop with
  | some f => .fault f
  | none =>
    match s.inbox with
    | m :: rest => moveStep { s with inbox := rest } m
    | [] => ownStep s

/-- Where `State.withFetchWord` puts the root table, the 1 GiB frame of VA 0, and the program (log entry 2). -/
def bootRoot : Nat := 0x10_0000
def bootTable : Nat := 0x20_0000
def bootFrame : Nat := 0x4000_0000
def bootPc : Nat := 0x1_0000

/-- The context of the loaded program: its page tables stand at `bootRoot`. -/
def bootCtx : Ctx := { Ctx.reset with root := BitVec.ofNat 64 bootRoot }

/-- The team of the loaded program: one group, in slot 0 of core 0, with all 128 registers. -/
def bootTeam : Team := { Team.reset with groups := [⟨0, 128, none, 0⟩] }

/-- Its core, on which context 0 is active. -/
def bootCore : Core := { Core.reset with active := some 0, slots := [(0, ⟨0, false, [], false, none⟩)] }

/-- Its one thread. -/
def bootThread : Thread := { Thread.reset with pc := BitVec.ofNat 64 bootPc }

/-- Physical memory with the page tables of one readable, writable and executable page, and the program (R24, R25). -/
def bootPhys (m : Memory) (code : List Byte) : Memory :=
  let m := Memory.writeN m bootRoot (natToBytes 8 (bootTable + 1))
  let m := Memory.writeN m bootTable (natToBytes 8 (bootFrame + 0x20F))
  Memory.writeN m (bootFrame + bootPc) code

/-- `s` with an instruction, and two literal words of zeros, where the next step fetches: a loaded program of one team with
one thread (log entry 2), and the slot of its nib next. -/
def State.withFetchWord (s : State) (nbits w : Nat) : State :=
  { s with
    phys := bootPhys s.phys (natToBytes 12 (w % 2 ^ nbits))
    ctxs := [(0, bootCtx)], cores := [(0, bootCore)], diesT := [], teams := [(0, bootTeam)], threads := [(0, bootThread)]
    inbox := [.slot 0 0], cursor := 0, taken := [], bundle := none, uid := s.uid + 1, stop := none }

end Sys2Proof.Machine
end

