-- ==== Sys2Proof/Safety.lean ====
section
/-! DEFINITION. What counts as a safe run: no step of it stops, and its memories keep their canonical form. And the terms
that claims use: when an instruction issues, what stays, and the shapes of its results. -/

namespace Sys2Proof

/-- `n` steps from a state, each with a next state. -/
def Machine.runs : Nat → Machine.State → Option Machine.State
  | 0, s => some s
  | n + 1, s =>
    match Machine.step s with
    | .next t => Machine.runs n t
    | _ => none

/-- Every memory of the module is in its canonical form. -/
def Machine.State.MemWf (s : Machine.State) : Prop :=
  s.phys.wf = true ∧ s.well.wf = true ∧ s.scratch.wf = true ∧ s.margin.wf = true
    ∧ ∀ p ∈ s.ctxs, p.2.proj.wf = true

/-- A run of `n` steps is safe. -/
def Machine.SafeRun (n : Nat) (s : Machine.State) : Prop := ∃ t, Machine.runs n s = some t ∧ t.MemWf

namespace Machine

/-! ### Issue -/

/-- The state in which the threads of a bundle issue: the bundle is taken up, and the issue has its number. -/
def State.issued (s : State) : State := { s with bundle := none, uid := s.uid + 1 }

/-- The operands that thread `tid` of a bundle captures at the issue of `i` (R185). -/
def State.operands (s : State) (bd : Bundle) (i : Instr) (tid : Nat) : Env := bundleEnv s.issued bd i s.uid tid

/-- The operands of the bundle's threads, in the order in which the threads act (R208). -/
def State.operandsAll (s : State) (bd : Bundle) (i : Instr) : List Env := bd.tids.map (s.operands bd i)

/-- No thread in the bundle's group slot has a trap to take, and no halt of its team is still to be complete (R402). -/
def State.Quiet (s : State) (bd : Bundle) : Prop :=
  (∀ p ∈ s.threads, p.2.core = bd.core → p.2.ctx = bd.ctx → p.2.slot = bd.slot → p.2.trap = none)
    ∧ (s.team bd.team).haltReason = none

/-- Instruction `i` issues to bundle `bd`: its threads stand in the bundle's slot and are ready, no check before issue holds one
back or makes it trap (R178, R182, R173, R187, R81, R188), no thread of the slot is about to trap, and no halt of the team is
about to be complete. -/
structure Issues (s : State) (bd : Bundle) (i : Instr) : Prop where
  bundle : s.bundle = some bd
  nodup : bd.tids.Nodup
  threads : ∀ tid ∈ bd.tids, ∃ th, s.thread? (threadKey bd.team tid) = some th ∧ th.team = bd.team ∧ th.tid = tid
    ∧ th.core = bd.core ∧ th.ctx = bd.ctx ∧ th.slot = bd.slot ∧ th.status = .ready ∧ issueCheck s th i = .go
  quiet : s.Quiet bd

/-- Only threads of the bundle differ; every register of every other thread, every team, core, context, memory and
queue stays. -/
def OnlyThreads (s t : State) (bd : Bundle) : Prop :=
  t = { s with bundle := none, uid := t.uid, threads := t.threads }
    ∧ ∀ k, (∀ tid ∈ bd.tids, k ≠ threadKey bd.team tid) → t.thread? k = s.thread? k

/-- `exec i` answers a next state: the state `u`, in which each thread of the bundle has become what `P` says of its
operands, of the thread as it was and of the thread as it is; nothing else differs from `u`. -/
def EachThreadOn (u : State) (s : State) (bd : Bundle) (i : Instr) (P : Env → Thread → Thread → Prop) : Prop :=
  ∃ t, exec i s = .next t ∧ OnlyThreads u t bd
    ∧ ∀ tid ∈ bd.tids, P (s.operands bd i tid) (s.thread (threadKey bd.team tid)) (t.thread (threadKey bd.team tid))

/-- `exec i` answers a next state in which each thread of the bundle has become what `P` says, and nothing else differs. -/
abbrev EachThread (s : State) (bd : Bundle) (i : Instr) (P : Env → Thread → Thread → Prop) : Prop :=
  EachThreadOn s s bd i P

/-- Thread `th` with `x` in v(d), ready to be read when the latency of `i` has passed (R184), its unit over. -/
def Thread.wroteV (th : Thread) (now : Nat) (i : Instr) (e : Env) (d : Nat) (x : Word) : Thread :=
  ({ th.setV d x with ilock := Tbl.set th.ilock d (now + i.latency) } : Thread).complete i e

/-- Thread `th` with `x` in m(r), ready to be read when the latency of `i` has passed (R184), its unit over. -/
def Thread.wroteM (th : Thread) (now : Nat) (i : Instr) (e : Env) (r : Nat) (x : BitVec 8) : Thread :=
  ({ th.setM r x with ilock := Tbl.set th.ilock (128 + r) (now + i.latency) } : Thread).complete i e

/-- The mask that governs the unit of a thread (R182, R191), and whether it zeroes. -/
def Thread.unitMask (th : Thread) : BitVec 8 := th.getM th.hints.mask.1.toNat
def Thread.unitZ (th : Thread) : Bool := th.hints.mask.2

/-- The value of operand `b` of `i` for a thread (R179 to R181). -/
def State.opndB (s : State) (i : Instr) (b : Opnd) (th : Thread) : Word := opndValue s th i.elemB b

/-- The result of a short form (R191, R253): each `w`-bit sub-element of v(d) becomes `f` of those of `a`, `b` and the old
v(d) where the mask bit of R11 governs; elsewhere it stays, or is 0 under Z. Nothing but v(d), its interlock and the
unit's own fields changes. -/
abbrev ShortResult (s : State) (i : Instr) (d : BitVec 7) (w : Nat) (a b : Thread → Word) (f : Nat → Nat → Nat → Nat)
    (e : Env) (th th' : Thread) : Prop :=
  ∃ x : Word, th' = th.wroteV s.now i e d.toNat x ∧ ∀ j, j < 64 / w →
    elemAt w x j =
      if th.unitMask.getLsbD (j * w / 8) then
        f (elemAt w (a th) j) (elemAt w (b th) j) (elemAt w (th.getV d.toNat) j)
      else if th.unitZ then 0 else elemAt w (th.getV d.toNat) j

/-- The shape of a short form: every thread of the bundle has its result. -/
def ShortForm (s : State) (bd : Bundle) (i : Instr) (d : BitVec 7) (w : Nat) (a b : Thread → Word)
    (f : Nat → Nat → Nat → Nat) : Prop :=
  EachThread s bd i (ShortResult s i d w a b f)

/-- The shape of a form of all 64 bits, masked byte by byte (R238). -/
def WideForm (s : State) (bd : Bundle) (i : Instr) (d : BitVec 7) (f : Thread → Word) : Prop :=
  EachThread s bd i (fun e th th' => ∃ x : Word, th' = th.wroteV s.now i e d.toNat x ∧ ∀ k, k < 64 →
    x.getLsbD k =
      if th.unitMask.getLsbD (k / 8) then (f th).getLsbD k
      else if th.unitZ then false else (th.getV d.toNat).getLsbD k)

/-- The shape of a short form that takes no mask: v(d) becomes `f`. -/
def WordForm (s : State) (bd : Bundle) (i : Instr) (d : BitVec 7) (f : Env → Thread → Word) : Prop :=
  EachThread s bd i (fun e th th' => th' = th.wroteV s.now i e d.toNat (f e th))

/-- The shape of a form that writes mask register m(r), bit by bit. -/
def MaskForm (s : State) (bd : Bundle) (i : Instr) (r : BitVec 3) (f : Thread → Nat → Bool) : Prop :=
  EachThread s bd i (fun e th th' => ∃ x : BitVec 8, th' = th.wroteM s.now i e r.toNat x
    ∧ ∀ k, k < 8 → x.getLsbD k = f th k)

/-- Each lane of the bundle is done and only its unit ends (R190), after what `g` does to its thread. -/
def ThreadForm (s : State) (bd : Bundle) (i : Instr) (g : Env → Thread → Thread) : Prop :=
  EachThread s bd i (fun e th th' => th' = (g e th).complete i e)

/-- TE of FPCTL: the flags whose traps are enabled (R287, R290). -/
def Thread.te (th : Thread) : BitVec 6 := (th.fpctl.extractLsb' 9 5).setWidth 6

/-- FTZ of FPCTL (R274, R287). -/
def Thread.ftz (th : Thread) : Bool := th.fpctl.getLsbD 4

/-- The rounding mode of a thread's unit (R191, R280): PRE's, FPCTL's for code 6, the instruction's own for code 0. -/
def Thread.mode (th : Thread) (own : RMode) : RMode :=
  if th.hints.rm = 0#3 then own
  else RMode.ofCode (if th.hints.rm = 6#3 then (th.fpctl.extractLsb' 0 3).toNat else th.hints.rm.toNat)

/-- A flag that a float form raises in a thread: that of a sub-element where the mask governs (R288). -/
abbrev flagRaised (w : Nat) (r : Thread → Nat → FRes) (th : Thread) (k : Nat) : Prop :=
  ∃ j, j < 64 / w ∧ th.unitMask.getLsbD (j * w / 8) = true ∧ (r th j).flags.getLsbD k = true

/-- The result of a float form (R288 to R292): destination sub-element `j` of `w` bits, where the mask governs, receives
the bits of `r`, and FPF the flags of `r`; nothing else changes. -/
abbrev FloatResult (s : State) (i : Instr) (d : BitVec 7) (w : Nat) (r : Thread → Nat → FRes) (e : Env) (th th' : Thread) : Prop :=
  ∃ (x : Word) (fl : BitVec 6),
    th' = ({ th with fpf := fl } : Thread).wroteV s.now i e d.toNat x
    ∧ (∀ j, j < 64 / w → elemAt w x j =
        if th.unitMask.getLsbD (j * w / 8) then (r th j).bits % 2 ^ w
        else if th.unitZ then 0 else elemAt w (th.getV d.toNat) j)
    ∧ ∀ k, k < 6 → fl.getLsbD k = (th.fpf.getLsbD k || decide (flagRaised w r th k))

/-- The shape of a float form where no thread raises a flag whose trap it has enabled. -/
def FloatForm (s : State) (bd : Bundle) (i : Instr) (d : BitVec 7) (w : Nat) (r : Thread → Nat → FRes) : Prop :=
  (∀ tid ∈ bd.tids, ∀ j, j < 64 / w → (s.thread (threadKey bd.team tid)).unitMask.getLsbD (j * w / 8) = true →
    (r (s.thread (threadKey bd.team tid)) j).flags &&& (s.thread (threadKey bd.team tid)).te = 0) →
  EachThread s bd i (FloatResult s i d w r)

/-! ### Traps of a unit (R196, R290, R386) -/

/-- What R385 records of a cause: its code, the kind of a PAGE, ADDR and INFO. -/
def record (cause kind : Nat) (addr info : Word) : Trap := ⟨cause, kind, addr, info, 0, none, false⟩

/-- Thread `th` with a trap of the unit at hand: it stands ready at the unit with the trap to take, its hints gone. -/
def Thread.raised (th : Thread) (bd : Bundle) (e : Env) (x : Trap) : Thread :=
  { th with trap := some { x with at_ := some bd.pc }, pc := e.unit, hints := Hints.empty, unit := none, status := .ready, age := 0
            issueRead := none }

/-- The shape of a form that may trap: the threads of which `traps` names a trap raise it before any effect, every other one has
become what `P` says, and nothing else differs; then the slot takes its traps. -/
def RaisesOr (s : State) (bd : Bundle) (i : Instr) (traps : Env → Thread → Trap → Prop) (P : Env → Thread → Thread → Prop) : Prop :=
  ∃ u, exec i s = .next (noteHalt (takeTraps u bd.core bd.ctx bd.slot) bd.team) ∧ OnlyThreads s u bd
    ∧ ∀ tid ∈ bd.tids, let e := s.operands bd i tid
      let th := s.thread (threadKey bd.team tid)
      (∀ x, traps e th x → u.thread (threadKey bd.team tid) = th.raised bd e x)
        ∧ ((∀ x, ¬ traps e th x) → P e th (u.thread (threadKey bd.team tid)))

/-- Every thread of the bundle raises a trap. -/
abbrev Raises (s : State) (bd : Bundle) (i : Instr) (trap : Env → Trap) : Prop :=
  RaisesOr s bd i (fun e _ x => x = trap e) (fun _ _ _ => False)

/-- R290: the shape of a short float form where a thread may have enabled the trap of a flag it raises: it raises FPX, which records
all the flags it would have set, its FPF and v(d) as they were. -/
abbrev FloatTraps (s : State) (bd : Bundle) (i : Instr) (d : BitVec 7) (w : Nat) (r : Thread → Nat → FRes) : Prop :=
  RaisesOr s bd i (fun _ th x => ∃ fl : BitVec 6, (∀ k, k < 6 → fl.getLsbD k = decide (flagRaised w r th k)) ∧ fl &&& th.te ≠ 0
    ∧ x = record 9 0 0 (fl.setWidth 64)) (FloatResult s i d w r)

/-- Thread `th` with the long instruction `i` outstanding under number `n` (R185, R186): its result ready or the bytes of
its load to come, its destination in the pending set. -/
def Thread.longIssue (th : Thread) (n : Nat) (i : Instr) (e : Env) (data : List (Option Byte)) (result : Option Word)
    (fl : BitVec 6) : Thread :=
  { th with
    outs := th.outs ++ [⟨n, i, e, data, result, fl, e.settled, false, false⟩]
    pending := match i.dReg with
      | some d => if d.toNat ∈ th.pending then th.pending else th.pending ++ [d.toNat]
      | none => th.pending }

/-- The shape of a long form whose result needs no wait: it is outstanding with the result and flags that `P` allows. -/
def LongForm (s : State) (bd : Bundle) (i : Instr) (P : Env → Thread → Word → BitVec 6 → Prop) : Prop :=
  EachThread s bd i (fun e th th' => ∃ n x fl, s.uid ≤ n ∧ P e th x fl
    ∧ th' = (th.longIssue n i e [] (some x) fl).complete i e)

/-- The shape of a form at which the thread blocks: its unit is over, and its PC past it but where the form leaves it at
the unit. -/
def BlockForm (s : State) (bd : Bundle) (i : Instr) (w : Env → Thread → Why) : Prop :=
  EachThread s bd i (fun e th th' => th' = { th with
    status := .blocked ⟨w e th, i, e, 0⟩, age := 0, pc := if holdsPc i then e.unit else e.npc
    hints := Hints.empty, unit := none })

/-! ### Threads one after another (R208) -/

/-- The threads of a bundle one after another (R208): each does `act` where that is possible, and its unit is over. -/
def lanesRun (i : Instr) (act : Env → State → Option State) : List Env → State → Option State
  | [], s => some s
  | e :: es, s => (act e s).bind (fun u => lanesRun i act es (completeLane u e.key i e))

/-- Where every thread of the bundle can do `act` at its turn, and no thread of the slot is then to trap, `exec i` answers
the state after all of them. -/
def Completes (s : State) (bd : Bundle) (i : Instr) (act : Env → State → Option State) : Prop :=
  ∀ t, lanesRun i act (s.operandsAll bd i) s.issued = some t → t.Quiet bd → exec i s = .next t

/-- The threads of a bundle one after another (R208), where a thread may also come to wait: each does `act`, and its unit is over, or
it blocks for what `act` says. -/
def lanesGo (i : Instr) (act : Env → State → Option (State × Option Why)) : List Env → State → Option State
  | [], s => some s
  | e :: es, s => (act e s).bind (fun r =>
    match r.2 with
    | none => lanesGo i act es (completeLane r.1 e.key i e)
    | some w =>
      if (r.1.thread e.key).status = .ready then
        lanesGo i act es (r.1.updThread e.key (fun th => { th with
          status := .blocked ⟨w, i, e, 0⟩, age := 0, pc := if holdsPc i then e.unit else e.npc
          hints := Hints.empty, unit := none }))
      else none)

/-- Where every thread of the bundle can do `act` or come to wait at its turn, and no thread of the slot is then to trap, `exec i`
answers the state after all of them. -/
def Goes (s : State) (bd : Bundle) (i : Instr) (act : Env → State → Option (State × Option Why)) : Prop :=
  ∀ t, lanesGo i act (s.operandsAll bd i) s.issued = some t → t.Quiet bd → exec i s = .next t

/-- Whether an access of `n` bytes lies in the Well window, or in the global one (R17, R18). -/
def inWell (va : Word) (n : Nat) : Bool := match windowOf va n with | .well _ _ => true | _ => false
def isGlobal (va : Word) (n : Nat) : Bool := match windowOf va n with | .glob => true | _ => false

/-- The place of a lane's access: the checks of R36 pass, no watchpoint is hit (R401), and the thread holds every ink that
the access touches (R120). -/
def State.placed (s : State) (e : Env) (a : Access) (load store : Bool) : Option (Place × State) :=
  match checkAccess s a with
  | (.ok p, u) =>
    if (watchHit u a.ctx a.va.toNat a.size load store).isNone && p.inks.all (fun j => (u.thread e.key).holdsInk j) then
      some (p, u)
    else none
  | _ => none

/-- A byte address of a scratchpad (false) or of a Well bank (true), where `n` bytes stand at an address: the checks of R18
to R20, R77, R207, R359 and R390 pass, and no watchpoint is enabled (R401). -/
def State.near (s : State) (e : Env) (n align : Nat) : Option (Bool × Nat) :=
  if bitAt (s.ctx e.ctx).dbgctl 2 then none
  else match windowOf e.addr n with
  | .scr i o =>
    match scratchAt s e.team i o n with
    | some (key, core) => if e.addr.toNat % align = 0 ∧ awaited s core key n = false then some (false, key) else none
    | none => none
  | .well d o =>
    if wellBounds s e.ctx d o n = true ∧ e.addr.toNat % n = 0 ∧ wellFilling s (o + n - 1) = false
        ∧ headHeld s (wellKey d o) n noCmd = false then
      some (true, wellKey d o)
    else none
  | _ => none

/-- Bytes at such an address. -/
def State.nearRead (s : State) (p : Bool × Nat) (n : Nat) : List Byte :=
  Memory.readN (if p.1 then s.well else s.scratch) p.2 n

/-- Whether they are poisoned (R81). -/
def State.nearPoisoned (s : State) (p : Bool × Nat) (n : Nat) : Bool :=
  poisonedRange s (if p.1 then poisonWell else poisonScratch) p.2 n

/-! ### Numbers of an integer type (R201) -/

end Machine

/-- The number a sub-element of an integer type stands for. -/
def IT.value (t : IT) (x : Nat) : Int := if t.signed then (BitVec.ofNat t.bits x).toInt else (x : Int)

/-- The least and the largest number of an integer type. -/
def IT.low (t : IT) : Int := if t.signed then -(2 ^ (t.bits - 1)) else 0
def IT.high (t : IT) : Int := if t.signed then 2 ^ (t.bits - 1) - 1 else 2 ^ t.bits - 1

/-- The `w` bits of an integer, modulo 2^w. -/
def wrapTo (w : Nat) (x : Int) : Nat := (x % (2 ^ w : Int)).toNat

end Sys2Proof
end

