-- ==== Sys2Proof/WellFormed.lean ====
section
/-! DEFINITION. Which instructions are well formed: every check of R178 on the words of the unit passes, each operand
code stands for itself, and the machine's own steps are no words. -/

namespace Sys2Proof

/-- A well-formed unit: its hints and the instruction they apply to. -/
abbrev WellFormedUnit (h : Hints) (i : Instr) : Prop := formCheck h i = none ∧ i.canonical = true

/-- A well-formed instruction in a unit of its own. -/
abbrev WellFormed (i : Instr) : Prop := WellFormedUnit Hints.empty i

/-- An instruction that some word encodes, each field a code of its own. -/
abbrev Encodable (i : Instr) : Prop := (encodeWord i).isSome = true ∧ i.canonical = true

end Sys2Proof
end

