-- ==== Sys2Proof/Certificates/Slice0/Obligations.lean ====
section
/-! DEFINITION. The statements for the provers. -/

open Sys2Proof Sys2Proof.Machine

namespace Sys2Proof



/-- Words of one op read as `f` of their operand b: whatever operand and further words the code of b takes (R176, R181). -/
def WordReads (x : W32) (ws : List W32) (f : Opnd → Instr) : Prop :=
  ∀ b rest, Opnd.read (x.extractLsb' 0 8) ws = .ok (b, rest) → decodeWord x ws = .ok (f b, rest)

/-- A form raises ILLEGAL, before any effect, in whatever unit it stands (R178). -/
def IsIllegal (h : Hints) (i : Instr) : Prop :=
  ∀ (s : State) (th : Thread), issueCheck s { th with hints := h } i = .trap (trapOf causeIllegal)

/-! ### Integer forms (R253 to R262) -/

end Sys2Proof

/-- R253 and R254: add, sub, mul and mad in each sub-element, modulo 2^w. -/
def Obligations.IntegerAddMultiply : Prop :=
  ∀ (s : State) (bd : Bundle) (sw : Bool) (w : W) (d a : BitVec 7) (b : Opnd),
    (Issues s bd (.add sw w d a b) →
      ShortForm s bd (.add sw w d a b) d w.bits (fun th => th.getV a.toNat) (s.opndB (.add sw w d a b) b)
        (fun x y _ => (x + y) % 2 ^ w.bits))
    ∧ (Issues s bd (.sub sw w d a b) →
      ShortForm s bd (.sub sw w d a b) d w.bits (fun th => th.getV a.toNat) (s.opndB (.sub sw w d a b) b)
        (fun x y _ => wrapTo w.bits ((x : Int) - y)))
    ∧ (Issues s bd (.mul sw w d a b) →
      ShortForm s bd (.mul sw w d a b) d w.bits (fun th => th.getV a.toNat) (s.opndB (.mul sw w d a b) b)
        (fun x y _ => x * y % 2 ^ w.bits))
    ∧ (Issues s bd (.mad sw w d a b) →
      ShortForm s bd (.mad sw w d a b) d w.bits (fun th => th.getV a.toNat) (s.opndB (.mad sw w d a b) b)
        (fun x y z => (z + x * y) % 2 ^ w.bits))

/-- R253 and R254: the forms whose type gives signedness: saturating sums, the high product, the smaller and the larger. -/
def Obligations.IntegerTyped : Prop :=
  ∀ (s : State) (bd : Bundle) (sw : Bool) (t : IT) (d a : BitVec 7) (b : Opnd),
    (Issues s bd (.addSat sw t d a b) →
      ShortForm s bd (.addSat sw t d a b) d t.bits (fun th => th.getV a.toNat) (s.opndB (.addSat sw t d a b) b)
        (fun x y _ => wrapTo t.bits (max t.low (min t.high (t.value x + t.value y)))))
    ∧ (Issues s bd (.subSat sw t d a b) →
      ShortForm s bd (.subSat sw t d a b) d t.bits (fun th => th.getV a.toNat) (s.opndB (.subSat sw t d a b) b)
        (fun x y _ => wrapTo t.bits (max t.low (min t.high (t.value x - t.value y)))))
    ∧ (Issues s bd (.mulh sw t d a b) →
      ShortForm s bd (.mulh sw t d a b) d t.bits (fun th => th.getV a.toNat) (s.opndB (.mulh sw t d a b) b)
        (fun x y _ => wrapTo (2 * t.bits) (t.value x * t.value y) / 2 ^ t.bits))
    ∧ (Issues s bd (.min sw t d a b) →
      ShortForm s bd (.min sw t d a b) d t.bits (fun th => th.getV a.toNat) (s.opndB (.min sw t d a b) b)
        (fun x y _ => if t.value x ≤ t.value y then x else y))
    ∧ (Issues s bd (.max sw t d a b) →
      ShortForm s bd (.max sw t d a b) d t.bits (fun th => th.getV a.toNat) (s.opndB (.max sw t d a b) b)
        (fun x y _ => if t.value x ≤ t.value y then y else x))

namespace Sys2Proof

/-- R255: the integer type of a DV code. -/
def dvType (t : BitVec 2) : IT :=
  if t = 0#2 then .n32 else if t = 1#2 then .n64 else if t = 2#2 then .i32 else .i64

/-- R255: the thread's unit has a governed sub-element with a zero divisor, and FPCTL.IDZ is 1. -/
def divTraps (s : State) (i : Instr) (b : Opnd) (t : BitVec 2) (th : Thread) : Prop :=
  th.fpctl.getLsbD 8 = true ∧ ∃ j, j < 64 / (dvType t).bits ∧ th.unitMask.getLsbD (j * (dvType t).bits / 8) = true
    ∧ elemAt (dvType t).bits (s.opndB i b th) j = 0

end Sys2Proof

/-- R255: quotients and remainders, truncated toward zero, with the results of overflow and of a zero divisor. Each thread that has a
governed zero divisor and IDZ = 1 raises DIV0 before any effect, and the others have their results. -/
def Obligations.IntegerDivision : Prop :=
  ∀ (s : State) (bd : Bundle) (sw : Bool) (t : BitVec 2) (d a : BitVec 7) (b : Opnd),
    let w := (dvType t).bits
    let value := (dvType t).value
    let quotient (x y _ : Nat) : Nat := if y = 0 then 2 ^ w - 1 else wrapTo w (Int.tdiv (value x) (value y))
    let remainder (x y _ : Nat) : Nat := if y = 0 then x else wrapTo w (Int.tmod (value x) (value y))
    ∀ i f, (i = .div sw t d a b ∧ f = quotient ∨ i = .rem sw t d a b ∧ f = remainder) → Issues s bd i →
      ((∀ tid ∈ bd.tids, ¬ divTraps s i b t (s.thread (threadKey bd.team tid))) →
        ShortForm s bd i d w (fun th => th.getV a.toNat) (s.opndB i b) f)
      ∧ RaisesOr s bd i (fun _ th x => divTraps s i b t th ∧ x = record 8 0 0 0)
        (ShortResult s i d w (fun th => th.getV a.toNat) (s.opndB i b) f)

/-- R256: the eight logic forms, on all 64 bits, byte-masked. -/
def Obligations.LogicForms : Prop :=
  ∀ (s : State) (bd : Bundle) (sw : Bool) (d a : BitVec 7) (b : Opnd),
    (Issues s bd (.and sw d a b) →
      WideForm s bd (.and sw d a b) d (fun th => th.getV a.toNat &&& s.opndB (.and sw d a b) b th))
    ∧ (Issues s bd (.or sw d a b) →
      WideForm s bd (.or sw d a b) d (fun th => th.getV a.toNat ||| s.opndB (.or sw d a b) b th))
    ∧ (Issues s bd (.xor sw d a b) →
      WideForm s bd (.xor sw d a b) d (fun th => th.getV a.toNat ^^^ s.opndB (.xor sw d a b) b th))
    ∧ (Issues s bd (.andn sw d a b) →
      WideForm s bd (.andn sw d a b) d (fun th => th.getV a.toNat &&& ~~~ s.opndB (.andn sw d a b) b th))
    ∧ (Issues s bd (.orn sw d a b) →
      WideForm s bd (.orn sw d a b) d (fun th => th.getV a.toNat ||| ~~~ s.opndB (.orn sw d a b) b th))
    ∧ (Issues s bd (.xnor sw d a b) →
      WideForm s bd (.xnor sw d a b) d (fun th => ~~~ (th.getV a.toNat ^^^ s.opndB (.xnor sw d a b) b th)))
    ∧ (Issues s bd (.not sw d b) → WideForm s bd (.not sw d b) d (fun th => ~~~ s.opndB (.not sw d b) b th))
    ∧ (Issues s bd (.mov sw d b) → WideForm s bd (.mov sw d b) d (s.opndB (.mov sw d b) b))

/-- R257: the words of op 0x0F and 0x10; shl and shr give 0 and sar copies of the sign bit when the count reaches the width; rol
rotates left by the count modulo the width. The count is the unsigned sub-element of b. -/
def Obligations.Shifts : Prop :=
  (∀ (s : State) (bd : Bundle) (sw : Bool) (w : W) (d a : BitVec 7) (b : Opnd),
    (Issues s bd (.shl sw w d a b) →
      ShortForm s bd (.shl sw w d a b) d w.bits (fun th => th.getV a.toNat) (s.opndB (.shl sw w d a b) b)
        (fun x c _ => if w.bits ≤ c then 0 else (BitVec.ofNat w.bits x <<< c).toNat))
    ∧ (Issues s bd (.shr sw w d a b) →
      ShortForm s bd (.shr sw w d a b) d w.bits (fun th => th.getV a.toNat) (s.opndB (.shr sw w d a b) b)
        (fun x c _ => if w.bits ≤ c then 0 else (BitVec.ofNat w.bits x >>> c).toNat))
    ∧ (Issues s bd (.sar sw w d a b) →
      ShortForm s bd (.sar sw w d a b) d w.bits (fun th => th.getV a.toNat) (s.opndB (.sar sw w d a b) b)
        (fun x c _ => if w.bits ≤ c then (if (BitVec.ofNat w.bits x).msb then 2 ^ w.bits - 1 else 0)
          else ((BitVec.ofNat w.bits x).sshiftRight c).toNat))
    ∧ (Issues s bd (.rol sw w d a b) →
      ShortForm s bd (.rol sw w d a b) d w.bits (fun th => th.getV a.toNat) (s.opndB (.rol sw w d a b) b)
        (fun x c _ => ((BitVec.ofNat w.bits x).rotateLeft (c % w.bits)).toNat)))
  ∧ ∀ (x : W32) (ws : List W32),
    let sw := x.getLsbD 31
    let w := W.ofBits (x.extractLsb' 22 2)
    let d := x.extractLsb' 15 7
    let a := x.extractLsb' 8 7
    (x.extractLsb' 25 6 = 0x0F#6 → WordReads x ws (fun b => if x.getLsbD 24 then .shr sw w d a b else .shl sw w d a b))
    ∧ (x.extractLsb' 25 6 = 0x10#6 → WordReads x ws (fun b => if x.getLsbD 24 then .rol sw w d a b else .sar sw w d a b))

/-- R258: the words of op 0x13, ILLEGAL with a PRE or m0; and the mask of a compare: every bit that a sub-element spans says
whether the sub-element's test holds. -/
def Obligations.IntegerCompare : Prop :=
  (∀ (s : State) (bd : Bundle) (sw : Bool) (t : IT) (c m : BitVec 3) (a : BitVec 7) (b : Opnd),
    Issues s bd (.cmp sw t c m a b) →
      MaskForm s bd (.cmp sw t c m a b) m (fun th k =>
        let x := t.value (elemAt t.bits (th.getV a.toNat) (k / (t.bits / 8)))
        let y := t.value (elemAt t.bits (s.opndB (.cmp sw t c m a b) b th) (k / (t.bits / 8)))
        (c == 0#3 && decide (x = y)) || (c == 1#3 && decide (x ≠ y)) || (c == 2#3 && decide (x < y))
          || (c == 3#3 && decide (x ≤ y)) || (c == 4#3 && decide (y < x)) || (c == 5#3 && decide (y ≤ x))))
  ∧ (∀ (x : W32) (ws : List W32), x.extractLsb' 25 6 = 0x13#6 → x.getLsbD 21 = false → WordReads x ws (fun b =>
      .cmp (x.getLsbD 31) (IT.ofBits (x.extractLsb' 22 3)) (x.extractLsb' 18 3) (x.extractLsb' 15 3) (x.extractLsb' 8 7) b))
  ∧ ∀ (h : Hints) (sw : Bool) (t : IT) (c m : BitVec 3) (a : BitVec 7) (b : Opnd),
    h.pre ≠ none ∨ m = 0#3 → IsIllegal h (.cmp sw t c m a b)

/-- R259 and R262: the words of op 0x15 and 0x16; sel, ILLEGAL with a PRE, takes each byte by its own mask bit, and the bit
fields: bfe and bfe.i write the field [hi−1:p] of a to the low bits of d, extended by zeros or by the field's top bit, and bfi
writes the low bits of a into the field. -/
def Obligations.SelectAndBitFields : Prop :=
  (∀ (s : State) (bd : Bundle) (sw : Bool) (m : BitVec 3) (d a : BitVec 7) (b : Opnd),
    let p (x : Word) : Nat := (x.extractLsb' 0 6).toNat
    let hi (x : Word) : Nat := min (p x + min (x.extractLsb' 8 7).toNat 64) 64
    (Issues s bd (.sel sw m d a b) →
      EachThread s bd (.sel sw m d a b) (fun e th th' => ∃ x : Word,
        th' = th.wroteV s.now (.sel sw m d a b) e d.toNat x ∧ ∀ k, k < 64 → x.getLsbD k =
          if (th.getM m.toNat).getLsbD (k / 8) then (th.getV a.toNat).getLsbD k
          else (s.opndB (.sel sw m d a b) b th).getLsbD k))
    ∧ (Issues s bd (.bfe sw d a b) →
      WideForm s bd (.bfe sw d a b) d (fun th =>
        let y := s.opndB (.bfe sw d a b) b th
        ((th.getV a.toNat).extractLsb' (p y) (hi y - p y)).setWidth 64))
    ∧ (Issues s bd (.bfeI sw d a b) →
      WideForm s bd (.bfeI sw d a b) d (fun th =>
        let y := s.opndB (.bfeI sw d a b) b th
        ((th.getV a.toNat).extractLsb' (p y) (hi y - p y)).signExtend 64))
    ∧ (Issues s bd (.bfi sw d a b) →
      EachThread s bd (.bfi sw d a b) (fun e th th' => ∃ x : Word,
        th' = th.wroteV s.now (.bfi sw d a b) e d.toNat x ∧ ∀ k, k < 64 → x.getLsbD k =
          let y := s.opndB (.bfi sw d a b) b th
          if th.unitMask.getLsbD (k / 8) then
            if p y ≤ k ∧ k < hi y then (th.getV a.toNat).getLsbD (k - p y) else (th.getV d.toNat).getLsbD k
          else if th.unitZ then false else (th.getV d.toNat).getLsbD k)))
  ∧ (∀ (x : W32) (ws : List W32),
    let sw := x.getLsbD 31
    let m := x.extractLsb' 22 3
    let d := x.extractLsb' 15 7
    let a := x.extractLsb' 8 7
    (x.extractLsb' 25 6 = 0x15#6 → WordReads x ws (fun b => .sel sw m d a b))
    ∧ (x.extractLsb' 25 6 = 0x16#6 → m = 0#3 → WordReads x ws (fun b => .bfe sw d a b))
    ∧ (x.extractLsb' 25 6 = 0x16#6 → m = 1#3 → WordReads x ws (fun b => .bfeI sw d a b))
    ∧ (x.extractLsb' 25 6 = 0x16#6 → m = 2#3 → WordReads x ws (fun b => .bfi sw d a b)))
  ∧ ∀ (h : Hints) (sw : Bool) (m : BitVec 3) (d a : BitVec 7) (b : Opnd), h.pre ≠ none → IsIllegal h (.sel sw m d a b)

/-- R260: the words of op 0x14, whose a[6:3] is zero; abs is ILLEGAL of an unsigned type; abs, neg, clz and popc of each sub-
element of b. -/
def Obligations.IntegerUnary : Prop :=
  (∀ (s : State) (bd : Bundle) (sw : Bool) (d : BitVec 7) (t : IT) (b : Opnd),
    (Issues s bd (.abs sw d t b) →
      ShortForm s bd (.abs sw d t b) d t.bits (fun _ => 0) (s.opndB (.abs sw d t b) b)
        (fun _ y _ => wrapTo t.bits |t.value y|))
    ∧ (Issues s bd (.neg sw d t b) →
      ShortForm s bd (.neg sw d t b) d t.bits (fun _ => 0) (s.opndB (.neg sw d t b) b)
        (fun _ y _ => wrapTo t.bits (-(y : Int))))
    ∧ (Issues s bd (.clz sw d t b) →
      ShortForm s bd (.clz sw d t b) d t.bits (fun _ => 0) (s.opndB (.clz sw d t b) b)
        (fun _ y _ => (BitVec.ofNat t.bits y).clz.toNat))
    ∧ (Issues s bd (.popc sw d t b) →
      ShortForm s bd (.popc sw d t b) d t.bits (fun _ => 0) (s.opndB (.popc sw d t b) b)
        (fun _ y _ => ((List.range t.bits).countP (fun k => y.testBit k)))))
  ∧ (∀ (x : W32) (ws : List W32),
    let sw := x.getLsbD 31
    let k := x.extractLsb' 22 3
    let d := x.extractLsb' 15 7
    let t := IT.ofBits (x.extractLsb' 8 3)
    x.extractLsb' 25 6 = 0x14#6 →
    (k.toNat < 4 → x.extractLsb' 11 4 ≠ 0#4 → ∃ e, decodeWord x ws = .error e)
    ∧ (x.extractLsb' 11 4 = 0#4 →
      (k = 0#3 → WordReads x ws (fun b => .abs sw d t b)) ∧ (k = 1#3 → WordReads x ws (fun b => .neg sw d t b))
      ∧ (k = 2#3 → WordReads x ws (fun b => .clz sw d t b)) ∧ (k = 3#3 → WordReads x ws (fun b => .popc sw d t b))))
  ∧ ∀ (h : Hints) (sw : Bool) (d : BitVec 7) (t : IT) (b : Opnd), t.signed = false → IsIllegal h (.abs sw d t b)

/-- R261: integer cvt: sub-element i at the source width becomes sub-element i at the destination width; those past
64 / max(ws, wd) are written 0. Without saturation the value is kept modulo 2^wd, with it clamped. -/
def Obligations.IntegerConversion : Prop :=
  ∀ (s : State) (bd : Bundle) (sw : Bool) (d : BitVec 7) (u : Bool) (y z : IT) (b : Opnd),
    let i : Instr := .cvtInt sw d u y z b
    Issues s bd i →
      EachThread s bd i (fun e th th' => ∃ x : Word, th' = th.wroteV s.now i e d.toNat x ∧ ∀ j, j < 64 / y.bits →
        elemAt y.bits x j =
          if th.unitMask.getLsbD (j * y.bits / 8) then
            if j < 64 / max z.bits y.bits then
              let v := z.value (elemAt z.bits (s.opndB i b th) j)
              wrapTo y.bits (if u then max y.low (min y.high v) else v)
            else 0
          else if th.unitZ then 0 else elemAt y.bits (th.getV d.toNat) j)

/-! ### Moves and system registers (R200, R252, R263, R264) -/

namespace Sys2Proof

/-- R200, R252, R263 and R264: what the moves between register files write; the latency of rdfpf is log entry 46's. -/
def RegisterMoves : Prop :=
  ∀ (s : State) (bd : Bundle) (sw : Bool) (d : BitVec 7) (k : BitVec 3) (n : BitVec 18),
    (Issues s bd (.movk sw d k) → WordForm s bd (.movk sw d k) d (fun _ th =>
      match th.holds[k.toNat]? with
      | none => 0
      | some h => BitVec.ofNat 64 (2 ^ 63 + (if h.w then 2 ^ 62 else 0) + (if h.h then 2 ^ 61 else 0)
          + (if h.cmds = [] then 0 else 2 ^ 60) + h.depth % 2 ^ 16 * 2 ^ 32 + h.ink % 2 ^ 12)))
    ∧ (Issues s bd (.movm sw d k) → WordForm s bd (.movm sw d k) d (fun _ th =>
      if k = 0#3 then 0xFF#64 else (th.getM k.toNat).setWidth 64))
    ∧ (Issues s bd (.movq sw d k) → WordForm s bd (.movq sw d k) d (fun _ _ => (s.team bd.team).getQ k.toNat))
    ∧ (Issues s bd (.movi sw d n) → WordForm s bd (.movi sw d n) d (fun _ _ => n.signExtend 64))
    ∧ (Issues s bd (.lea sw d n) → WordForm s bd (.lea sw d n) d (fun _ _ => bd.pc + 4 + 4 * n.signExtend 64))
    ∧ (Issues s bd (.rdfpf sw d) → WordForm s bd (.rdfpf sw d) d (fun _ th => th.fpf.setWidth 64))

/-- R182 and R263: setm writes the low byte of b; no form writes m0, which reads all ones. R252: clfpf clears the bits of
FPF that b sets. -/
def MaskAndFlagWrites : Prop :=
  ∀ (s : State) (bd : Bundle) (sw : Bool) (m : BitVec 3) (b : Opnd),
    (Issues s bd (.setm sw m b) →
      MaskForm s bd (.setm sw m b) m (fun th k => (s.opndB (.setm sw m b) b th).getLsbD k)
      ∧ m ≠ 0#3)
    ∧ (Issues s bd (.clfpf sw b) → ThreadForm s bd (.clfpf sw b) (fun _ th =>
      { th with fpf := th.fpf &&& ~~~ ((s.opndB (.clfpf sw b) b th).setWidth 6) }))
    ∧ ∀ th : Thread, th.getM 0 = 0xFF#8

end Sys2Proof

/-- R182, R200, R252, R263 and R264: the moves between register files, and what writes a mask register or FPF. -/
def Obligations.Moves : Prop := RegisterMoves ∧ MaskAndFlagWrites

/-! ### Floating point (R274 to R303) -/

namespace Sys2Proof

/-- A source sub-element as a thread reads it (R274): under FTZ a subnormal is a zero of its sign and sets DF. -/
def floatSrc (f : FT) (th : Thread) (x : Word) (j : Nat) : FVal × BitVec 6 := f.source th.ftz (elemAt f.bits x j)

end Sys2Proof

/-- R285, R292 and R293: the sums, the product, scale, fma and fms, each rounded once in the unit's mode. A count of scale
past ±1000, which is past every format's range, acts as ±1000. R290: a thread that would set a flag whose trap it has enabled raises
FPX before any effect, and the others have their results. -/
def Obligations.FloatArithmetic : Prop :=
  ∀ (s : State) (bd : Bundle) (sw : Bool) (f : FT) (d a : BitVec 7) (b : Opnd),
    let A (th : Thread) (j : Nat) := floatSrc f th (th.getV a.toNat) j
    let B (i : Instr) (th : Thread) (j : Nat) := floatSrc f th (s.opndB i b th) j
    let D (th : Thread) (j : Nat) := floatSrc f th (th.getV d.toNat) j
    let sum (th : Thread) (ts : List Term) : FRes := (sumTerms ts).round f (th.mode .rne) th.ftz
    let Form (i : Instr) (r : Thread → Nat → FRes) : Prop := FloatForm s bd i d f.bits r ∧ FloatTraps s bd i d f.bits r
    (Issues s bd (.addF sw f d a b) → Form (.addF sw f d a b) (fun th j =>
      let x := A th j
      let y := B (.addF sw f d a b) th j
      (sum th [.val x.1, .val y.1]).more (x.2 ||| y.2)))
    ∧ (Issues s bd (.subF sw f d a b) → Form (.subF sw f d a b) (fun th j =>
      let x := A th j
      let y := B (.subF sw f d a b) th j
      (sum th [.val x.1, .val y.1.neg]).more (x.2 ||| y.2)))
    ∧ (Issues s bd (.mulF sw f d a b) → Form (.mulF sw f d a b) (fun th j =>
      let x := A th j
      let y := B (.mulF sw f d a b) th j
      (match FVal.mul x.1 y.1 with
        | .invalid => ⟨f.qnan, flagNV⟩
        | .val v => f.deliver (th.mode .rne) th.ftz v : FRes).more (x.2 ||| y.2)))
    ∧ (Issues s bd (.scale sw f d a b) → Form (.scale sw f d a b) (fun th j =>
      let x := A th j
      let n := (BitVec.ofNat f.bits (elemAt f.bits (s.opndB (.scale sw f d a b) b th) j)).toInt
      (match x.1 with
        | .fin neg m e => f.round (th.mode .rne) th.ftz neg m (e + max (-1000) (min 1000 n))
        | v => f.deliver (th.mode .rne) th.ftz v : FRes).more x.2))
    ∧ (Issues s bd (.fma sw f d a b) → Form (.fma sw f d a b) (fun th j =>
      let x := A th j
      let y := B (.fma sw f d a b) th j
      let z := D th j
      (sum th [FVal.mul x.1 y.1, .val z.1]).more (x.2 ||| y.2 ||| z.2)))
    ∧ (Issues s bd (.fms sw f d a b) → Form (.fms sw f d a b) (fun th j =>
      let x := A th j
      let y := B (.fms sw f d a b) th j
      let z := D th j
      (sum th [FVal.mul x.1 y.1, .val z.1.neg]).more (x.2 ||| y.2 ||| z.2)))

namespace Sys2Proof

/-- R294: the operand that a minimum or a maximum delivers, −0 below +0; `num` is minimumNumber and maximumNumber. -/
def chosen (larger num : Bool) (x y : FVal) : FVal :=
  if x.isNan && y.isNan then .nan false
  else if x.isNan then (if num then y else .nan false)
  else if y.isNan then (if num then x else .nan false)
  else if FVal.le x y then (if larger then y else x) else (if larger then x else y)

end Sys2Proof

/-- R294: minima and maxima: no flag but DF of a source and NV of a signalling NaN. -/
def Obligations.FloatMinMax : Prop :=
  ∀ (s : State) (bd : Bundle) (sw : Bool) (f : FT) (d a : BitVec 7) (b : Opnd),
    let r (larger num : Bool) (i : Instr) (th : Thread) (j : Nat) : FRes :=
      let x := floatSrc f th (th.getV a.toNat) j
      let y := floatSrc f th (s.opndB i b th) j
      (f.deliver .rne th.ftz (chosen larger num x.1 y.1)).more
        (x.2 ||| y.2 ||| if x.1.isSnan || y.1.isSnan then flagNV else 0)
    (Issues s bd (.minF sw f d a b) →
      FloatForm s bd (.minF sw f d a b) d f.bits (r false false (.minF sw f d a b)))
    ∧ (Issues s bd (.minnum sw f d a b) →
      FloatForm s bd (.minnum sw f d a b) d f.bits (r false true (.minnum sw f d a b)))
    ∧ (Issues s bd (.maxF sw f d a b) →
      FloatForm s bd (.maxF sw f d a b) d f.bits (r true false (.maxF sw f d a b)))
    ∧ (Issues s bd (.maxnum sw f d a b) →
      FloatForm s bd (.maxnum sw f d a b) d f.bits (r true true (.maxnum sw f d a b)))

/-- R295 and R296: neg, abs and copysign act on the sign bit alone, and class writes the one bit of its table; none of
them sets a flag. -/
def Obligations.FloatSignAndClass : Prop :=
  ∀ (s : State) (bd : Bundle) (sw : Bool) (f : FT) (d a : BitVec 7) (b : Opnd),
    let top := 2 ^ (f.bits - 1)
    (Issues s bd (.negF sw f d b) →
      ShortForm s bd (.negF sw f d b) d f.bits (fun _ => 0) (s.opndB (.negF sw f d b) b) (fun _ y _ => y ^^^ top))
    ∧ (Issues s bd (.absF sw f d b) →
      ShortForm s bd (.absF sw f d b) d f.bits (fun _ => 0) (s.opndB (.absF sw f d b) b) (fun _ y _ => y &&& (top - 1)))
    ∧ (Issues s bd (.copysign sw f d a b) →
      ShortForm s bd (.copysign sw f d a b) d f.bits (fun th => th.getV a.toNat) (s.opndB (.copysign sw f d a b) b)
        (fun x y _ => (x &&& (top - 1)) ||| (y &&& top)))
    ∧ (Issues s bd (.fclass sw f d b) →
      ShortForm s bd (.fclass sw f d b) d f.bits (fun _ => 0) (s.opndB (.fclass sw f d b) b) (fun _ y _ =>
        let neg := top ≤ y
        let expn := y / 2 ^ f.trail % 2 ^ f.expBits
        let frac := y % 2 ^ f.trail
        if expn = 2 ^ f.expBits - 1 then
          if frac = 0 then (if neg then 2 ^ 2 else 2 ^ 9) else if frac < 2 ^ (f.trail - 1) then 2 ^ 0 else 2 ^ 1
        else if expn = 0 then
          if frac = 0 then (if neg then 2 ^ 5 else 2 ^ 6) else (if neg then 2 ^ 4 else 2 ^ 7)
        else if neg then 2 ^ 3 else 2 ^ 8))

/-- R297: the float compares. NV comes of a signalling NaN, and of any NaN where the condition is an order; −0 equals +0. -/
def Obligations.FloatCompare : Prop :=
  ∀ (s : State) (bd : Bundle) (sw : Bool) (f : FT) (c m : BitVec 3) (a : BitVec 7) (b : Opnd),
    let i : Instr := .cmpF sw f c m a b
    let x (th : Thread) (j : Nat) := floatSrc f th (th.getV a.toNat) j
    let y (th : Thread) (j : Nat) := floatSrc f th (s.opndB i b th) j
    let un (th : Thread) (j : Nat) : Bool := (x th j).1.isNan || (y th j).1.isNan
    let holds (th : Thread) (j : Nat) : Bool :=
      (c == 0#3 && !un th j && FVal.eq (x th j).1 (y th j).1)
        || (c == 1#3 && (un th j || !FVal.eq (x th j).1 (y th j).1))
        || (c == 2#3 && !un th j && FVal.lt (x th j).1 (y th j).1)
        || (c == 3#3 && !un th j && (FVal.lt (x th j).1 (y th j).1 || FVal.eq (x th j).1 (y th j).1))
        || (c == 4#3 && !un th j && FVal.lt (y th j).1 (x th j).1)
        || (c == 5#3 && !un th j && (FVal.lt (y th j).1 (x th j).1 || FVal.eq (x th j).1 (y th j).1))
        || (c == 6#3 && un th j) || (c == 7#3 && !un th j)
    let nv (th : Thread) (j : Nat) : Bool :=
      (x th j).1.isSnan || (y th j).1.isSnan || (un th j && decide (2 ≤ c.toNat ∧ c.toNat ≤ 5))
    let flags (th : Thread) (j : Nat) : BitVec 6 := (x th j).2 ||| (y th j).2 ||| if nv th j then flagNV else 0
    Issues s bd i →
    (∀ tid ∈ bd.tids, ∀ j, j < 64 / f.bits →
      flags (s.thread (threadKey bd.team tid)) j &&& (s.thread (threadKey bd.team tid)).te = 0) →
    EachThread s bd i (fun e th th' => ∃ (q : BitVec 8) (fl : BitVec 6),
      th' = ({ th with fpf := fl } : Thread).wroteM s.now i e m.toNat q
      ∧ (∀ k, k < 8 → q.getLsbD k = holds th (k / (f.bits / 8)))
      ∧ ∀ k, k < 6 → fl.getLsbD k =
        (th.fpf.getLsbD k || decide (∃ j, j < 64 / f.bits ∧ (flags th j).getLsbD k = true)))

/-- R298: fdot2 sums two products into each binary32 sub-element and fdot4 all four into sub-element 0, each one exact
sum rounded once; R299: rsum and rmax combine neighbours in a tree into sub-element 0. The rest is +0 with no flag. -/
def Obligations.FloatAcross : Prop :=
  ∀ (s : State) (bd : Bundle) (sw : Bool) (f : FT) (d a : BitVec 7) (b : Opnd),
    let dot (i : Instr) (th : Thread) (ks : List Nat) (j : Nat) : FRes :=
      let x (k : Nat) := floatSrc f th (th.getV a.toNat) k
      let y (k : Nat) := floatSrc f th (s.opndB i b th) k
      let z := floatSrc .f32 th (th.getV d.toNat) j
      ((sumTerms (ks.map (fun k => FVal.mul (x k).1 (y k).1) ++ [.val z.1])).round .f32 (th.mode .rne) th.ftz).more
        (ks.foldl (fun fl k => fl ||| ((x k).2 ||| (y k).2)) z.2)
    let leaf (i : Instr) (th : Thread) (k : Nat) : FRes :=
      let y := elemAt f.bits (s.opndB i b th) k
      if th.ftz && f.subnormal y then ⟨f.zeroBits (decide (2 ^ (f.bits - 1) ≤ y)), flagDF⟩ else ⟨y, 0⟩
    let tree (node : FRes → FRes → FRes) (l : Nat → FRes) : FRes :=
      if f.bits = 32 then node (l 0) (l 1) else node (node (l 0) (l 1)) (node (l 2) (l 3))
    let plus (th : Thread) (p q : FRes) : FRes :=
      ((sumTerms [.val (f.decode p.bits), .val (f.decode q.bits)]).round f (th.mode .rne) th.ftz).more
        (p.flags ||| q.flags)
    let larger (p q : FRes) : FRes :=
      (f.deliver .rne false (chosen true false (f.decode p.bits) (f.decode q.bits))).more (p.flags ||| q.flags
        ||| if (f.decode p.bits).isSnan || (f.decode q.bits).isSnan then flagNV else 0)
    (Issues s bd (.fdot2 sw f d a b) → FloatForm s bd (.fdot2 sw f d a b) d 32 (fun th j =>
      dot (.fdot2 sw f d a b) th [2 * j, 2 * j + 1] j))
    ∧ (Issues s bd (.fdot4 sw f d a b) → FloatForm s bd (.fdot4 sw f d a b) d 32 (fun th j =>
      if j = 0 then dot (.fdot4 sw f d a b) th [0, 1, 2, 3] 0 else ⟨0, 0⟩))
    ∧ (Issues s bd (.rsum sw f d b) → FloatForm s bd (.rsum sw f d b) d f.bits (fun th j =>
      if j = 0 then tree (plus th) (leaf (.rsum sw f d b) th) else ⟨0, 0⟩))
    ∧ (Issues s bd (.rmax sw f d b) → FloatForm s bd (.rmax sw f d b) d f.bits (fun th j =>
      if j = 0 then tree larger (leaf (.rmax sw f d b) th) else ⟨0, 0⟩))

/-- R203, R275, R282, R283 and R303: the conversions: sub-element j of the source becomes sub-element j of the
destination, in the unit's mode; those past the last source are 0. A conversion to an integer rounds toward zero unless
its unit says otherwise; out of range it sets NV alone, to INT8 by log entry 65, the model's reading. -/
def Obligations.FloatConversions : Prop :=
  ∀ (s : State) (bd : Bundle) (sw : Bool) (d : BitVec 7) (u h : Bool) (f g : FT) (t : BitVec 5) (b : Opnd),
    let each (i : Instr) (ws wd : Nat) (one : Thread → Nat → FRes) (th : Thread) (j : Nat) : FRes :=
      if j < 64 / max ws wd then one th (elemAt ws (s.opndB i b th) j) else ⟨0, 0⟩
    let read (f : FT) (k : Thread → FVal → FRes) (th : Thread) (x : Nat) : FRes :=
      (k th (f.source th.ftz x).1).more (f.source th.ftz x).2
    let tiny : Tiny := ⟨8, t.getLsbD 4, t.getLsbD 3, (t.extractLsb' 0 3).toNat⟩
    let ofTiny (f : FT) (th : Thread) (x : Nat) : FRes := f.deliver (th.mode .rne) th.ftz (tiny.decode x)
    let toTiny (th : Thread) (v : FVal) : FRes := tiny.convert (th.mode .rne) u v
    let w := if h then 32 else 8
    (Issues s bd (.cvtFloatFloat sw d f g b) → FloatForm s bd (.cvtFloatFloat sw d f g b) d g.bits
      (each (.cvtFloatFloat sw d f g b) f.bits g.bits (read f (fun th v => g.deliver (th.mode .rne) th.ftz v))))
    ∧ (Issues s bd (.cvtF32Binary8 sw d u t b) → FloatForm s bd (.cvtF32Binary8 sw d u t b) d 8
      (each (.cvtF32Binary8 sw d u t b) 32 8 (read .f32 toTiny)))
    ∧ (Issues s bd (.cvtF16Binary8 sw d u t b) → FloatForm s bd (.cvtF16Binary8 sw d u t b) d 8
      (each (.cvtF16Binary8 sw d u t b) 16 8 (read .f16 toTiny)))
    ∧ (Issues s bd (.cvtBf16Binary8 sw d u t b) → FloatForm s bd (.cvtBf16Binary8 sw d u t b) d 8
      (each (.cvtBf16Binary8 sw d u t b) 16 8 (read .bf16 toTiny)))
    ∧ (Issues s bd (.cvtBinary8F32 sw d t b) → FloatForm s bd (.cvtBinary8F32 sw d t b) d 32
      (each (.cvtBinary8F32 sw d t b) 8 32 (ofTiny .f32)))
    ∧ (Issues s bd (.cvtBinary8F16 sw d t b) → FloatForm s bd (.cvtBinary8F16 sw d t b) d 16
      (each (.cvtBinary8F16 sw d t b) 8 16 (ofTiny .f16)))
    ∧ (Issues s bd (.cvtBinary8Bf16 sw d t b) → FloatForm s bd (.cvtBinary8Bf16 sw d t b) d 16
      (each (.cvtBinary8Bf16 sw d t b) 8 16 (ofTiny .bf16)))
    ∧ (Issues s bd (.cvtFloatInteger sw d false f h b) → FloatForm s bd (.cvtFloatInteger sw d false f h b) d w
      (each (.cvtFloatInteger sw d false f h b) f.bits w (read f (fun th v => toInteger w (th.mode .rtz) v))))
    ∧ (Issues s bd (.cvtFloatInteger sw d true f h b) → FloatForm s bd (.cvtFloatInteger sw d true f h b) d f.bits
      (each (.cvtFloatInteger sw d true f h b) w f.bits (fun th x =>
        let v := (BitVec.ofNat w x).toInt
        f.deliver (th.mode .rne) th.ftz (.fin (decide (v < 0)) v.natAbs 0))))

namespace Sys2Proof

/-- R300 and R301: the special functions are long; each governed sub-element of the result is what the function makes of that
of b, the others keep the old v(d) or are 0, and the flags are those of the governed ones. -/
def SpecialForms : Prop :=
  ∀ (s : State) (bd : Bundle) (sw : Bool) (d : BitVec 7) (f : FT) (b : Opnd),
    let P (i : Instr) (fn : SpecialFn) (_ : Env) (th : Thread) (x : Word) (fl : BitVec 6) : Prop :=
      let r (j : Nat) : FRes := specialBits fn f th.ftz (elemAt f.bits (s.opndB i b th) j)
      (∀ j, j < 64 / f.bits → elemAt f.bits x j =
        if th.unitMask.getLsbD (j * f.bits / 8) then (r j).bits % 2 ^ f.bits
        else if th.unitZ then 0 else elemAt f.bits (th.getV d.toNat) j)
      ∧ ∀ k, k < 6 → fl.getLsbD k = decide (∃ j, j < 64 / f.bits
        ∧ th.unitMask.getLsbD (j * f.bits / 8) = true ∧ (r j).flags.getLsbD k = true)
    (Issues s bd (.rcp sw d f b) → LongForm s bd (.rcp sw d f b) (P (.rcp sw d f b) .rcp))
    ∧ (Issues s bd (.rsqrt sw d f b) → LongForm s bd (.rsqrt sw d f b) (P (.rsqrt sw d f b) .rsqrt))
    ∧ (Issues s bd (.sqrt sw d f b) → LongForm s bd (.sqrt sw d f b) (P (.sqrt sw d f b) .sqrt))
    ∧ (Issues s bd (.exp2 sw d f b) → LongForm s bd (.exp2 sw d f b) (P (.exp2 sw d f b) .exp2))
    ∧ (Issues s bd (.log2 sw d f b) → LongForm s bd (.log2 sw d f b) (P (.log2 sw d f b) .log2))
    ∧ (Issues s bd (.tanh sw d f b) → LongForm s bd (.tanh sw d f b) (P (.tanh sw d f b) .tanh))

/-- R301: the results and flags of the special inputs, by function: of a NaN, of the infinities, of the zeros, and of the numbers
below 0 that have no result. -/
def SpecialInputs : Prop :=
  ∀ (f : FT) (ftz : Bool) (x : Nat),
    let v := (f.source ftz x).1
    let gives (fn : SpecialFn) (bits : Nat) (fl : BitVec 6) : Prop :=
      specialBits fn f ftz x = ⟨bits, fl ||| (f.source ftz x).2⟩
    let one (neg : Bool) : Nat := f.zeroBits neg + (2 ^ (f.expBits - 1) - 1) * 2 ^ f.trail
    (∀ sig, v = .nan sig → ∀ fn, gives fn f.qnan (if sig then flagNV else 0))
    ∧ (v = .inf true → gives .rcp (f.zeroBits true) 0 ∧ gives .rsqrt f.qnan flagNV ∧ gives .sqrt f.qnan flagNV
      ∧ gives .exp2 (f.zeroBits false) 0 ∧ gives .log2 f.qnan flagNV ∧ gives .tanh (one true) 0)
    ∧ (v = .inf false → gives .rcp (f.zeroBits false) 0 ∧ gives .rsqrt (f.zeroBits false) 0 ∧ gives .sqrt (f.infBits false) 0
      ∧ gives .exp2 (f.infBits false) 0 ∧ gives .log2 (f.infBits false) 0 ∧ gives .tanh (one false) 0)
    ∧ (∀ neg e, v = .fin neg 0 e → gives .rcp (f.infBits neg) flagDZ ∧ gives .rsqrt (f.infBits neg) flagDZ
      ∧ gives .sqrt (f.zeroBits neg) 0 ∧ gives .exp2 (one false) 0 ∧ gives .log2 (f.infBits true) flagDZ
      ∧ gives .tanh (f.zeroBits neg) 0)
    ∧ ∀ m e, m ≠ 0 → v = .fin true m e → gives .rsqrt f.qnan flagNV ∧ gives .sqrt f.qnan flagNV ∧ gives .log2 f.qnan flagNV

/-- R300: the exact value, rounded once with RNE. A value that lies in [h, h + 1) units is rounded as 2h + 1 halves where it is not
h itself: for rcp, sqrt and rsqrt `h` is what the bracket says of it, with 64 bits and more below the last one kept. exp2 of an
integer and log2 of a power of two are exact. -/
def SpecialRoots : Prop :=
  ∀ (f : FT) (ftz : Bool) (x : Nat) (neg : Bool) (m : Nat) (e : Int), m ≠ 0 → (f.source ftz x).1 = .fin neg m e →
    let df := (f.source ftz x).2
    let bits := Nat.log2 m + 1
    let odd : Nat := (e % 2).toNat
    let half (h : Nat) (exact : Prop) [Decidable exact] : Nat := 2 * h + if exact then 0 else 1
    (∀ h, h * m ≤ 2 ^ (2 * bits + 64) → 2 ^ (2 * bits + 64) < (h + 1) * m →
      specialBits .rcp f ftz x =
        (f.round .rne ftz neg (half h (h * m = 2 ^ (2 * bits + 64))) (-e - (2 * bits + 64 : Nat) - 1)).more df)
    ∧ (neg = false → ∀ h, h * h ≤ m * 2 ^ odd * 2 ^ 128 → m * 2 ^ odd * 2 ^ 128 < (h + 1) * (h + 1) →
      specialBits .sqrt f ftz x =
        (f.round .rne ftz false (half h (h * h = m * 2 ^ odd * 2 ^ 128)) ((e - odd) / 2 - 65)).more df)
    ∧ (neg = false → ∀ h, h * h * (m * 2 ^ odd) ≤ 2 ^ (2 * (bits + odd + 64)) →
      2 ^ (2 * (bits + odd + 64)) < (h + 1) * (h + 1) * (m * 2 ^ odd) →
      specialBits .rsqrt f ftz x =
        (f.round .rne ftz false (half h (h * h * (m * 2 ^ odd) = 2 ^ (2 * (bits + odd + 64))))
          (-((e - odd) / 2) - (bits + odd + 64 : Nat) - 1)).more df)
    ∧ (∀ n : Int, decide (n < 0) = neg → m * 2 ^ e.toNat = n.natAbs * 2 ^ (-e).toNat →
      specialBits .exp2 f ftz x = (f.round .rne ftz false 1 n).more df)
    ∧ (neg = false → ∀ k : Nat, m = 2 ^ k →
      specialBits .log2 f ftz x = (f.round .rne ftz (decide (e + k < 0)) (e + k).natAbs 0).more df)

end Sys2Proof

/-- R300 and R301: the special functions as forms; rcp, sqrt, rsqrt, exp2 of an integer and log2 of a power of two as exact values
rounded once; and the table of special inputs. What else exp2, log2 and tanh make of a finite number is the model's reading
(log entry 10). -/
def Obligations.SpecialFunctions : Prop := SpecialForms ∧ SpecialInputs ∧ SpecialRoots

/-- R280: a value that a format can represent is delivered as its own code, in every rounding mode, with no flag. -/
def Obligations.ExactValuesStay : Prop :=
  ∀ (f : FT) (mode : RMode) (x : Nat), x < 2 ^ f.bits → (f.decode x).isNan = false →
    f.deliver mode false (f.decode x) = ⟨x, 0⟩

/-! ### System registers and team-common registers (R172, R183, R251, R263) -/

namespace Sys2Proof

/-- R183: what a thread reads of a system register that is not long. -/
def sysValue (s : State) (bd : Bundle) (th : Thread) (r : Nat) : Word :=
  let c := s.ctx bd.ctx
  if r = 0x00 then BitVec.ofNat 64 c.ctxid
  else if r = 0x01 then c.trapbase
  else if r = 0x02 then c.savebase
  else if r = 0x03 then
    setBits c.dbgctl 4 4 (if ∃ p ∈ s.teams, p.2.ctx = bd.ctx ∧ p.2.exited = false ∧ p.2.halted = true then 1 else 0)
  else if r = 0x08 then c.inkmap
  else if r = 0x09 then c.inkdesc
  else if r = 0x0A then c.inktmo
  else if r = 0x0C then c.roundbase
  else if r = 0x0D then c.ligbase
  else if r = 0x0E then c.evqbase
  else if r = 0x0F then
    BitVec.ofNat 64 (s.wellStatus % 4 * 2 ^ 30 + s.wellCur % 32 * 2 ^ 16 + s.wellReq % 32 * 2 ^ 8 + s.farReq % 8)
  else if r = 0x10 then c.fairt
  else if r = 0x11 then c.fairdis
  else if r = 0x12 then c.wdlim
  else if r = 0x13 then c.colltmo
  else if r = 0x18 then th.fpctl
  else if r = 0x19 then th.fpf.setWidth 64
  else if r = 0x1A then (s.team bd.team).mxf.setWidth 64
  else if r = 0x22 then (s.team bd.team).gtcmp
  else if r = 0x28 then c.sampcfg
  else if r = 0x29 then c.sampbuf
  else 0

end Sys2Proof

/-- R183 and R251: mfs is short but for CYCLE and GTIME, whose reads are long. -/
def Obligations.SystemReads : Prop :=
  ∀ (s : State) (bd : Bundle) (sw : Bool) (d r : BitVec 7), Issues s bd (.mfs sw d r) →
    (r ≠ 0x20#7 → r ≠ 0x21#7 → WordForm s bd (.mfs sw d r) d (fun _ th => sysValue s bd th r.toNat))
    ∧ (r = 0x20#7 → LongForm s bd (.mfs sw d r) (fun _ _ x fl => x = s.cycle ∧ fl = 0))
    ∧ (r = 0x21#7 → LongForm s bd (.mfs sw d r) (fun _ _ x fl => x = (s.team bd.team).gtime ∧ fl = 0))

namespace Sys2Proof

/-- Whether the first thread of the bundle is in the handler of a CKPT frame (R396). -/
def keepHandler (s : State) (bd : Bundle) (th : Thread) : Bool :=
  th.handler && (slotInfo s bd.core bd.ctx bd.slot).keep

/-- The bits `[hi:lo]` of a word, in their place. -/
def keptBits (hi lo : Nat) (x : Word) : Word := (x.extractLsb' lo (hi + 1 - lo)).setWidth 64 <<< lo

/-- R183: the context after a write of a register it holds; fields that a map does not make RW stay, or read zero where
they are reserved. -/
def ctxAfterMts (c : Ctx) (r : Nat) (x : Word) : Ctx :=
  if r = 0x01 then { c with trapbase := keptBits 55 2 x }
  else if r = 0x02 then { c with savebase := keptBits 55 15 x }
  else if r = 0x03 then { c with dbgctl := (c.dbgctl &&& ~~~ 7#64) ||| keptBits 2 0 x }
  else if r = 0x08 then { c with inkmap := keptBits 55 45 x }
  else if r = 0x09 then { c with inkdesc := keptBits 55 15 x }
  else if r = 0x0A then { c with inktmo := keptBits 31 0 x }
  else if r = 0x0C then { c with roundbase := (c.roundbase &&& ~~~ (keptBits 30 16 (BitVec.allOnes 64))) ||| keptBits 30 16 x }
  else if r = 0x0D then
    { c with ligbase := (c.ligbase &&& ~~~ (keptBits 30 12 (BitVec.allOnes 64))) ||| keptBits 30 12 x
             heads := c.heads.map (fun p => (p.1, { p.2 with cfg := none })) }
  else if r = 0x0E then { c with evqbase := keptBits 55 12 x ||| BitVec.ofNat 64 (min 12 (x.extractLsb' 0 4).toNat) }
  else if r = 0x10 then { c with fairt := BitVec.ofNat 64 (max 32 (x.extractLsb' 0 16).toNat) }
  else if r = 0x11 then { c with fairdis := keptBits 0 0 x }
  else if r = 0x12 then { c with wdlim := keptBits 31 0 x }
  else if r = 0x13 then { c with colltmo := keptBits 31 0 x }
  else if r = 0x28 then
    { c with sampcfg := keptBits 0 0 x ||| BitVec.ofNat 64 (max 16 (x.extractLsb' 8 32).toNat) <<< 8 }
  else if r = 0x29 then { c with sampbuf := keptBits 55 12 x ||| BitVec.ofNat 64 (min 14 (x.extractLsb' 0 4).toNat) }
  else c

/-- R183, R251, R287, R288 and R396: mts. FPCTL and FPF are each thread's own. A register that the team, the context or
the module holds is written once with the bundle's one value; a write of a read-only register is ignored, WELLCFG takes a
request, MXF and FPF clear the bits written as 1, and in a CKPT frame's handler MXF, FPF and GTIME take the value. -/
def OwnSystemWrites : Prop :=
  ∀ (s : State) (bd : Bundle) (sw : Bool) (r : BitVec 7) (b : Opnd), Issues s bd (.mts sw r b) →
    let i : Instr := .mts sw r b
    (r = 0x18#7 → ThreadForm s bd i (fun _ th =>
      let x := s.opndB i b th
      let rm := (x.extractLsb' 0 3).toNat
      { th with fpctl := keptBits 13 8 x ||| keptBits 4 4 x ||| BitVec.ofNat 64 (if 1 ≤ rm ∧ rm ≤ 5 then rm else 1) }))
    ∧ (r = 0x19#7 → ThreadForm s bd i (fun _ th =>
      let x := (s.opndB i b th).setWidth 6
      { th with fpf := if keepHandler s bd th then x else th.fpf &&& ~~~ x }))
    ∧ ∀ (tid0 : Nat) (rest : List Nat) (x : Word), bd.tids = tid0 :: rest → r ≠ 0x18#7 → r ≠ 0x19#7 →
      (r.toNat ∈ [0x01, 0x02, 0x03, 0x08, 0x09, 0x0C, 0x0D, 0x0E, 0x0F, 0x10, 0x11, 0x28, 0x29] →
        (s.ctx bd.ctx).priv = true) →
      (∀ tid ∈ bd.tids, s.opndB i b (s.thread (threadKey bd.team tid)) = x) →
      let keep := keepHandler s bd (s.thread (threadKey bd.team tid0))
      let u : State :=
        if r = 0x0F#7 then wellRequest s x
        else if r = 0x1A#7 then s.updTeam bd.team (fun tm =>
          { tm with mxf := if keep then x.setWidth 6 &&& 0x1F#6 else tm.mxf &&& ~~~ (x.setWidth 6) })
        else if r = 0x21#7 then if keep then s.updTeam bd.team (fun tm => { tm with gtime := x }) else s
        else if r = 0x22#7 then s.updTeam bd.team (fun tm => { tm with gtcmp := x })
        else s.updCtx bd.ctx (fun c => ctxAfterMts c r.toNat x)
      EachThreadOn u s bd i (fun e th th' => th' = th.complete i e)

/-- R172 and R263: setc and setq of one value stand written, to be seen from the next cycle on: within the cycle every
read sees the old value. The end of the cycle makes the writes, those of the highest-numbered nib last. -/
def TeamSystemWrites : Prop :=
  (∀ (s : State) (bd : Bundle) (sw : Bool) (c : BitVec 6) (q : BitVec 3) (b : Opnd) (tid0 : Nat) (rest : List Nat)
      (x : Word), bd.tids = tid0 :: rest →
    (Issues s bd (.setc sw c b) →
      (∀ tid ∈ bd.tids, s.opndB (.setc sw c b) b (s.thread (threadKey bd.team tid)) = x) →
      EachThreadOn { s with late := s.late ++ [(bd.core * 8 + bd.slot % 8, bd.team, c.toNat, x)] } s bd (.setc sw c b)
        (fun e th th' => th' = th.complete (.setc sw c b) e))
    ∧ (Issues s bd (.setq sw q b) →
      (∀ tid ∈ bd.tids, s.opndB (.setq sw q b) b (s.thread (threadKey bd.team tid)) = x) →
      EachThreadOn { s with late := s.late ++ [(bd.core * 8 + bd.slot % 8, bd.team, 64 + q.toNat, x)] } s bd
        (.setq sw q b) (fun e th th' => th' = { th.complete (.setq sw q b) e with
          ilock := Tbl.set th.ilock (152 + q.toNat) (s.now + (Instr.setq sw q b).latency) })))
  ∧ (∀ (s : State) (nib team : Nat) (c : BitVec 6) (x : Word), s.late = [(nib, team, c.toNat, x)] →
    ((applyLate s).team team).getC c.toNat = x)
  ∧ (∀ (s : State) (lo hi team : Nat) (c : BitVec 6) (x y : Word), lo < hi →
    (s.late = [(lo, team, c.toNat, x), (hi, team, c.toNat, y)] ∨ s.late = [(hi, team, c.toNat, y), (lo, team, c.toNat, x)]) →
    ((applyLate s).team team).getC c.toNat = y)

/-- R15, R183 and R263: a bundle of a user context that writes a privileged register raises PRIV with the register's number, whether
or not its values agree; else one whose values of a shared register, a c or a q register differ raises NONUNIFORM, and nothing
is written. -/
def SystemTraps : Prop :=
  ∀ (s : State) (bd : Bundle) (sw : Bool) (r : BitVec 7) (c : BitVec 6) (q : BitVec 3) (b : Opnd),
    let private_ : Prop := r.toNat ∈ [0x01, 0x02, 0x03, 0x08, 0x09, 0x0C, 0x0D, 0x0E, 0x0F, 0x10, 0x11, 0x28, 0x29]
      ∧ (s.ctx bd.ctx).priv = false
    let differ (i : Instr) : Prop := ∃ x ∈ bd.tids, ∃ y ∈ bd.tids,
      s.opndB i b (s.thread (threadKey bd.team x)) ≠ s.opndB i b (s.thread (threadKey bd.team y))
    (Issues s bd (.mts sw r b) →
      (private_ → Raises s bd (.mts sw r b) (fun _ => record 3 0 0 (BitVec.ofNat 64 r.toNat)))
      ∧ (¬ private_ → r ≠ 0x18#7 → r ≠ 0x19#7 → differ (.mts sw r b) → Raises s bd (.mts sw r b) (fun _ => record 18 0 0 0)))
    ∧ ∀ i, (i = .setc sw c b ∨ i = .setq sw q b) → Issues s bd i → differ i → Raises s bd i (fun _ => record 18 0 0 0)

end Sys2Proof

/-- R15, R172, R183, R251, R263, R287, R288 and R396: what mts, setc and setq write, and where they trap. -/
def Obligations.SystemWrites : Prop := OwnSystemWrites ∧ TeamSystemWrites ∧ SystemTraps

/-! ### Hints, branches, sleep (R190 to R199, R239, R240, R248) -/

namespace Sys2Proof

/-- R190 to R195: a hint word joins the hints of its unit, which the thread keeps; R248: nop has no effect. R164 and R193:
yield holds the thread for the next n slots after its own. -/
def HintWords : Prop :=
  ∀ (s : State) (bd : Bundle) (sw z f : Bool) (m r c : BitVec 3) (k n : BitVec 8) (l h : BitVec 7) (o : BitVec 22),
    let join (e : Env) (g : Hints → Hints) (th : Thread) : Thread := { th with hints := g th.hints, unit := some e.unit }
    (Issues s bd (.pre sw m z r f k) → ThreadForm s bd (.pre sw m z r f k) (fun e =>
      join e (fun x => { x with pre := some ⟨m, z, r, f, k⟩ })))
    ∧ (Issues s bd (.live sw l h) → ThreadForm s bd (.live sw l h) (fun e =>
      join e (fun x => { x with live := x.live ++ [(l, h)] })))
    ∧ (Issues s bd (.off sw o) → ThreadForm s bd (.off sw o) (fun e => join e (fun x => { x with off := some o })))
    ∧ (Issues s bd (.scope sw c) → ThreadForm s bd (.scope sw c) (fun e => join e (fun x => { x with scope := some c })))
    ∧ (Issues s bd (.yield sw n) → ThreadForm s bd (.yield sw n) (fun _ th =>
      { th with status := .yielding (n.toNat + 1), age := 0 }))
    ∧ (Issues s bd (.nop sw) → ThreadForm s bd (.nop sw) (fun _ th => th))

end Sys2Proof

/-- R176, R198, R199, R239 and R240: br tests bit 0 of its mask register against P; offsets count words from the word after
the branch; jmpr goes to its register's address, a multiple of 4; each thread whose address is not one raises ALIGN there instead. -/
def Obligations.Branches : Prop :=
  ∀ (s : State) (bd : Bundle) (sw p : Bool) (m : BitVec 3) (o : BitVec 21) (q : BitVec 25) (a : BitVec 7),
    (Issues s bd (.br sw m p o) → ThreadForm s bd (.br sw m p o) (fun _ th => { th with
      pc := if (th.getM m.toNat).getLsbD 0 = p then bd.pc + 4 + 4 * o.signExtend 64 else bd.pc + 4 }))
    ∧ (Issues s bd (.jmp sw q) → ThreadForm s bd (.jmp sw q) (fun _ th => { th with
      pc := bd.pc + 4 + 4 * q.signExtend 64 }))
    ∧ (Issues s bd (.jmpr sw a) →
      (∀ tid ∈ bd.tids, ((s.thread (threadKey bd.team tid)).getV a.toNat).toNat % 4 = 0) →
      ThreadForm s bd (.jmpr sw a) (fun _ th => { th with pc := th.getV a.toNat }))
    ∧ (Issues s bd (.jmpr sw a) → RaisesOr s bd (.jmpr sw a)
      (fun _ th x => (th.getV a.toNat).toNat % 4 ≠ 0 ∧ x = record 4 0 (th.getV a.toNat) 0)
      (fun e th th' => th' = ({ th with pc := th.getV a.toNat } : Thread).complete (.jmpr sw a) e))

namespace Sys2Proof

/-- R248: sleep blocks each thread for b[31:0] cycles, and with 0 not at all. -/
def Sleeps : Prop :=
  ∀ (s : State) (bd : Bundle) (sw : Bool) (b : Opnd),
    let i : Instr := .sleep sw b
    let n (th : Thread) : Nat := ((s.opndB i b th).extractLsb' 0 32).toNat
    Issues s bd i →
    EachThread s bd i (fun e th th' => th' =
      if n th = 0 then th.complete i e
      else { th with status := .blocked ⟨.sleep (n th), i, e, 0⟩, age := 0, pc := e.npc, hints := Hints.empty
                     unit := none })

end Sys2Proof

/-- R164, R190 to R195 and R248: hint words, nop and sleep. -/
def Obligations.HintsAndSleep : Prop := HintWords ∧ Sleeps

/-! ### Loads and stores (R206 to R215) -/

namespace Sys2Proof

/-- R209: the word of bytes a load of size code `z` brings: extended by zeros or by the sign. -/
def loadExtend (z : IT) (bs : List Byte) : Word :=
  if z.signed then (BitVec.ofNat z.bits (bytesToNat bs)).signExtend 64 else (BitVec.ofNat z.bits (bytesToNat bs)).setWidth 64

/-- R18 to R20, R36, R37, R39 and R207: the trap of a load or a store of `n` bytes whose address fails a check that comes before
translation: its window, the Well bounds or the allocation, then its alignment: none of a plain access, but its size in the
Well, and its size of an acquire or a release. -/
def addressTrap (s : State) (bd : Bundle) (n : Nat) (ordered : Bool) (a : Word) : Option Trap :=
  let align (asks : Bool) : Option Trap := if asks && a.toNat % n != 0 then some (record 4 0 a 0) else none
  match windowOf a n with
  | .bad => some (record 5 8 a 0)
  | .well d o => if wellBounds s bd.ctx d o n then align true else some (record 5 9 a 0)
  | .scr x o => if (scratchAt s bd.team x o n).isSome then align ordered else some (record 5 10 a 0)
  | .glob => align ordered

/-- R36, R39 and R207: where every thread's address fails such a check, every thread raises its trap, and nothing is performed. -/
def AddressTraps (s : State) (bd : Bundle) (i : Instr) (n : Nat) (ordered : Bool) : Prop :=
  ∀ trap : Env → Trap, Issues s bd i →
    (∀ tid ∈ bd.tids, addressTrap s bd n ordered (s.operands bd i tid).addr = some (trap (s.operands bd i tid))) →
    Raises s bd i trap

end Sys2Proof

/-- R36, R39, R207 to R209, R211, R213 and R214: plain and bounded loads from a scratchpad or a Well bank are long; the bytes that
stand there are outstanding, and nothing of memory changes. The word that a load makes of its bytes is theirs, lowest
address least significant, extended by the size code. Threads whose addresses all fail a check before translation raise PAGE or
ALIGN, and nothing is loaded. -/
def Obligations.LoadsNear : Prop :=
  (∀ (s : State) (bd : Bundle) (sw : Bool) (z : IT) (d a : BitVec 7) (o : BitVec 2) (p : BitVec 3),
    let near (i : Instr) (tid : Nat) : Option (Bool × Nat) :=
      (s.near (s.operands bd i tid) (z.bits / 8) 1).bind (fun q =>
        if s.nearPoisoned q (z.bits / 8) = false ∧ (p = 3#3 → q.1 = true) then some q else none)
    let loads (i : Instr) : Prop := Issues s bd i → (∀ tid ∈ bd.tids, (near i tid).isSome = true) →
      EachThread s bd i (fun e th th' => ∃ n q, s.uid ≤ n ∧ s.near e (z.bits / 8) 1 = some q
        ∧ th' = (th.longIssue n i e ((s.nearRead q (z.bits / 8)).map some) none 0).complete i e)
    loads (.ld sw z d a 0#2 0#3 p) ∧ loads (.ldb sw z d a o p)
      ∧ AddressTraps s bd (.ld sw z d a 0#2 0#3 p) (z.bits / 8) false ∧ AddressTraps s bd (.ldb sw z d a o p) (z.bits / 8) false
      ∧ ∀ c, AddressTraps s bd (.ld sw z d a 1#2 c p) (z.bits / 8) true)
  ∧ ∀ (i : Instr) (sw : Bool) (z : IT) (d a : BitVec 7) (o : BitVec 2) (c p : BitVec 3) (o' : Outst) (bs : List Byte),
    i = .ld sw z d a o c p ∨ i = .ldb sw z d a o p → o'.instr = i → o'.data = bs.map some → o'.result = none →
    o'.value = some (loadExtend z bs)

namespace Sys2Proof

/-- The bytes of the last thread of a list whose range of `n` bytes takes in an address. -/
def lastByte (place : Nat → Option (Bool × Nat)) (bytes : Nat → List Byte) (n : Nat) (well : Bool) (x : Nat) :
    List Nat → Option Byte
  | [] => none
  | tid :: rest =>
    match lastByte place bytes n well x rest with
    | some b => some b
    | none =>
      match place tid with
      | some (w, k) => if w = well ∧ k ≤ x ∧ x < k + n then (bytes tid)[x - k]? else none
      | none => none

end Sys2Proof

/-- R10, R54, R208, R212 and R213: a plain store to a scratchpad or a Well bank is performed there at once, thread after
thread: each byte of the two memories is the one the last thread that stores to its address stores there, and every other
byte stays. No register changes, and nothing else but the poison of the blocks written whole and the release tags. -/
def Obligations.StoresNear : Prop :=
  ∀ (s : State) (bd : Bundle) (sw : Bool) (z : IT) (d a : BitVec 7) (p : BitVec 3),
    let i : Instr := .st sw z d a 0#2 0#3 p
    let n := z.bits / 8
    let place (tid : Nat) : Option (Bool × Nat) :=
      (s.near (s.operands bd i tid) n 1).bind (fun q => if p = 3#3 → q.1 = true then some q else none)
    let bytes (tid : Nat) : List Byte :=
      (List.range n).map (fun k => ((s.thread (threadKey bd.team tid)).getV d.toNat).extractLsb' (8 * k) 8)
    AddressTraps s bd i n false ∧ (∀ c, AddressTraps s bd (.st sw z d a 2#2 c p) n true)
    ∧ (Issues s bd i → s.well.wf = true → s.scratch.wf = true → (∀ tid ∈ bd.tids, (place tid).isSome = true) →
    ∃ (well scratch : Memory) (tags : Tbl RelTag) (poison : List Nat),
      EachThreadOn { s with well := well, scratch := scratch, tags := tags, poison := poison } s bd i
        (fun e th th' => th' = th.complete i e)
      ∧ (∀ x, Memory.read well x = (lastByte place bytes n true x bd.tids).getD (Memory.read s.well x))
      ∧ ∀ x, Memory.read scratch x = (lastByte place bytes n false x bd.tids).getD (Memory.read s.scratch x))

namespace Sys2Proof

/-- The bound of an ldb, from what it captured (R214): relative, or absolute with its timeout. -/
def ldbBoundOf (o : BitVec 2) (e : Env) : Bound :=
  if o = 1#2 then .abs e.opD (e.opC.extractLsb' 0 32).toNat else .rel (e.opD.extractLsb' 0 32).toNat

/-- R42, R146 and R149: the lines that serve a load of the global window in the L1, with no translation and no query. -/
def hitLines (e : Env) (b : Bound) (n : Nat) (s : State) : Option (List (Nat × Nat × Line)) :=
  if isGlobal e.addr n then (fastLines s e n).filter (fun ls => ls.all (fun l => quick s e b l.2.2)) else none

/-- R33, R81 and R401: the bytes of such lines, where no watchpoint is hit, the thread holds their inks and none is poisoned. -/
def hitBytes (e : Env) (n : Nat) (ls : List (Nat × Nat × Line)) (s : State) : Option (List Byte) :=
  if (watchHit s e.ctx e.addr.toNat n true false).isNone
      && (inkSet (ls.map (fun l => l.2.2.ink))).all (fun j => (s.thread e.key).holdsInk j)
      && !(ls.any (fun l => badPart l.2.2.bad (l.1 % 128) l.2.1)) then
    some (ls.flatMap (fun l => lineBytes l.2.2.bytes (l.1 % 128) l.2.1))
  else none

/-- R42, R50, R81, R149, R208 and R211 to R214: what a plain or bounded load does where it is not held back. With every line
in the L1 and no query to make it takes its bytes there. Else its checks and inks pass and the queries of a round region
answer; each piece of a global load is then served by a line that its bound admits, or joins the collector, and a load of
another window reads its place. No byte at hand is poisoned. -/
def loadAct (i : Instr) (z : IT) (p : BitVec 3) (b : Bound) (e : Env) (s : State) : Option State :=
  let n := z.bits / 8
  let well := inWell e.addr n
  if p = 3#3 ∧ well = false then none
  else match if p = 1#3 then none else hitLines e b n s with
  | some ls => (hitBytes e n ls s).map (fun bs => loadNow i e bs s)
  | none =>
    match s.placed e (laneAccess e n (if well then n else 1) .read false) true false with
    | none => none
    | some (.glob ps js, u) =>
      match roundEntries e b (regionsOf ps) u with
      | (.ok (), v) =>
        let r := servings e b (fillOf p) (lineParts ps js) v
        if r.1.any (fun l => match l.2 with
            | some k => badPart k.bad (l.1.1.1 % 128) l.1.1.2.1
            | none => false) then none
        else
          let a := addOut r.2 i e (List.replicate n none) none 0
          some (loadPieces e a.1 (fillOf p) 0 r.1 a.2)
      | _ => none
    | some (q, u) =>
      if placePoisoned u q n then none
      else
        let r := placeRead u e.core q n
        some (loadNow i e r.1 r.2)

/-- R42, R81, R90, R93, R103 and R211: what an acquiring load does where it is not held back: its value is there before anything
later of its thread. One of team scope that hits in the L1 takes its bytes there, as a default load does, but of host
memory, which it reads at the host (log entry 53); a device-remote one promotes the release it meets, once it has
read. -/
def acquireAct (i : Instr) (z : IT) (c p : BitVec 3) (e : Env) (u : State) : Option State :=
  let n := z.bits / 8
  let sc := (e.hints.scope.getD c).toNat
  let well := inWell e.addr n
  let hit := if sc = 1 ∧ p ≠ 1#3 ∧ e.addr.toNat % n = 0 then
      (hitLines e (.rel 0) n u).filter (fun ls => ls.all (fun l => !l.2.2.host))
    else none
  if p = 3#3 ∧ well = false then none
  else match hit with
  | some ls => (hitBytes e n ls u).map (fun bs => loadNow i e bs u)
  | none =>
  match u.placed e (laneAccess e n n .read false) true false with
  | none => none
  | some (q, u) =>
    match roundEntries e (.rel 0) (match q with | .glob ps _ => regionsOf ps | _ => []) u with
    | (.ok (), v) =>
      let v := placeSettle v e.core q
      let met := if sc = 5 then tagMet v (placeTag q) else none
      let r := acquireRead e sc (fillOf p) q n v
      if r.1.2 then none
      else some (acquireActions (promoteMet (loadNow i e r.1.1 r.2) (placeTag q) met) e.core sc)
    | _ => none

end Sys2Proof

/-- R211 and R214: ld and ldb complete in every window and under every policy where no check holds them back; an acquire of host
memory is read at the host (log entry 53). -/
def Obligations.LoadsComplete : Prop :=
  ∀ (s : State) (bd : Bundle) (sw : Bool) (z : IT) (d a : BitVec 7) (o : BitVec 2) (c p : BitVec 3),
    (Issues s bd (.ld sw z d a 0#2 c p) →
      Completes s bd (.ld sw z d a 0#2 c p) (loadAct (.ld sw z d a 0#2 c p) z p (.rel 0)))
    ∧ (Issues s bd (.ldb sw z d a o p) →
      Completes s bd (.ldb sw z d a o p) (fun e => loadAct (.ldb sw z d a o p) z p (ldbBoundOf o e) e))
    ∧ (Issues s bd (.ld sw z d a 1#2 c p) → Completes s bd (.ld sw z d a 1#2 c p) (acquireAct (.ld sw z d a 1#2 c p) z c p))

namespace Sys2Proof

/-- R91, R103 and R212: what a store does where it is not held back. -/
def storeAct (z : IT) (o : BitVec 2) (c p : BitVec 3) (e : Env) (u : State) : Option State :=
  let n := z.bits / 8
  let sc := (e.hints.scope.getD c).toNat
  let well := inWell e.addr n
  let bs := natToBytes n e.opC.toNat
  if p = 3#3 ∧ well = false then none
  else match u.placed e (laneAccess e n (if o = 2#2 ∨ well = true then n else 1) .write false) false true with
  | none => none
  | some (q, u) =>
    if o = 2#2 then
      if sc = 4 ∧ (u.core e.core).dropped = true then none
      else
        let v := waitRelease (performLoads u e.core e.key) e.core sc
        some (match q, decide (sc = 1) with
          | .glob ps _, true => storeGlobal v e.core e.ctx (p == 1#3) true ps bs
          | q, _ => setTag (placeWrite v e.core e.ctx (if p = 1#3 then .drop else .update) q bs) (placeTag q) e.core
              (if sc = 5 then 3 else sc))
    else
      some (match q with
        | .glob ps _ => storeGlobal u e.core e.ctx (p == 1#3) false ps bs
        | q => placeWrite u e.core e.ctx .drop q bs)

end Sys2Proof

/-- R91, R103 and R212: st completes where its checks pass: a plain one writes the low bytes of v(d) under its policy; a
release first waits as R91 says, a team release to the global window is then a store with the release's mark, and every
other is performed at its place, whose release tag it sets. -/
def Obligations.StoresComplete : Prop :=
  ∀ (s : State) (bd : Bundle) (sw : Bool) (z : IT) (d a : BitVec 7) (o : BitVec 2) (c p : BitVec 3),
    Issues s bd (.st sw z d a o c p) → Completes s bd (.st sw z d a o c p) (storeAct z o c p)

namespace Sys2Proof

/-- R216 and R217: the new value of an atom of `w` bits. -/
def atomValue (p : BitVec 3) (z : IT) (old x : Nat) : Nat :=
  if p = 0#3 then (old + x) % 2 ^ z.bits
  else if p = 1#3 then (if z.value old ≤ z.value x then old else x)
  else if p = 2#3 then (if z.value old ≤ z.value x then x else old)
  else if p = 3#3 then old &&& x
  else if p = 4#3 then old ||| x
  else if p = 5#3 then old ^^^ x
  else if p = 6#3 then x
  else ((sumTerms [.val (FT.decode .f32 old), .val (FT.decode .f32 x)]).round .f32 .rne false).bits

/-- R217 and R218: an atomic at a byte address of a scratchpad or a Well bank. -/
def atomicNearAct (z : IT) (i : Instr) (new : Env → Nat → Option Nat) (e : Env) (u : State) : Option State :=
  let n := z.bits / 8
  match u.near e n n with
  | none => none
  | some q =>
    if u.nearPoisoned q n then none
    else
      let old := bytesToNat (u.nearRead q n)
      let v := match new e old with
        | some x => if q.1 then wellWrite u (q.2 / 2 ^ 28) (q.2 % 2 ^ 28) (natToBytes n x)
          else scratchWrite u q.2 (natToBytes n x)
        | none => u
      some (({ v with uid := v.uid + 1 } : State).updThread e.key (fun th =>
        th.longIssue v.uid i e [] (some (loadExtend z (natToBytes n old))) 0))

end Sys2Proof

/-- R208, R217 and R218: atomics in a scratchpad or a Well bank with no acquire and no release part, thread after thread:
each replaces the value it finds by its own rule (cas only where the value it finds is v(d)), and its long result is the
value it found, extended by the size code. -/
def Obligations.AtomicsNear : Prop :=
  ∀ (s : State) (bd : Bundle) (sw : Bool) (z : IT) (d a : BitVec 7) (c p : BitVec 3),
    let complete (i : Instr) (new : Env → Nat → Option Nat) : Prop := Issues s bd i →
      Completes s bd i (atomicNearAct z i new)
    complete (.atom sw z d a 0#2 c p) (fun e old => some (atomValue p z old (e.opC.toNat % 2 ^ z.bits)))
    ∧ complete (.cas sw z d a 0#2 c) (fun e old =>
      if old = e.opC.toNat % 2 ^ z.bits then some (e.opE.toNat % 2 ^ z.bits) else none)

namespace Sys2Proof

/-- R52, R91, R93, R103, R217 and R218: what an atomic does where it is not held back. -/
def atomicAct (z : IT) (o : BitVec 2) (c : BitVec 3) (i : Instr) (new : Env → Nat → Option Nat) (e : Env) (u : State) :
    Option State :=
  let n := z.bits / 8
  let sc := (e.hints.scope.getD c).toNat
  let acq := o.getLsbD 0
  let rel := o.getLsbD 1
  match u.placed e (laneAccess e n n .write true) true true with
  | none => none
  | some (q, u) =>
    let u := placeSettle u e.core q
    if placePoisoned u q n ∨ (rel = true ∧ sc = 4 ∧ (u.core e.core).dropped = true) then none
    else
      let u := if rel then waitRelease (performLoads u e.core e.key) e.core sc else u
      let met := if acq && sc = 5 then tagMet u (placeTag q) else none
      let r := placeRead u e.core q n
      let old := bytesToNat r.1
      let v := match new e old with
        | some x =>
          let w := placeWrite r.2 e.core e.ctx .drop q (natToBytes n x)
          if rel then setTag w (placeTag q) e.core (if sc = 5 then 3 else sc) else w
        | none =>
          match q with
          | .glob ps _ => dropCopies r.2 e.core e.ctx ps
          | _ => r.2
      let v := ({ v with uid := v.uid + 1 } : State).updThread e.key (fun th =>
        th.longIssue v.uid i e [] (some (loadExtend z (natToBytes n old))) 0)
      let v := promoteMet v (placeTag q) met
      some (if acq then acquireActions v e.core sc else v)

end Sys2Proof

/-- R52, R91, R93, R103, R217 and R218: atom and cas complete in every window and order: a release part waits first; the value
is read at the home and the new one written there (nothing, where cas fails, but the copies that the core and its die hold go:
the core's copy as R52 says, that of its die by log entry 32, the model's choice); a device-remote acquire part promotes the
release it met once it has read; an acquire part acts last. -/
def Obligations.AtomicsComplete : Prop :=
  ∀ (s : State) (bd : Bundle) (sw : Bool) (z : IT) (d a : BitVec 7) (o : BitVec 2) (c p : BitVec 3),
    (Issues s bd (.atom sw z d a o c p) → Completes s bd (.atom sw z d a o c p)
      (atomicAct z o c (.atom sw z d a o c p) (fun e old => some (atomValue p z old (e.opC.toNat % 2 ^ z.bits)))))
    ∧ (Issues s bd (.cas sw z d a o c) → Completes s bd (.cas sw z d a o c)
      (atomicAct z o c (.cas sw z d a o c) (fun e old =>
        if old = e.opC.toNat % 2 ^ z.bits then some (e.opE.toNat % 2 ^ z.bits) else none)))

/-! ### Well updates, fences, prefetch, round counters (R98, R142 to R144, R220 to R224, R230 to R232) -/

namespace Sys2Proof

/-- R220: the float format of an element code: 8 f32, 9 f16, 10 bf16. -/
def updateFormat (c : BitVec 4) : FT := if c = 8#4 then .f32 else if c = 9#4 then .f16 else .bf16

/-- R220: one element of an update: integers exactly, sat clamped once; floats rounded once with RNE, subnormals kept. -/
def updateValue (o : BitVec 3) (c : BitVec 4) (old x : Nat) : Nat :=
  let t := IT.ofBits (c.extractLsb' 0 3)
  let f := updateFormat c
  if c.toNat < 8 then
    if o = 0#3 then (old + x) % 2 ^ t.bits
    else if o = 1#3 then wrapTo t.bits (max t.low (min t.high (t.value old + t.value x)))
    else if o = 2#3 then (if t.value old ≤ t.value x then old else x)
    else if o = 3#3 then (if t.value old ≤ t.value x then x else old)
    else if o = 4#3 then old &&& x
    else if o = 5#3 then old ||| x
    else old ^^^ x
  else if o = 0#3 then ((sumTerms [.val (f.decode old), .val (f.decode x)]).round f .rne false).bits
  else (f.deliver .rne false (chosen (o == 3#3) false (f.decode old) (f.decode x))).bits

/-- R220: the value of one update of an element agrees with the table of operations, for every element code. -/
def UpdateResults : Prop :=
  ∀ (o : BitVec 3) (c : BitVec 4) (old x : Nat), o ≠ 7#3 → c.toNat ≤ 10 → old < 2 ^ (elemOfCode c).bits →
    x < 2 ^ (elemOfCode c).bits → updElem o c old x = updateValue o c old x

/-- R222: the value of one reduction is over the old value and every contribution at once: an integer add wraps, sat is the
exact sum saturated once, min and max are a term that none is below or above, the logic operations run over all of them. -/
def IntegerRed : Prop :=
  ∀ (o : BitVec 3) (c : BitVec 4) (old : Nat) (xs : List Nat), c.toNat < 8 →
    let t := IT.ofBits (c.extractLsb' 0 3)
    let ts := old :: xs
    (∀ x ∈ ts, x < 2 ^ t.bits) →
    (o = 0#3 → redElem o c old xs = ts.sum % 2 ^ t.bits)
    ∧ (o = 1#3 → redElem o c old xs = wrapTo t.bits (max t.low (min t.high (ts.map t.value).sum)))
    ∧ (o = 2#3 → redElem o c old xs ∈ ts ∧ ∀ x ∈ ts, t.value (redElem o c old xs) ≤ t.value x)
    ∧ (o = 3#3 → redElem o c old xs ∈ ts ∧ ∀ x ∈ ts, t.value x ≤ t.value (redElem o c old xs))
    ∧ (o = 4#3 → redElem o c old xs = xs.foldl (· &&& ·) old)
    ∧ (o = 5#3 → redElem o c old xs = xs.foldl (· ||| ·) old)
    ∧ (o = 6#3 → redElem o c old xs = xs.foldl (· ^^^ ·) old)

/-- R222: a float add is one exact sum of the old value and every contribution, rounded once with RNE; a float minimum or maximum
is the canonical NaN where a term is a NaN, and else a term that none is below or above, −0 below +0. -/
def FloatRed : Prop :=
  ∀ (o : BitVec 3) (c : BitVec 4) (old : Nat) (xs : List Nat), 8 ≤ c.toNat → c.toNat ≤ 10 → xs ≠ [] →
    let f := updateFormat c
    let ts := old :: xs
    let r := redElem o c old xs
    (∀ x ∈ ts, x < 2 ^ f.bits) →
    (o = 0#3 → r = ((sumTerms (ts.map (fun x => .val (f.decode x)))).round f .rne false).bits)
    ∧ (o = 2#3 ∨ o = 3#3 →
      ((∃ x ∈ ts, (f.decode x).isNan = true) → r = f.qnan)
      ∧ ((∀ x ∈ ts, (f.decode x).isNan = false) → r ∈ ts
        ∧ ∀ x ∈ ts, if o = 2#3 then (f.decode r).le (f.decode x) = true else (f.decode x).le (f.decode r) = true))

/-- R81, R207 and R221: what wupd does where it is not held back. -/
def wupdAct (o : BitVec 3) (c : BitVec 4) (e : Env) (u : State) : Option State :=
  let w := (elemOfCode c).bits
  match u.placed e (laneAccess e 8 8 .write true) false true with
  | none => none
  | some (q, u) =>
    let u := placeSettle u e.core q
    if placePoisoned u q 8 then none
    else
      let r := placeRead u e.core q 8
      let new := (List.range (64 / w)).map (fun j => updElem o c (elemAt w (bytesWord r.1) j) (elemAt w e.opB j))
      some (placeWrite r.2 e.core e.ctx .drop q (natToBytes 8 (pack w new).toNat))

/-- R81, R207 and R222: the checks of one thread of a wred. -/
def wredAct (c : BitVec 4) (e : Env) (u : State) : Option State :=
  let w := (elemOfCode c).bits
  match u.placed e (laneAccess e (w / 8) (w / 8) .write true) false true with
  | none => none
  | some (q, u) =>
    let u := placeSettle u e.core q
    if placePoisoned u q (w / 8) then none else some u

/-- R52, R81, R207, R221 and R222: wupd replaces every sub-element of the 8 bytes at its address, thread after thread, and
wred one element for each distinct address of the bundle, which takes the contributions of all the threads that name it
at once. Neither returns anything. -/
def UpdatesDone : Prop :=
  ∀ (s : State) (bd : Bundle) (sw : Bool) (o : BitVec 3) (c : BitVec 4) (a : BitVec 7) (b : Opnd),
    let w := (elemOfCode c).bits
    (Issues s bd (.wupd sw o c a b) → Completes s bd (.wupd sw o c a b) (wupdAct o c))
    ∧ (Issues s bd (.wred sw o c a b) → ∀ (u t : State),
      lanesRun (.wred sw o c a b) (wredAct c)
        (s.operandsAll bd (.wred sw o c a b)) s.issued = some u →
      t = (((s.operandsAll bd (.wred sw o c a b)).map (fun e => e.addr)).dedup).foldl (fun (v : State) x =>
        match (s.operandsAll bd (.wred sw o c a b)).filter (fun e => e.addr == x) with
        | [] => v
        | e :: es =>
          match checkAccess v (laneAccess e (w / 8) (w / 8) .write true) with
          | (.ok q, v) =>
            let r := placeRead v e.core q (w / 8)
            let terms := (e :: es).flatMap (fun f => (List.range (64 / w)).map (elemAt w f.opB))
            placeWrite r.2 e.core e.ctx .drop q (natToBytes (w / 8) (redElem o c (bytesToNat r.1) terms))
          | (_, v) => v) u →
      t.Quiet bd → exec (.wred sw o c a b) s = .next t)

end Sys2Proof

/-- R52, R81, R207 and R220 to R222: the update operations, and the forms that do them at the Well. -/
def Obligations.WellUpdates : Prop := UpdateResults ∧ IntegerRed ∧ FloatRed ∧ UpdatesDone

namespace Sys2Proof

/-- R73, R91, R93, R98 and R224: what a fence does. -/
def fenceAct (k : BitVec 2) (e : Env) (u : State) : Option State :=
  let sc := (e.hints.scope.getD 3#3).toNat
  if k.getLsbD 1 = true ∧ sc = 4 ∧ (u.core e.core).dropped = true then none
  else
    let v := if k.getLsbD 1 then waitRelease (performLoads u e.core e.key) e.core sc
      else if sc = 1 then u else flushStores u e.core
    some (if k.getLsbD 0 then acquireActions (performLoads v e.core e.key) e.core sc else v)

/-- R91, R93, R98 and R224: a fence's release part waits as a release does, and its acquire part acts as an acquire once
the thread's earlier loads are performed; it accesses no memory and no register. Its scope is its hint's, or device. -/
def FenceForms : Prop :=
  ∀ (s : State) (bd : Bundle) (sw : Bool) (k : BitVec 2), Issues s bd (.fence sw k) →
    Completes s bd (.fence sw k) (fenceAct k)

/-- R33 and R230: a line that pref may fill: of a granule with no ink, in memory of the device. The word of an inked page's map
is read where its own translation is at hand. -/
def prefable (e : Env) (u : State) (t : TlbEntry) : Bool :=
  let pa := t.pa e.addr.toNat
  let va := inkMapVa u e.ctx pa
  (!leafI t.leaf || (tlbOnly u e.core e.ctx va).any (fun m =>
    !leafI m.leaf && bytesToNat (physRead u (m.pa va) 2) % 4096 == 0))
  && (match homeOf pa with
    | .hbm _ | .tier2 => true
    | _ => false)

/-- R42, R50, R148 and R230: what pref does. A line the L1 does not hold comes to it as for a default load, and to the far ways
where it is remote; with .far it comes to the far ways alone. A query of its region that cannot be made drops it. -/
def prefAct (far : Bool) (e : Env) (u : State) : Option State :=
  let va := e.addr.toNat
  match if window e.addr = .glob then (tlbOnly u e.core e.ctx va).filter (prefable e u) else none with
  | none => some u
  | some t =>
    match roundEntries e (.rel 0) (regionAt t).toList u with
    | (.ok (), v) =>
      if far = false ∧ (l1Hit v e va (regionAt t) (lowAt v e (.rel 0) t)).isSome = true then some v
      else
        let k := farHit v e.core e.ctx (t.pa va / 128) (regionAt t) (lowAt v e (.rel 0) t)
        let fetched := (fetchLine k.2 e.core e.ctx va (t.pa va) t false (!far) 0).2
        match k.1 with
        | none => some fetched
        | some l =>
          if far then some k.2
          else if leafR t.leaf then some (l1Fill k.2 e.core 0 (l.filled k.2 e va t 0 false))
          else some fetched
    | _ => some u

/-- R33, R50, R63, R148 and R230: what a pref that may fill leaves. Without .far the L1 holds the line; where it held none before, it is
the home's line or the far copy's, with ink 0. A remote line that it fetched stands in the far ways, where a way is left to
them. With .far the L1 stays as it was where no reply is on its way to the core. -/
def PrefetchFills : Prop :=
  ∀ (far : Bool) (e : Env) (u v : State) (t : TlbEntry) (w : State), prefAct far e u = some v → window e.addr = .glob →
    tlbOnly u e.core e.ctx e.addr.toNat = some t → prefable e u t = true →
    roundEntries e (.rel 0) (regionAt t).toList u = (.ok (), w) →
    let va := e.addr.toNat
    let pline := t.pa va / 128
    (far = false → ∃ k, l1Find v e.core e.ctx va = some k ∧ k.round.map (fun r => r.1) = regionAt t
      ∧ (l1Find u e.core e.ctx va = none → k.ink = 0 ∧ k.w = leafW t.leaf ∧ k.x = leafX t.leaf ∧ k.i = leafI t.leaf
        ∧ (k.bytes = physRead v (pline * 128) 128
          ∨ ∃ l ∈ (v.die (dieOf e.core)).far, l.line = pline ∧ k.bytes = l.bytes)))
    ∧ (far = true ∨ l1Find u e.core e.ctx va = none → farCacheable (dieOf e.core) (pline * 128) = true → fillable v .far ≠ [] →
      ∃ l ∈ (v.die (dieOf e.core)).far, l.line = pline ∧ farLive v (dieOf e.core) (v.cid e.ctx) (regionAt t) l = true)
    ∧ (far = true → regionAt t = none → (u.core e.core).coll = [] → (v.core e.core).l1 = (u.core e.core).l1)

/-- R146, R148 and R230: pref never traps, takes no ink and returns nothing: whatever it meets, its threads go on with every register
as it was (bytes of loads that were on their way may have come in), and no team, context, scratchpad, margin or accumulator
changes. The Well stays too where the core knows every observed round; else a seeding query may set the die's bit in the last
byte of the SUBS of a counter block, and no other byte changes. Without a translation at hand, or outside the global window,
nothing else does either. -/
def PrefetchForms : Prop :=
  ∀ (s : State) (bd : Bundle) (sw f : Bool) (a : BitVec 7), Issues s bd (.pref sw f a) →
    let i : Instr := .pref sw f a
    Completes s bd i (prefAct f)
    ∧ (∃ t, exec i s = .next t
      ∧ (∀ tid ∈ bd.tids, ∃ outs : List Outst,
        t.thread (threadKey bd.team tid) =
          ({ s.thread (threadKey bd.team tid) with outs := outs } : Thread).complete i (s.operands bd i tid)
        ∧ outs.map (fun o => (o.id, o.instr, o.env, o.result)) =
          (s.thread (threadKey bd.team tid)).outs.map (fun o => (o.id, o.instr, o.env, o.result)))
      ∧ t.teams = s.teams ∧ t.ctxs = s.ctxs ∧ t.scratch = s.scratch ∧ t.margin = s.margin ∧ t.acc = s.acc
      ∧ ((∀ rgn, rgn < 1024 → (observed s bd.core bd.ctx rgn).isSome = true) → t.well = s.well)
      ∧ (s.well.wf = true → ∀ x, (∀ rgn c, rgn < 1024 → counterAt s bd.ctx rgn = some c → x ≠ wellKey c.1 c.2 + 15) →
        Memory.read t.well x = Memory.read s.well x))
    ∧ ((∀ tid ∈ bd.tids, ∀ (e : Env), e = s.operands bd i tid →
        window e.addr ≠ .glob ∨ tlbOnly s e.core e.ctx e.addr.toNat = none) →
      ThreadForm s bd i (fun _ th => th))

end Sys2Proof

/-- R91, R93, R98, R224 and R230: fences and prefetches. -/
def Obligations.FencesAndPrefetch : Prop := FenceForms ∧ PrefetchForms ∧ PrefetchFills

namespace Sys2Proof

/-- R142 and R231: the counter block of the region that b names, in a Well way that is filled. -/
def counterOf (e : Env) (u : State) : Option (Nat × Nat) :=
  (counterAt u e.ctx (e.opB.extractLsb' 0 10).toNat).bind (fun c =>
    if wellFilling u (c.2 + 63) then none else some c)

/-- R231 and R232: the long result. -/
def roundResult (i : Instr) (e : Env) (u : State) (x : Word) : State :=
  ({ u with uid := u.uid + 1 } : State).updThread e.key (fun th => th.longIssue u.uid i e [] (some x) 0)

/-- R144 to R146 and R231: what ldround does where it is not held back. -/
def roundReadAct (i : Instr) (acq : Bool) (e : Env) (u : State) : Option State :=
  match counterOf e u with
  | none => none
  | some c =>
    if poisonedRange u poisonWell (wellKey c.1 c.2) 8 then none
    else
      let sc := (e.hints.scope.getD 3#3).toNat
      let tag := some (tagWell (wellKey c.1 c.2))
      let met := if acq && sc = 5 then tagMet u tag else none
      let n := bytesWord (wellRead u c.1 c.2 8)
      let subs := bytesWord (wellRead u c.1 (c.2 + 8) 8) ||| BitVec.twoPow 64 (56 + dieOf e.core)
      let v := raiseObserved (wellUnit u c.1 (c.2 + 8) 8 subs.toNat) e.core e.ctx (e.opB.extractLsb' 0 10).toNat n
      let v := promoteMet (roundResult i e v n) tag met
      some (if acq then acquireActions v e.core sc else v)

/-- R143, R144 and R232: what round does where it is not held back. -/
def roundAct (i : Instr) (e : Env) (u : State) : Option State :=
  match counterOf e u with
  | none => none
  | some c =>
    let sc := (e.hints.scope.getD 3#3).toNat
    let g := (e.opB.extractLsb' 0 10).toNat
    if poisonedRange u poisonWell (wellKey c.1 c.2) 8 = true ∨ (sc = 4 ∧ (u.core e.core).dropped = true) then none
    else
      let u := waitRelease (performLoads u e.core e.key) e.core sc
      let old := bytesWord (wellRead u c.1 c.2 8)
      let n := if old = BitVec.allOnes 64 then old else old + 1
      let v := setTag (wellUnit u c.1 c.2 8 n.toNat) (some (tagWell (wellKey c.1 c.2))) e.core (if sc = 5 then 3 else sc)
      let subs := bytesWord (wellRead v c.1 (c.2 + 8) 8)
      let v := ((List.range 8).filter (fun k => subs.getLsbD (56 + k))).foldl (fun (v : State) k =>
        v.updDie k (fun x => { x with beacons := x.beacons ++ [(e.ctx, g, n)] })) v
      let waiters := wellNat v c.1 (c.2 + 24) 40
      let v := ((List.range 320).filter (fun k => waiters.testBit k)).foldl (fun (v : State) k =>
        v.updCore k (fun x => { x with wakes := x.wakes ++ [(e.ctx, g, n)] })) (wellUnit v c.1 (c.2 + 24) 40 0)
      some (roundResult i e (raiseObserved v e.core e.ctx g n) n)

end Sys2Proof

/-- R142 to R144, R231 and R232: ldround returns ROUND and subscribes its die; round adds 1, sends the subscribed dies
their beacons and the waiting cores their wakes, and returns the new value; each raises the core's observed round. -/
def Obligations.RoundCounters : Prop :=
  ∀ (s : State) (bd : Bundle) (sw : Bool) (d : BitVec 7) (b : Opnd),
    (Issues s bd (.ldround sw d b) → Completes s bd (.ldround sw d b) (roundReadAct (.ldround sw d b) false))
    ∧ (Issues s bd (.ldroundAcq sw d b) → Completes s bd (.ldroundAcq sw d b) (roundReadAct (.ldroundAcq sw d b) true))
    ∧ (Issues s bd (.round sw d b) → Completes s bd (.round sw d b) (roundAct (.round sw d b)))

/-! ### Inks (R112 to R136, R225 to R229) -/

namespace Sys2Proof

/-- R136 and R226: the granules of an ink, in ascending address, none of whose old inks another thread holds. -/
def recolours (e : Env) (t : TlbEntry) (new : Nat) : Nat → Nat → State → Option State
  | 0, _, s => some s
  | n + 1, i, s =>
    let va := e.addr + BitVec.ofNat 64 (256 * i)
    let go (u : State) : Option State :=
      match mapWait u e.core e.ctx (t.pa va.toNat) with
      | (none, v) => recolours e t new n (i + 1) (recolour v e.core e.ctx va.toNat (t.pa va.toNat) new)
      | _ => none
    match inkOf s false e.core e.ctx (t.pa va.toNat) with
    | (.error _, _) => none
    | (.ok j, u) =>
      if j = 0 ∨ j = new ∨ (u.thread e.key).holdsInk j = true then go u
      else
        match resolveInk u e.core e.ctx va false j with
        | (.ok dsc, v) => if monHeld v dsc.blk then none else go v
        | _ => none

/-- R136 and R226: what ink does where it is not held back. A new ink whose monitor block fails the Well bounds is taken all the
same (log entry 47). -/
def inkAct (e : Env) (u : State) : Option State :=
  let n := (e.opB.extractLsb' 32 9).toNat
  let new := (e.opB.extractLsb' 0 12).toNat
  if n = 0 then some u
  else if window e.addr ≠ .glob ∨ e.addr.toNat % 256 ≠ 0 ∨ 2 ^ 16 < e.addr.toNat % 2 ^ 16 + 256 * n
      ∨ (u.thread e.key).status ≠ .ready then none
  else match translatePieces u e.core e.ctx [(e.addr.toNat, 256 * n)] with
  | (.ok [p], u) =>
    if leafI p.tlb.leaf = false ∨ leafW p.tlb.leaf = false then none
    else match inkOf u false e.core e.ctx (p.tlb.pa e.addr.toNat) with
    | (.error _, _) => none
    | (.ok _, u) =>
      if (watchHit u e.ctx e.addr.toNat (256 * n) false true).isSome then none
      else if new = 0 then recolours e p.tlb new n 0 u
      else match resolveInk u e.core e.ctx e.addr false new with
      | (.ok _, v) => recolours e p.tlb new n 0 v
      | (.trap x, v) => if x.cause = causeInkScope then none else recolours e p.tlb new n 0 v
      | _ => none
  | _ => none

/-- R228: what inkq does where it is not held back. -/
def inkqAct (i : Instr) (e : Env) (u : State) : Option State :=
  match checkAccess u (laneAccess e 1 1 .read false) with
  | (.ok q, u) =>
    if (watchHit u e.ctx e.addr.toNat 1 true false).isSome then none
    else
      let inked : Bool := match q with | .glob ps _ => ps.any (fun p => leafI p.tlb.leaf) | _ => false
      let j : Nat := match q with | .glob _ js => js.headD 0 | _ => 0
      let x := (if inked then 2 ^ 13 else 0) + (if j ≠ 0 ∧ (u.thread e.key).holdsInk j = true then 2 ^ 12 else 0) + j
      some (({ u with uid := u.uid + 1 } : State).updThread e.key (fun th =>
        th.longIssue u.uid i e [] (some (BitVec.ofNat 64 x)) 0))
  | _ => none

/-- R103 and R229: what inksig does where it is not held back. -/
def inksigAct (e : Env) (u : State) : Option State :=
  let j := e.opB.toNat
  if j = 0 ∨ 4095 < j then none
  else match inkDesc u e.core e.ctx ((u.ctx e.ctx).inkdesc + BitVec.ofNat 64 (8 * j)) false j with
  | (.ok dsc, v) =>
    let sig := (monRead v dsc.blk 2).extractLsb' 32 32
    let w : State := { v with
      well := Memory.writeN v.well (dsc.blk + 16) (natToBytes 8 (setBits (monRead v dsc.blk 2) 63 32 (sig + 1).toNat).toNat) }
    if wellFilling v (dsc.mon + 63) then none else some (clearTags w (tagWell dsc.blk) (tagWell dsc.blk))
  | _ => none

/-- R136, R226, R228 and R229: ink gives every granule of its range its new ink where no other thread holds the old one;
inkq returns a granule's ink with bit 13 for an inked page and bit 12 where the thread holds it; inksig adds 1 to SIG of
the monitor block. ink takes a new ink whose monitor block fails the Well bounds (log entry 47, the model's choice). -/
def InkForms : Prop :=
  ∀ (s : State) (bd : Bundle) (sw : Bool) (d a : BitVec 7) (b : Opnd),
    (Issues s bd (.ink sw a b) → Completes s bd (.ink sw a b) (inkAct))
    ∧ (Issues s bd (.inkq sw d a) → Completes s bd (.inkq sw d a) (inkqAct (.inkq sw d a)))
    ∧ (Issues s bd (.inksig sw b) → Completes s bd (.inksig sw b) (inksigAct))

/-- R133 and R229: an inkwait of a thread that holds the ink, its highest, with no command of the hold outstanding: in one
step it reads the word, suspends the hold, releases the ink and waits for a change of the word or of SIG. -/
def inkwaitAct (e : Env) (s : State) : Option (State × Option Why) :=
  let j := e.opB.toNat
  match windowOf e.addr 8, checkAccess s (laneAccess e 8 8 .read false) with
  | .scr _ _, _ => none
  | _, (.ok q, u) =>
    match (u.thread e.key).holds.find? (fun x => x.ink == j) with
    | none => none
    | some k =>
      if j < (u.thread e.key).maxHeld ∨ k.w = true ∨ k.cmds ≠ [] ∨ placePoisoned (placeSettle u e.core q) q 8 = true then none
      else
        let r := placeRead (placeSettle u e.core q) e.core q 8
        let sig := (monRead r.2 (heldDesc r.2 e.core e.ctx j).blk 2).extractLsb' 32 32
        some (releaseInk (r.2.updThread e.key (fun th => th.suspendHold j true)) e.key j false,
          some (.watch e.addr (bytesWord r.1) j sig))
  | _, _ => none

/-- R133, R208 and R229: the threads of a bundle that execute inkwait wait one after another. -/
def InkWaits : Prop :=
  ∀ (s : State) (bd : Bundle) (sw : Bool) (a : BitVec 7) (b : Opnd), Issues s bd (.inkwait sw a b) →
    Goes s bd (.inkwait sw a b) inkwaitAct

end Sys2Proof

/-- R133, R136, R226, R228 and R229: ink, inkq, inksig and inkwait. -/
def Obligations.Inks : Prop := InkForms ∧ InkWaits

/-! ### The return stack, exits, barriers (R158 to R160, R167, R241 to R247) -/

namespace Sys2Proof

/-- R241: the 8 bytes of a return-stack slot: in the global window, mapped, permitted, in no inked page, in no page that a snap
has still to copy before a write (R338), and with no watchpoint on them. -/
def stackPlace (e : Env) (va : Word) (need : Need) (s : State) : Option (List Piece × State) :=
  if isGlobal va 8 = false then none
  else match translatePieces s e.core e.ctx (pagePieces va.toNat 8) with
  | (.ok ps, u) =>
    if firstDenied need ps ≠ none ∨ ps.any (fun p => leafI p.tlb.leaf) = true then none
    else
      let r := if need = .write then snapWait u e.ctx ps else (none, u)
      if r.1 = none ∧ watchHit r.2 e.ctx va.toNat 8 (need == .read) (need == .write) = none then some (ps, r.2) else none
  | _ => none

/-- R241: the address of the return-stack slot of frame depth `n`. -/
def stackAddress (s : State) (e : Env) (n : Nat) : Word :=
  (s.team e.team).rstack + BitVec.ofNat 64 (((s.team e.team).ordinal * 1024 + e.tid) * 2 ^ 19 + 8 * n)

/-- R160, R241 and R242: what a call does where it is not held back. -/
def callAct (tgt : Env → Word) (e : Env) (u : State) : Option State :=
  let fd := (u.thread e.key).fd
  if fd = 65535 ∨ (tgt e).toNat % 4 ≠ 0 ∨ (u.thread e.key).team ≠ e.team ∨ (u.thread e.key).tid ≠ e.tid then none
  else match stackPlace e (stackAddress u e (fd + 1)) .write u with
  | none => none
  | some (ps, v) =>
    some ((storeGlobal v e.core e.ctx false false ps (natToBytes 8 e.npc.toNat)).updThread e.key (fun th =>
      { th with fd := th.fd + 1, pc := tgt e }))

end Sys2Proof

/-- R160, R241 and R242: a call stores the address of the word after it in the slot of the new frame depth, as a plain
store, raises FD by 1 and goes to its target, a multiple of 4. -/
def Obligations.Calls : Prop :=
  ∀ (s : State) (bd : Bundle) (sw : Bool) (o : BitVec 25) (a : BitVec 7),
    (Issues s bd (.call sw o) → Completes s bd (.call sw o) (callAct (fun e => e.npc + 4 * o.signExtend 64)))
    ∧ (Issues s bd (.callr sw a) → Completes s bd (.callr sw a) (callAct (fun e => e.opA)))

namespace Sys2Proof

/-- R42, R126, R138, R241 and R243: what ret does. The inks of its frame, in a handler those taken there alone, are released first, the
highest first: it waits for that. A load of the slot that hits in the L1, on lines of no inked page (log entry 57, the model's
reading), uses no TLB. -/
def retAct (e : Env) (u : State) : Option (State × Option Why) :=
  let th := u.thread e.key
  if th.fd = 0 ∨ th.team ≠ e.team ∨ th.tid ≠ e.tid then none
  else
    let va := stackAddress u e th.fd
    let inks := (th.holds.reverse.filter (fun k => k.depth == th.fd && (k.h || th.handler == false))).map (fun k => k.ink)
    let back (bs : List Byte) (v : State) : Option (State × Option Why) :=
      if (bytesWord bs).toNat % 4 ≠ 0 then none
      else if inks = [] then some (v.updThread e.key (fun t => { t with fd := t.fd - 1, pc := bytesWord bs }), none)
      else some (v, some (.releasing inks (.ret (bytesWord bs))))
    match (hitLines { e with addr := va } (.rel 0) 8 u).filter (fun ls => ls.all (fun l => l.2.2.i == false)) with
    | some ls => (hitBytes { e with addr := va } 8 ls u).bind (fun bs => back bs u)
    | none =>
      match stackPlace e va .read u with
      | none => none
      | some (ps, v) =>
        match roundEntries { e with addr := va } (.rel 0) (regionsOf ps) v with
        | (.ok (), v) =>
          let r := loadHeld e ps [] v
          if r.1.2 = true then none else back r.1.1 r.2
        | _ => none

/-- R126 and R244: exit waits for what is outstanding, then for the release of every hold, the highest first; with neither the thread
ends. -/
def exitAct (e : Env) (u : State) : Option (State × Option Why) :=
  let th := u.thread e.key
  if th.outs ≠ [] then some (u, some .parkFirst)
  else if th.holds = [] then some (endThread u e.key, none)
  else some (u, some (.releasing (th.holds.reverse.map (fun k => k.ink)) .exit))

/-- R126, R138, R243 and R244: ret takes the return address from the slot of its frame depth, lowers FD by 1 and goes
there once its inks are released. exit ends a thread once nothing is outstanding and no hold is left. -/
def ReturnForms : Prop :=
  ∀ (s : State) (bd : Bundle) (sw : Bool),
    (Issues s bd (.ret sw) → Goes s bd (.ret sw) retAct)
    ∧ (Issues s bd (.exit sw) → Goes s bd (.exit sw) exitAct)

/-- R244 and R379: a thread that ends is exited, and so is its team once none of its threads lives; its launch then counts one
exit more. -/
def ExitForms : Prop :=
  ∀ (s : State) (k : Nat) (th : Thread), s.thread? k = some th → k = threadKey th.team th.tid →
    ((endThread s k).thread k).status = .exited
    ∧ ((∀ p ∈ s.threads, p.2.team = th.team → p.1 ≠ k → p.2.status = .exited) → s.threads.Pairwise (fun p q => p.1 ≠ q.1) →
      ((endThread s k).team th.team).exited = true
        ∧ ∀ l, s.launch (s.team th.team).launch = some l →
          (endThread s k).launch (s.team th.team).launch = some { l with exits := l.exits + 1 })

end Sys2Proof

/-- R126, R138, R243 and R244: ret and exit. -/
def Obligations.ReturnsAndEnds : Prop := ReturnForms ∧ ExitForms

namespace Sys2Proof

/-- R245 and R246: a thread that is not the last to arrive at a barrier waits there; the last one's arrival completes it:
the phase count rises by 1, no arrival is left, and every thread that had arrived goes on. -/
def barAct (n : Nat) (e : Env) (s : State) : Option (State × Option Why) :=
  let u := performLoads s e.core e.key
  let b := barOf u e.team n
  let live := (u.threads.filter (fun p => p.2.team == e.team && p.2.status != .exited)).length
  let become (x : Barrier) : State := u.updTeam e.team (fun tm => { tm with bars := Tbl.set tm.bars n x })
  if b.arrived.length + 1 < live then some (become ⟨b.arrived ++ [e.tid], b.phase⟩, some (.bar n))
  else some (b.arrived.foldl (fun (w : State) x => finishBlocked w (threadKey e.team x)) (become ⟨[], b.phase + 1⟩), none)

/-- R245 and R246: the same of a cluster barrier, whose arrival is a release and whose departure an acquire at cluster
scope, on the core of every thread that leaves. -/
def cbarAct (n : Nat) (e : Env) (s : State) : Option (State × Option Why) :=
  let u := waitRelease (performLoads s e.core e.key) e.core 2
  let b := cbarOf u e.team n
  if b.arrived.length + 1 < clusterLive u e.team then
    some (setCbar u e.team n ⟨b.arrived ++ [e.key], b.phase⟩, some (.cbar n))
  else
    let v := b.arrived.foldl (fun (w : State) k => finishBlocked w k) (setCbar u e.team n ⟨[], b.phase + 1⟩)
    let w := ((b.arrived.map (fun k => (v.thread k).core)).dedup).foldl (fun (w : State) c => acquireActions w c 2) v
    some (acquireActions w e.core 2, none)

end Sys2Proof

/-- R208 and R245 to R247: bar and cbar: the threads of a bundle arrive one after another. -/
def Obligations.Barriers : Prop :=
  ∀ (s : State) (bd : Bundle) (sw : Bool) (n : BitVec 4) (k : BitVec 2),
    (Issues s bd (.bar sw n) → Goes s bd (.bar sw n) (barAct n.toNat))
    ∧ (Issues s bd (.cbar sw k) → Goes s bd (.cbar sw k) (cbarAct k.toNat))

/-- R167, R169 and R239: brs of threads with nothing outstanding: each thread goes to its side, as br would have it, and
nothing is spawned where all agree, where the team has no spawn slot, or where the quire memory has no room for every record of
the minority (the takers, where the sides are equal); else the minority ends in its group, each thread with the live registers
of its own hints, and its records join the team's spawn queue. The room is what the records of all the core's teams leave of
one quire memory (log entry 36, the model's choice). -/
def Obligations.SpawnBranch : Prop :=
  ∀ (s : State) (bd : Bundle) (sw p : Bool) (m : BitVec 3) (o : BitVec 21), Issues s bd (.brs sw m p o) →
    let i : Instr := .brs sw m p o
    let th (tid : Nat) := s.thread (threadKey bd.team tid)
    let takes (tid : Nat) : Bool := ((th tid).getM m.toNat).getLsbD 0 == p
    let gone (tid : Nat) : Thread := { th tid with
      pc := if takes tid then bd.pc + 4 + 4 * o.signExtend 64 else bd.pc + 4
      hints := Hints.empty, unit := none, age := 0, status := .ready, pending := [] }
    let taken := bd.tids.filter takes
    let fall := bd.tids.filter (fun tid => !takes tid)
    let minority := if taken.length ≤ fall.length then taken else fall
    let live (tid : Nat) := liveRegs s (s.operands bd i tid)
    let need : Nat := quireUsed s bd.core + (minority.map (fun tid => 256 + 8 * (live tid).length)).sum
    (∀ tid ∈ bd.tids, (th tid).outs = [] ∧ (th tid).replay = []) →
    ((s.team bd.team).hadSpawn = false ∨ taken = [] ∨ fall = [] ∨ Config.quireBytes < need →
      ∃ t, exec i s = .next t ∧ OnlyThreads s t bd
        ∧ ∀ tid ∈ bd.tids, t.thread (threadKey bd.team tid) = gone tid)
    ∧ ((s.team bd.team).hadSpawn = true → taken ≠ [] → fall ≠ [] → need ≤ Config.quireBytes →
      ∃ t, exec i s = .next t
        ∧ (∀ tid ∈ bd.tids, t.thread (threadKey bd.team tid) =
          if tid ∈ minority then { gone tid with status := .spawned, v := (th tid).v.filter (fun x => (live tid).contains x.1) }
          else gone tid)
        ∧ (t.team bd.team).spawns = (s.team bd.team).spawns
          ++ minority.map (fun tid => ⟨tid, (gone tid).pc, live tid, 256 + 8 * (live tid).length, 0⟩))

/-! ### Traps and returns (R249, R250, R381 to R388) -/

/-- R85, R161, R249, R384, R386 and R402: the threads of a bundle that execute trap, or bkpt where breakpoints do not halt,
enter the handler together: each with its begun loads returned and its ready results delivered (log entry 12), at TRAPBASE, in
handler mode, its pending set, its hints and its queue empty and its other registers as they were; the frame of their slot is
busy with exactly them. The cause is BKPT, of kind 0 and INFO 0, and ADDR is trap's b(t), or 0 for bkpt; the frame tells it of
the thread at the lowest position, and its lane record of each thread (TrapRecordsAndReturn says where). No other thread changes
but for bytes of its loads that come in. bkpt where breakpoints halt does so: its team halts, with reason 2, its threads' ages
are 0, and they go on. -/
def Obligations.TrapInstructions : Prop :=
  (∀ (s u : State) (bd : Bundle) (i : Instr) (page : TlbEntry),
    ((∃ sw b, i = .trap sw b) ∨ (∃ sw, i = .bkpt sw
      ∧ ¬ ((s.ctx bd.ctx).dbgctl.getLsbD 0 = true ∧ (s.ctx bd.ctx).dbgctl.getLsbD 3 = true))) →
    Issues s bd i → bd.tids ≠ [] → (slotInfo s bd.core bd.ctx bd.slot).frame = [] →
    (∀ tid ∈ bd.tids, (s.thread (threadKey bd.team tid)).handler = false) →
    (saveSlotVa s bd.core bd.ctx bd.slot).toNat < 2 ^ 56 →
    lookup s bd.core bd.ctx (saveSlotVa s bd.core bd.ctx bd.slot).toNat = (.ok page, u) → leafW page.leaf = true →
    (snapKey u bd.ctx page).1 = none →
    let still (th : Thread) (outs : List Outst) : Prop :=
      outs.map (fun o => (o.id, o.instr, o.env, o.result)) = th.outs.map (fun o => (o.id, o.instr, o.env, o.result))
    ∃ t, exec i s = .next t
      ∧ (∀ tid ∈ bd.tids, ∃ outs, still (s.thread (threadKey bd.team tid)) outs
          ∧ t.thread (threadKey bd.team tid) = { ({ s.thread (threadKey bd.team tid) with
              outs := outs } : Thread).deliverReady.enter (s.ctx bd.ctx).trapbase with age := 0 })
      ∧ (∀ k, (∀ tid ∈ bd.tids, k ≠ threadKey bd.team tid) → ∃ outs, still (s.thread k) outs
          ∧ t.thread k = { s.thread k with outs := outs })
      ∧ (∀ tid, tid ∈ (slotInfo t bd.core bd.ctx bd.slot).frame ↔ tid ∈ bd.tids)
      ∧ (slotInfo t bd.core bd.ctx bd.slot).keep = false
      ∧ ∃ (v : State) (xs : List (Nat × Thread)) (tr : Trap), t = enterHandler v bd.core bd.ctx bd.slot xs tr page
        ∧ (xs.head?).bind (fun p => p.2.trap) = some tr
        ∧ (∀ k, (∃ p ∈ xs, p.1 = k) ↔ ∃ tid ∈ bd.tids, k = threadKey bd.team tid)
        ∧ xs.Pairwise (fun p q => p.2.pos ≤ q.2.pos)
        ∧ ∀ p ∈ xs, v.thread p.1 = p.2 ∧ p.2.trap = some { trapOf causeBkpt with
            addr := (match i with | .trap _ _ => (s.operands bd i p.2.tid).opB | _ => 0), at_ := some bd.pc })
  ∧ ∀ (s : State) (bd : Bundle) (sw : Bool), Issues s bd (.bkpt sw) →
    (s.ctx bd.ctx).dbgctl.getLsbD 0 = true → (s.ctx bd.ctx).dbgctl.getLsbD 3 = true →
    let act (e : Env) (u : State) : Option State :=
      let v := u.updTeam e.team (fun tm => if tm.halted then tm else { tm with halted := true, haltReason := some 2 })
      some (noteHalt { v with
        threads := v.threads.map (fun p => if p.2.team = e.team then (p.1, { p.2 with age := 0 }) else p) } e.team)
    ∀ t, lanesRun (.bkpt sw) act (s.operandsAll bd (.bkpt sw)) s.issued = some t →
      (∀ p ∈ t.threads, p.2.core = bd.core → p.2.ctx = bd.ctx → p.2.slot = bd.slot → p.2.trap = none) →
      exec (.bkpt sw) s = .next (noteHalt t bd.team)

namespace Sys2Proof

/-- R383 and R384: where the fields of a frame, of a lane record and of a replay entry stand, and that a replay entry read
back is the one written, but for the hints and the mask, which its 64 bytes do not hold. -/
def TrapRecorded : Prop :=
  (∀ (s : State) (core ctx slot k : Nat) (th : Thread) (xs : List (Nat × Thread)) (tr : Trap),
    let bs := frameBytes s core ctx slot ((k, th) :: xs) tr
    let tm := s.team th.team
    bs.length = 256 ∧ fieldAt bs 0 2 = tr.cause % 2 ^ 16 ∧ fieldAt bs 2 1 = tr.kind % 2 ^ 8
      ∧ fieldAt bs 3 1 = (if tm.halted then 1 else 0) + (if tr.cause = causeCkpt then 2 else 0)
      ∧ fieldAt bs 8 8 = th.pc.toNat ∧ fieldAt bs 16 8 = tr.addr.toNat
      ∧ (tr.cause ≠ causeFpx → fieldAt bs 24 8 = tr.info.toNat)
      ∧ (∀ p, p < 32 → (fieldAt bs 32 4).testBit p = ((k, th) :: xs).any (fun x => x.2.pos == p))
      ∧ fieldAt bs 36 4 = tm.spawns.length % 2 ^ 32 ∧ fieldAt bs 40 8 = tm.gtime.toNat ∧ fieldAt bs 48 16 = 0)
  ∧ (∀ (th : Thread) (q : Nat), q ≤ 9 →
    let bs := laneBytes th q
    bs.length = 64 ∧ fieldAt bs 0 8 = th.pc.toNat ∧ fieldAt bs 8 2 = th.fd % 2 ^ 16 ∧ fieldAt bs 10 2 = 1 + 2 * q
      ∧ fieldAt bs 12 4 = th.csn.toNat ∧ (∀ r, r < 4 → fieldAt bs (16 + 8 * r) 8 = (th.getV r).toNat)
      ∧ fieldAt bs 48 8 = (match th.trap with | some x => x.addr.toNat | none => 0))
  ∧ ∀ r : Replay, (replayBytes r).length = 64
      ∧ replayRead (replayBytes r) = { r with hints := Hints.empty, mask := 0xFF }

/-- R138, R250, R384, R387 and R393: what rtt does. It waits for the release of the handler's inks, the highest first, but for those of a
KEEP frame whose depth the lane record's FD covers. -/
def rttAct (e : Env) (u : State) : Option (State × Option Why) :=
  let th := u.thread e.key
  if th.handler = false then none
  else match slotRead u th.core th.ctx (laneVa u th) 64 with
  | (.ok lane, v) =>
    let keep := (slotInfo v th.core th.ctx th.slot).keep
    let inks := ((th.holds.filter (fun k => k.h && !(keep && decide (k.depth ≤ fieldAt lane 8 2)))).sortBy
      (fun a b => decide (b.ink ≤ a.ink))).map (fun k => k.ink)
    if fieldAt lane 0 8 % 4 ≠ 0 then none
    else if inks ≠ [] then some (v, some (.releasing inks .rtt))
    else match slotRead v (v.thread e.key).core (v.thread e.key).ctx (laneVa v (v.thread e.key)) 64 with
    | (.ok lane, w) =>
      if fieldAt lane 0 8 % 4 ≠ 0 then none
      else match slotRead w (v.thread e.key).core (v.thread e.key).ctx (replayVa w (v.thread e.key)) 576 with
      | (.ok queue, x) => some (returnThread x e.key lane queue, none)
      | _ => none
    | _ => none
  | _ => none

/-- R138, R250, R384, R387 and R393: rtt of threads in handler mode. What it leaves of a thread: v0 to v3,
FD, CSN and PC as the lane record has them, no handler mode, the valid entries of its queue to be executed again, every
other register as it was, its holds, which no longer count as the handler's after a KEEP frame, and the frame without it. -/
def HandlerReturns : Prop :=
  (∀ (s : State) (bd : Bundle) (sw : Bool), Issues s bd (.rtt sw) → Goes s bd (.rtt sw) rttAct)
  ∧ ∀ (s : State) (k : Nat) (th : Thread) (lane queue : List Byte), s.thread? k = some th →
    let t := returnThread s k lane queue
    let th' := t.thread k
    let word (o : Nat) : Word := BitVec.ofNat 64 (fieldAt lane o 8)
    let entries := ((List.range (min (fieldAt lane 10 2 / 2 % 16) 9)).map (fun n =>
      replayRead ((queue.drop (64 * n)).take 64))).filter (fun r => r.valid)
    (∀ r, th'.getV r = if r < 4 then word (16 + 8 * r) else th.getV r)
      ∧ th'.fd = fieldAt lane 8 2 ∧ th'.csn = BitVec.ofNat 32 (fieldAt lane 12 4) ∧ th'.pc = word 0
      ∧ th'.handler = false ∧ th'.replay.map (fun r => { r with hints := Hints.empty, mask := 0xFF }) = entries
      ∧ (entries = [] → th'.status = .ready) ∧ (entries ≠ [] → th'.status = .reinject)
      ∧ th'.m = th.m ∧ th'.h = th.h ∧ th'.fpctl = th.fpctl ∧ th'.fpf = th.fpf ∧ th'.outs = th.outs
      ∧ th'.holds = (if (slotInfo s th.core th.ctx th.slot).keep then th.holds.map (fun k => { k with h := false }) else th.holds)
      ∧ th.tid ∉ (slotInfo t th.core th.ctx th.slot).frame

end Sys2Proof

/-- R138, R250, R383, R384, R387 and R393: what a trap saves and where it goes, and the return from a handler. -/
def Obligations.TrapRecordsAndReturn : Prop := TrapRecorded ∧ HandlerReturns

/-! ### Collectives (R170, R265 to R271, R304, R305) -/

namespace Sys2Proof

/-- The rendezvous forms. -/
def isCollective : Instr → Bool
  | .shuf .. | .voteAny .. | .voteAll .. | .voteBallot .. | .elect .. | .matchAny .. | .redux .. | .scanIncl ..
  | .scanExcl .. | .pack6 .. | .unpack6 .. | .topk .. => true
  | _ => false

end Sys2Proof

/-- R170, R265, R266 and R290: a bundle in which every live member of a home group arrives at one collective, none of them
before it: each receives its own result of what all captured, under its own FTZ (log entry 13, the model's reading),
outstanding and settled, and its CSN rises by 1. No other
register, no memory and no other thread changes, and no rendezvous is left of it. -/
def Obligations.Collectives : Prop :=
  ∀ (s : State) (bd : Bundle) (i : Instr) (g : Nat) (n : BitVec 32) (mask : BitVec 32),
    let th (tid : Nat) : Thread := s.thread (threadKey bd.team tid)
    let ms : List Member := bd.tids.map (fun tid => ⟨homeLane tid, s.operands bd i tid⟩)
    isCollective i = true → Issues s bd i → bd.tids ≠ [] → bd.tids.Pairwise (fun x y => x < y) →
    (∀ tid ∈ bd.tids, homeGroup tid = g ∧ (th tid).csn = n ∧ (th tid).replay = []
      ∧ effectiveMask (s.operands bd i tid) = mask) →
    (∀ l, l < 32 → mask.getLsbD l = true → (∃ t, s.thread? (threadKey bd.team (g * 32 + l)) = some t ∧ t.status ≠ .exited) →
      g * 32 + l ∈ bd.tids) →
    (∀ r ∈ (s.team bd.team).rendezvous, ¬ (r.group = g ∧ r.csn = n)) →
    ((∃ sw f d a b, i = .topk sw f d a b) → ∀ x ∈ ms, ∀ y ∈ ms, x.env.opB.extractLsb' 0 32 = y.env.opB.extractLsb' 0 32) →
    ∃ t, exec i s = .next t
      ∧ t = { s with bundle := none, uid := t.uid, threads := t.threads, teams := t.teams }
      ∧ (∀ k, t.team k = s.team k)
      ∧ (∀ k, (∀ tid ∈ bd.tids, k ≠ threadKey bd.team tid) → t.thread? k = s.thread? k)
      ∧ ∀ tid ∈ bd.tids, ∃ m age, s.uid ≤ m ∧ (t.thread (threadKey bd.team tid)) =
          let e := s.operands bd i tid
          let r := collResult i mask ms (th tid).ftz ⟨homeLane tid, e⟩
          { (((th tid).longIssue m i { e with settled := true } [] (some r.1) r.2).complete i e) with
            csn := n + 1, age := age }

namespace Sys2Proof

/-- The operand that the member at a home lane captured. -/
def capturedAt (f : Env → Word) (ms : List Member) (l : Nat) : Option Word :=
  (ms.find? (fun m => m.lane == l)).map (fun m => f m.env)

/-- R266 to R268: shuf's sub-element i is the sub-element of a that selector i names, of the member at the home lane it
names, or 0; the votes, elect and match in the low half, and the present mask above. -/
def CollectiveValues : Prop :=
  ∀ (ms : List Member) (self : Member) (mask : BitVec 32), (∀ m ∈ ms, m.lane < 32) → self ∈ ms →
    ms.Pairwise (fun x y => x.lane ≠ y.lane) →
    let present (l : Nat) : Bool := ms.any (fun m => m.lane == l)
    let pred (l : Nat) : Bool := ((capturedAt Env.opB ms l).getD 0).getLsbD 0
    let high (x : Word) : Prop := ∀ l, l < 32 → x.getLsbD (32 + l) = present l
    (∀ (w : W) (j : Nat), j < 64 / w.bits →
      let sel := elemAt w.bits self.env.opB j
      elemAt w.bits (shufResult w.bits ms self) j =
        match capturedAt Env.opA ms (sel % 32) with
        | some x => elemAt w.bits x (sel / 32 % (64 / w.bits))
        | none => 0)
    ∧ high (voteAnyResult ms)
    ∧ (∀ k, k < 32 → (voteAnyResult ms).getLsbD k = (decide (k = 0) && (List.range 32).any (fun l => present l && pred l)))
    ∧ high (voteAllResult mask ms)
    ∧ (∀ k, k < 32 → (voteAllResult mask ms).getLsbD k =
        (decide (k = 0) && (List.range 32).all (fun l => !mask.getLsbD l || (present l && pred l))))
    ∧ high (voteBallotResult ms) ∧ (∀ k, k < 32 → (voteBallotResult ms).getLsbD k = (present k && pred k))
    ∧ high (electResult ms self)
    ∧ (∀ k, k < 32 → (electResult ms self).getLsbD k =
        (decide (k = 0) && (List.range 32).all (fun l => !present l || decide (self.lane ≤ l))))
    ∧ high (matchResult ms self)
    ∧ ∀ k, k < 32 → (matchResult ms self).getLsbD k = (capturedAt Env.opB ms k == some self.env.opB)

/-- R269 and R270: integer redux is the fold of its operation over the lanes, exact and clamped once for the saturating
sum; a lane that is no member contributes nothing and an exited member 0; an inclusive scan is the same over the lanes up
to the member's own, an exclusive one over those below it, whose empty fold is the identity. -/
def IntegerFolds : Prop :=
  ∀ (o : BitVec 3) (c : BitVec 4) (mask : BitVec 32) (ms : List Member) (self : Member) (ftz excl : Bool) (j : Nat),
    o ≠ 7#3 → c.toNat < 8 → (∀ m ∈ ms, m.lane < 32 ∧ mask.getLsbD m.lane = true) → ms.Pairwise (fun x y => x.lane ≠ y.lane) →
    j < 64 / (IT.ofBits (c.extractLsb' 0 3)).bits →
    let t := IT.ofBits (c.extractLsb' 0 3)
    let value (l : Nat) : Nat := match capturedAt Env.opB ms l with | some x => elemAt t.bits x j | none => 0
    let fold (ls : List Nat) : Nat :=
      let xs := ls.map value
      if o = 0#3 then (xs.foldl (fun a b => a + b) 0) % 2 ^ t.bits
      else if o = 1#3 then wrapTo t.bits (max t.low (min t.high ((xs.map t.value).foldl (fun a b => a + b) 0)))
      else if o = 2#3 then wrapTo t.bits (xs.foldl (fun a b => min a (t.value b)) t.high)
      else if o = 3#3 then wrapTo t.bits (xs.foldl (fun a b => max a (t.value b)) t.low)
      else if o = 4#3 then xs.foldl (fun a b => a &&& b) (2 ^ t.bits - 1)
      else if o = 5#3 then xs.foldl (fun a b => a ||| b) 0
      else xs.foldl (fun a b => a ^^^ b) 0
    let lanes := (List.range 32).filter (fun l => mask.getLsbD l)
    (elemAt t.bits (reduxResult o c mask ms ftz).1 j = fold lanes)
      ∧ elemAt t.bits (scanResult o c excl mask ms ftz self).1 j
        = fold (lanes.filter (fun l => if excl then decide (l < self.lane) else decide (l ≤ self.lane)))

/-- R270: node `i` of level `k` of a tree of combinations. -/
def nodeAt (comb : FRes → FRes → FRes) (leaf : Nat → FRes) : Nat → Nat → FRes
  | 0, i => leaf i
  | k + 1, i => comb (nodeAt comb leaf k (2 * i)) (nodeAt comb leaf k (2 * i + 1))

/-- R269 and R270: float redux is the root of the home-lane tree, each sum rounded once, to nearest even; a lane that is no member
contributes the identity and an exited member 0. A scan combines the members' values in ascending order, from the identity on
(log entry 13). The flags are those of every node, under FTZ the DF of a subnormal contribution too. -/
def FloatFolds : Prop :=
  ∀ (o : BitVec 3) (c : BitVec 4) (mask : BitVec 32) (ms : List Member) (self : Member) (ftz excl : Bool),
    o = 0#3 ∨ o = 2#3 ∨ o = 3#3 → 8 ≤ c.toNat → c.toNat ≤ 10 →
    let f : FT := if c = 8#4 then .f32 else if c = 9#4 then .f16 else .bf16
    let taken (x : Nat) : FRes :=
      if ftz && f.subnormal x then ⟨f.zeroBits (decide (2 ^ (f.bits - 1) ≤ x)), flagDF⟩ else ⟨x, 0⟩
    let comb (p q : FRes) : FRes :=
      let x := f.decode p.bits
      let y := f.decode q.bits
      (if o = 0#3 then (sumTerms [.val x, .val y]).round f .rne ftz
        else (f.deliver .rne false (chosen (o == 3#3) false x y)).more (if x.isSnan || y.isSnan then flagNV else 0)).more
        (p.flags ||| q.flags)
    let start : Nat := if o = 0#3 then f.zeroBits true else f.infBits (o == 3#3)
    let value (absent j l : Nat) : Nat := match capturedAt Env.opB ms l with
      | some x => elemAt f.bits x j
      | none => if mask.getLsbD l then 0 else absent
    let root (j : Nat) : FRes := nodeAt comb (fun l => taken (value start j l)) 5 0
    let lanes := (List.range 32).filter (fun l =>
      mask.getLsbD l && (if excl then decide (l < self.lane) else decide (l ≤ self.lane)))
    let line (j : Nat) : FRes := lanes.foldl (fun acc l => comb acc (taken (value 0 j l))) ⟨start, 0⟩
    let gives (r : Word × BitVec 6) (one : Nat → FRes) : Prop :=
      (∀ j, j < 64 / f.bits → elemAt f.bits r.1 j = (one j).bits % 2 ^ f.bits)
        ∧ ∀ k, k < 6 → (r.2.getLsbD k = true ↔ ∃ j, j < 64 / f.bits ∧ (one j).flags.getLsbD k = true)
    gives (reduxResult o c mask ms ftz) root ∧ gives (scanResult o c excl mask ms ftz self) line

/-- R271: pack6 puts the 6-bit conversion of byte i of the quad's lane r at bit 48r + 6i of 192 bits, of which lane r receives the
64 from 64r on, and lane 3 zero; its flags are those of the lane's own conversions. unpack6 gives lane r the bytes of values
8r to 8r + 7 of the 192 bits of lanes 0 to 2. -/
def PackedValues : Prop :=
  ∀ (code : BitVec 5) (sat : Bool) (ms : List Member) (self : Member),
    let word (l : Nat) : Word := (capturedAt Env.opB ms l).getD 0
    let quad := self.lane / 4 * 4
    let r := self.lane % 4
    let narrow (l i : Nat) : FRes :=
      (Tiny.ofCode 6 code).convert .rne sat ((Tiny.ofCode 8 code).decode (elemAt 8 (word l) i))
    (∀ k, k < 64 → (pack6Result code sat ms self).1.getLsbD k =
      if r = 3 then false else
        let n := 64 * r + k
        (narrow (quad + n / 48) (n % 48 / 6)).bits.testBit (n % 6))
    ∧ (∀ k, k < 6 → ((pack6Result code sat ms self).2.getLsbD k = true ↔ ∃ i, i < 8 ∧ (narrow self.lane i).flags.getLsbD k = true))
    ∧ ∀ i v, i < 8 → v < 64 →
      (∀ b, b < 6 → v.testBit b = (word (quad + (6 * (8 * r + i) + b) / 64)).getLsbD ((6 * (8 * r + i) + b) % 64)) →
      elemAt 8 (unpack6Result code ms self) i =
        ((Tiny.ofCode 8 code).convert .rne false ((Tiny.ofCode 6 code).decode v)).bits % 2 ^ 8

/-- R304 and R305: topk gives the member at home lane l the position and the bits of the candidate that has l valid candidates before
it, larger ones or equal ones at lower positions, where l is below k; every other member the filled word. -/
def TopkValues : Prop :=
  ∀ (f : FT) (ms : List Member) (self : Member),
    let n := 64 / f.bits
    let bits (p : Nat) : Nat := elemAt f.bits ((capturedAt Env.opA ms (p / n)).getD 0) (p % n)
    let valid (p : Nat) : Bool := (capturedAt Env.opA ms (p / n)).isSome && !(f.decode (bits p)).isNan
    let before (q p : Nat) : Bool := valid q && (!FVal.le (f.decode (bits q)) (f.decode (bits p))
      || (FVal.le (f.decode (bits p)) (f.decode (bits q)) && decide (q < p)))
    let rank (p : Nat) : Nat := (List.range (32 * n)).countP (fun q => before q p)
    let k := (self.env.opB.extractLsb' 0 32).toNat
    (∀ p, p < 32 * n → valid p = true → rank p = self.lane → self.lane < k →
      topkResult f ms self = BitVec.ofNat 64 (p * 2 ^ 32 + bits p))
    ∧ ((k ≤ self.lane ∨ (List.range (32 * n)).countP valid ≤ self.lane) →
      topkResult f ms self = BitVec.ofNat 64 (0xFFFF_FFFF * 2 ^ 32 + f.infBits true))

end Sys2Proof

/-- R266 to R271 and R305: the results of the collectives. -/
def Obligations.CollectiveResults : Prop := CollectiveValues ∧ IntegerFolds ∧ FloatFolds ∧ PackedValues ∧ TopkValues

/-! ### Engine commands (R325, R328 to R342, R354, R360 to R367, R454) -/

namespace Sys2Proof

/-- R328, step 2: the descriptor of `n` bytes at the lane's address, aligned to its size, in the scratchpad window, of an issue that
was not held after an earlier read of it. -/
def descriptor (e : Env) (n : Nat) (s : State) : Option (List Byte) :=
  if (s.thread e.key).hasRead e.msg ≠ none then none
  else match windowOf e.addr n with
  | .scr i o =>
    match scratchAt s e.team i o n with
    | some (key, core) =>
      if e.addr.toNat % n = 0 ∧ awaited s core key n = false ∧ poisonedRange s poisonScratch key n = false then
        some (Memory.readN s.scratch key n)
      else none
    | none => none
  | _ => none

/-- R128 and R328, step 5: the first bytes of the global operands translate, and the thread holds their inks. -/
def firstHeld (e : Env) (ops : List Word) (s : State) : Option State :=
  match firstInks e ops s with
  | (.ok js, u) => if js.all (fun p => (u.thread e.key).holdsInk p.1) then some u else none
  | _ => none

/-- R107, R129, R184, R328 and R330: the command exists: its core has it under the class's next SEQ, the handle register holds
its handle, to be read in the next cycle, the class counter of its group is 1 more, and every hold of the thread has recorded it. -/
def newCommand (e : Env) (h : BitVec 4) (cls : Nat) (op : Op) (evt : Bool) (f : Cmd → Cmd) (s : State) : Option State :=
  if 256 ≤ ((s.core e.core).cmds.filter (fun p => p.2.cls == cls && p.2.unreported)).length then none
  else
    let u := performLoads s e.core e.key
    let th := u.thread e.key
    let n := Tbl.getD (u.core e.core).seqs cls 0 + 1
    let c := f (Cmd.fresh cls n u.now op th evt)
    let v := (u.updCore e.core (fun x => { x with seqs := Tbl.set x.seqs cls n })).updCore
      c.core (fun x => { x with cmds := Tbl.set x.cmds (c.cls * 2 ^ 32 + c.seq) c })
    let w : Word := BitVec.ofNat 64 (((u.ctx c.ctx).ctxid % 2 ^ 16) * 2 ^ 48 + (c.core / 40) * 2 ^ 45 + (c.core % 40) * 2 ^ 39
      + (c.cls % 4) * 2 ^ 37 + (c.slot % 32) * 2 ^ 32 + c.seq % 2 ^ 32)
    some ((v.updThread e.key (fun t => { t.setH h.toNat w with
      holds := t.holds.map (fun k => { k with cmds := k.cmds ++ [w] })
      ilock := Tbl.set t.ilock (136 + h.toNat) (u.now + 1) })).updTeam e.team (fun tm =>
        let k := th.slot * 4 + cls
        { tm with counters := Tbl.put 0 tm.counters k (Tbl.getD tm.counters k 0 + 1) }))

/-- The 8 bytes of a descriptor at an offset (R10). -/
def fieldWord (bs : List Byte) (o : Nat) : Word :=
  BitVec.ofNat 64 (fieldAt bs o 8)

/-- R328 and R332: the issue of cpy and cpyt. -/
def copyAct (h : BitVec 4) (ev : Bool) (op : Op) (e : Env) (u : State) : Option State :=
  (descriptor e 64 u).bind (fun bs =>
    if firstBad (copyFields op e.team u bs) ≠ none then none
    else (firstHeld e (fieldWord bs 0 :: (if fieldAt bs 32 2 = 0 then [fieldWord bs 8] else [])) u).bind (fun v =>
      newCommand e h 0 op ev (fun c => { c with addr := e.addr, desc := bs }) v))

/-- R328 and R339: the issue of gath. -/
def gathAct (h : BitVec 4) (ev : Bool) (e : Env) (u : State) : Option State :=
  (descriptor e 64 u).bind (fun bs =>
    if firstBad (gathFields e.team u bs) ≠ none then none
    else match readIndex e (fieldAt bs 24 2) (fieldWord bs 16) u with
    | (.ok xs, v) =>
      if xs.all (fun x => x == 0xFFFF_FFFF || decide (x < fieldAt bs 28 4)) then
        (firstHeld e [fieldWord bs 0, fieldWord bs 8] v).bind (fun v =>
          newCommand e h 2 .gath ev (fun c => { c with addr := e.addr, desc := bs, idx := xs }) v)
      else none
    | _ => none)

/-- R328 and R341: the issue of scatadd. -/
def scataddAct (h : BitVec 4) (ev : Bool) (e : Env) (u : State) : Option State :=
  (descriptor e 64 u).bind (fun bs =>
    if firstBad (scataddFields e.team u bs) ≠ none then none
    else match readIndex e (fieldAt bs 24 2) (fieldWord bs 16) u with
    | (.ok xs, v) =>
      (firstHeld e [fieldWord bs 0] v).bind (fun v =>
        let n := (v.thread e.key).appendOrd
        (newCommand e h 2 .scatadd ev (fun c => { c with addr := e.addr, desc := bs, idx := xs, gen := n }) v).map
          (fun w => if fieldAt bs 26 1 = 1 then w else w.updThread e.key (fun t => { t with appendOrd := n + 1 })))
    | _ => none)

/-- R328, R332, R339 and R341: cpy, cpyt, gath and scatadd issue their command where the descriptor passes every check:
with the descriptor as read, the index vector, and, for an append, the thread's ordinal, which rises by 1. -/
def CopyCommands : Prop :=
  ∀ (s : State) (bd : Bundle) (sw ev : Bool) (h : BitVec 4) (a : BitVec 7),
    (Issues s bd (.cpy sw ev h a) → Completes s bd (.cpy sw ev h a) (copyAct h ev .cpy))
    ∧ (Issues s bd (.cpyt sw ev h a) → Completes s bd (.cpyt sw ev h a) (copyAct h ev .cpyt))
    ∧ (Issues s bd (.gath sw ev h a) → Completes s bd (.gath sw ev h a) (gathAct h ev))
    ∧ (Issues s bd (.scatadd sw ev h a) → Completes s bd (.scatadd sw ev h a) (scataddAct h ev))

/-- R42, R81, R146 and R149: a plain load of `n` bytes whose value is there within the step: from lines that hit in the L1, or
from where it stands once its checks, inks and queries pass. -/
def plainBytes (e : Env) (n align : Nat) (s : State) : Option (List Byte × State) :=
  match if e.addr.toNat % align = 0 then hitLines e (.rel 0) n s else none with
  | some ls => (hitBytes e n ls s).map (fun bs => (bs, s))
  | none =>
    match s.placed e (laneAccess e n align .read false) true false with
    | none => none
    | some (q, u) =>
      match roundEntries e (.rel 0) (match q with | .glob ps _ => regionsOf ps | _ => []) u with
      | (.ok (), v) =>
        match q with
        | .glob ps js => if (loadHeld e ps js v).1.2 = true then none else some ((loadHeld e ps js v).1.1, (loadHeld e ps js v).2)
        | q => if placePoisoned v q n = true then none else some (placeRead v e.core q n)
      | _ => none

/-- R328, R335, R336 and R338: the issue of snap. -/
def snapAct (h : BitVec 4) (ev : Bool) (e : Env) (u : State) : Option State :=
  (descriptor e 64 u).bind (fun bs =>
    let n := fieldAt bs 8 2
    let list : Word := BitVec.ofNat 64 (fieldAt bs 0 8)
    if firstBad (snapFields bs) ≠ none then none
    else (plainBytes { e with addr := list } (24 * n) 8 u).bind (fun r =>
      let xs := listNats r.1 n
      if firstBad (snapEntries xs n) ≠ none then none
      else (firstHeld e ((List.range n).flatMap (fun i =>
          [BitVec.ofNat 64 ((xs[3 * i]?).getD 0), BitVec.ofNat 64 ((xs[3 * i + 2]?).getD 0)])) r.2).bind (fun v =>
        if (v.ctx e.ctx).snap ≠ none then none
        else
          let pages := snapPages xs n
          (newCommand e h 0 .snap ev (fun c => { c with
            addr := e.addr, desc := bs, idx := xs, started := true, status := 1 }) v).map (fun w =>
            let w := snapCut w e.ctx pages
            let w := w.updCtx e.ctx (fun c => { c with
              snap := some ⟨e.core, Tbl.getD (w.core e.core).seqs 0 0, pages, 0, [], unmappedPages w e.ctx pages, []⟩ })
            if fieldAt bs 10 1 = 1 then (w.teamsOf e.ctx).foldl (fun (w : State) p => raiseCkpt w p.1 2) w else w))))

/-- R328, R335, R336 and R338: snap, with no earlier snap of its context under way: it reads its list by plain loads,
holds the inks of the ranges' first bytes, and with its issue takes the cut of every page of the ranges, those that have no leaf
yet among them (log entry 54); with CKPT asked for, every team of the context is to take it. -/
def SnapCommand : Prop :=
  ∀ (s : State) (bd : Bundle) (sw ev : Bool) (h : BitVec 4) (a : BitVec 7), Issues s bd (.snap sw ev h a) →
    Completes s bd (.snap sw ev h a) (snapAct h ev)

end Sys2Proof

/-- R328, R332, R335, R336, R338, R339 and R341: the commands of classes 0 and 2. -/
def Obligations.FeedCommands : Prop := CopyCommands ∧ SnapCommand

namespace Sys2Proof

/-- R309, R313, R314 and R328: the issue of mma and mmas. -/
def matrixAct (h : BitVec 4) (ev : Bool) (op : Op) (e : Env) (u : State) : Option State :=
  (descriptor e 64 u).bind (fun bs =>
    let f := fieldAt bs
    if firstBad (mxReserved bs) ≠ none then none
    else if (BitVec.ofNat 8 (f 38 1)).getLsbD 3 = true
        ∧ ((u.team e.team).getQ (f 38 1 % 8)).getLsbD (f 39 1 % 64) = false then
      newCommand e h 1 op ev (fun c => { c with addr := e.addr, desc := bs, retired := true }) u
    else if firstBad (mxFields (op == .mmas) e.team u bs) ≠ none then none
    else match readIndex e (if f 16 8 = 0 then 0 else f 32 1 % 128 + 1) (fieldWord bs 16) u with
    | (.ok xs, v) =>
      if xs.all (fun x => x == 0xFFFF_FFFF || decide (x < f 28 2)) then
        (firstHeld e [fieldWord bs 8] v).bind (fun v => newCommand e h 1 op ev (fun c => { c with
          addr := e.addr, desc := bs, idx := xs, at_ := f 42 2, ks := f 42 2 }) v)
      else none
    | _ => none)

/-- R325 and R328: the issue of ald, ast and mgld. -/
def tileAct (h : BitVec 4) (ev : Bool) (op : Op) (ok : Env → State → Bool) (e : Env) (u : State) : Option State :=
  if ok e u then (firstHeld e [e.addr] u).bind (fun v =>
    newCommand e h 1 op ev (fun c => { c with addr := e.addr, opnd := e.opB }) v)
  else none

/-- R325: the issue of azero. -/
def azeroAct (h : BitVec 4) (ev : Bool) (t : BitVec 3) (e : Env) (u : State) : Option State :=
  if t.toNat < (u.team e.team).tiles then newCommand e h 1 .azero ev (fun c => { c with opnd := t.setWidth 64 }) u
  else none

/-- R309, R313, R314 and R325: mma and mmas, whose predicate may retire them at issue, and the tile and margin commands. -/
def MatrixIssue : Prop :=
  ∀ (s : State) (bd : Bundle) (sw ev : Bool) (h : BitVec 4) (a : BitVec 7) (b : Opnd) (t : BitVec 3),
    (Issues s bd (.mma sw ev h a) → Completes s bd (.mma sw ev h a) (matrixAct h ev .mma))
    ∧ (Issues s bd (.mmas sw ev h a) → Completes s bd (.mmas sw ev h a) (matrixAct h ev .mmas))
    ∧ (Issues s bd (.azero sw ev h t) → Completes s bd (.azero sw ev h t) (azeroAct h ev t))
    ∧ (Issues s bd (.ald sw ev h a b) → Completes s bd (.ald sw ev h a b) (tileAct h ev .ald rowsOk))
    ∧ (Issues s bd (.ast sw ev h a b) → Completes s bd (.ast sw ev h a b) (tileAct h ev .ast rowsOk))
    ∧ (Issues s bd (.mgld sw ev h a b) → Completes s bd (.mgld sw ev h a b) (tileAct h ev .mgld marginOk))

/-- R312: no running matrix command names the record, and the palette is in place. -/
def paletteFree (r : BitVec 6) (e : Env) (u : State) : Bool :=
  palBlocks.all (fun b => !partAwaited u e.core e.ctx b) && (palCmds u e.core e.team r.toNat).isEmpty

/-- R312: bytes of a palette image, in the scratchpad window. -/
def imageBytes (e : Env) (va : Word) (n : Nat) (u : State) : Option (List Byte) :=
  if n = 0 then some []
  else match windowOf va n with
  | .scr i o =>
    match scratchAt u e.team i o n with
    | some (key, core) =>
      if awaited u core key n = false ∧ poisonedRange u poisonScratch key n = false then
        some (Memory.readN u.scratch key n)
      else none
    | none => none
  | _ => none

/-- R311 and R312: what palres does where it is not held back. -/
def palresAct (r : BitVec 6) (e : Env) (u : State) : Option State :=
  if paletteFree r e u = false then none
  else (imageBytes e e.addr 64 u).bind (fun hd =>
    let f := fieldAt hd
    let p : PalRec := ⟨f 0 1, f 1 1, f 2 2, f 4 2, [], false⟩
    if firstBad (palFields hd) ≠ none ∨ (u.team e.team).palKiB * 16 < palUsed u e.team r.toNat + palLines p then none
    else (imageBytes e (e.addr + 64) (f 4 2 * f 2 2) u).map (fun sc =>
      { u with palette := Tbl.set u.palette (e.team * 64 + r.toNat) { p with scales := sc } }))

/-- R312: what palrel does where it is not held back. -/
def palrelAct (r : BitVec 6) (e : Env) (u : State) : Option State :=
  if paletteFree r e u then some { u with palette := Tbl.erase u.palette (e.team * 64 + r.toNat) } else none

/-- R311 and R312: palres of an ID that no running matrix command names reads its image from the scratchpad and replaces the
record, where the team's palette has the lines; palrel frees it. -/
def PaletteForms : Prop :=
  ∀ (s : State) (bd : Bundle) (sw : Bool) (r : BitVec 6) (a : BitVec 7),
    (Issues s bd (.palres sw r a) → Completes s bd (.palres sw r a) (palresAct r))
    ∧ (Issues s bd (.palrel sw r) → Completes s bd (.palrel sw r) (palrelAct r))

end Sys2Proof

/-- R309, R311 to R314 and R325: the commands of class 1, palres and palrel. -/
def Obligations.MatrixCommands : Prop := MatrixIssue ∧ PaletteForms

namespace Sys2Proof

/-- R328 and R353: the issue of a Ligature command with a parameter block of `n` bytes, its SET at `o`. -/
def ligAct (h : BitVec 4) (ev : Bool) (op : Op) (n o : Nat) (gen : Bool)
    (fields : Env → List Byte → List Byte → State → List (Nat × Bool)) (ops : List Byte → List Word) (e : Env) (u : State) :
    Option State :=
  (descriptor e n u).bind (fun bs =>
    let set := fieldAt bs o 1
    let x := headSet u e.ctx set
    match x.cfg with
    | some r =>
      if 15 < set ∨ x.closed = true ∨ (gen = true ∧ x.gen = 0) ∨ firstBad (fields e bs r u) ≠ none then none
      else (firstHeld e (ops bs) u).bind (fun v => newCommand e h 3 op ev (fun c => { c with
        addr := e.addr, desc := bs, gen := x.gen, cfg := r, setNo := set }) v)
    | none => none)

/-- R360 and R362: the set that b names. -/
def setOf (e : Env) : Nat :=
  (e.opB.extractLsb' 0 4).toNat

/-- R353: the set is not closed, and the thread stands ready. -/
def setOpen (e : Env) (u : State) : Bool :=
  (headSet u e.ctx (setOf e)).closed == false && (u.thread e.key).status == .ready

/-- R352, R355 and R366: the issue of lgproj. -/
def lgprojAct (h : BitVec 4) (ev : Bool) (e : Env) (u : State) : Option State :=
  let x := headSet u e.ctx (setOf e)
  match x.cfg with
  | some r =>
    if (u.thread e.key).hasRead e.msg ≠ none ∨ setOpen e u = false ∨ (e.addr.toNat / 2 ^ 56 ≠ 0 ∧ e.addr.toNat / 2 ^ 56 ≠ 2) ∨ e.addr.toNat % 2 ≠ 0 then none
    else (firstHeld e [e.addr] (setHeadSet u e.ctx (setOf e) { x with closed := true })).bind (fun v =>
      newCommand e h 3 .lgproj ev (fun c => { c with
        addr := e.addr, gen := x.gen, cfg := r, setNo := setOf e, drains := ligBefore v e.ctx (setOf e) }) v)
  | none => none

/-- R351: what lgcfg does with no command of the set running. -/
def lgcfgAct (e : Env) (u : State) : Option State :=
  match windowOf e.addr 32 with
  | .scr i o =>
    match scratchAt u e.team i o 32 with
    | some (key, core) =>
      let r := Memory.readN u.scratch key 32
      let v := setHeadSet u e.ctx (setOf e) { headSet u e.ctx (setOf e) with closed := true }
      if e.addr.toNat % 8 ≠ 0 ∨ awaited u core key 32 = true ∨ poisonedRange u poisonScratch key 32 = true
          ∨ firstBad (lgFields u e.ctx (setOf e) r) ≠ none ∨ setOpen e u = false
          ∨ (ligRunning v e.ctx (setOf e)).isEmpty = false then none
      else some (reopenSet (setHeadSet v e.ctx (setOf e) ⟨some r, 0, true, []⟩) e.ctx (setOf e))
    | none => none
  | _ => none

/-- R355: what lgclr does with no command of the set running. -/
def lgclrAct (e : Env) (u : State) : Option State :=
  match (headSet u e.ctx (setOf e)).cfg with
  | some r =>
    let v := setHeadSet u e.ctx (setOf e) { headSet u e.ctx (setOf e) with closed := true }
    if setOpen e u = false ∨ (ligRunning v e.ctx (setOf e)).isEmpty = false then none
    else some (reopenSet (clearBuckets e r v) e.ctx (setOf e))
  | none => none

end Sys2Proof

/-- R349, R351 to R355, R360, R362, R366, R367 and R454: the Ligature commands issue with the set's record and GEN as they
stand, a set that is open and configured; lgcfg installs a record, unprojected and with its statistics zero; lgclr empties
the set's buckets and pool; lgstat returns a statistic, or GEN. -/
def Obligations.LigatureCommands : Prop :=
  ∀ (s : State) (bd : Bundle) (sw ev : Bool) (h : BitVec 4) (a d : BitVec 7) (b : Opnd),
    let dst (bs : List Byte) : List Word := [BitVec.ofNat 64 (fieldAt bs 8 8)]
    let src (bs : List Byte) : List Word := if fieldAt bs 16 8 = 0 then [] else [BitVec.ofNat 64 (fieldAt bs 24 8)]
    (Issues s bd (.kstore sw ev h a) → Completes s bd (.kstore sw ev h a)
      (ligAct h ev .kstore 64 28 true (fun e => kstoreFields e.team) dst))
    ∧ (Issues s bd (.lgather sw ev h a) → Completes s bd (.lgather sw ev h a)
      (ligAct h ev .lgather 64 35 true (fun e => lgatherFields e.team) src))
    ∧ (Issues s bd (.lgsig sw ev h a) → Completes s bd (.lgsig sw ev h a)
      (ligAct h ev .lgsig 64 20 true (fun e => lgsigFields e.team) (fun _ => [])))
    ∧ (Issues s bd (.lgpool sw ev h a) → Completes s bd (.lgpool sw ev h a)
      (ligAct h ev .lgpool 16 12 false (fun _ => lgpoolFields) (fun _ => [])))
    ∧ (Issues s bd (.lgproj sw ev h a b) → Completes s bd (.lgproj sw ev h a b) (lgprojAct h ev))
    ∧ (Issues s bd (.lgcfg sw a b) → Completes s bd (.lgcfg sw a b) (lgcfgAct))
    ∧ (Issues s bd (.lgclr sw b) → Completes s bd (.lgclr sw b) (lgclrAct))
    ∧ (Issues s bd (.lgstat sw d b) → LongForm s bd (.lgstat sw d b) (fun _ th x fl =>
      let y := s.opndB (.lgstat sw d b) b th
      let set := headSet s bd.ctx (y.extractLsb' 0 4).toNat
      fl = 0 ∧ x = if set.cfg = none then 0
        else if (y.extractLsb' 8 3).toNat = 7 then BitVec.ofNat 64 set.gen
        else Tbl.getD set.stats (y.extractLsb' 8 3).toNat 0))

/-! ### Handles, rings, graph records (R331, R343 to R348) -/

namespace Sys2Proof

/-- R331: the word of testh: STATUS, C, EKIND, the PAGE kind and PROG of a command that is recorded as complete; of any
other whether it has started, and C. -/
def testWord (c : Cmd) : Word :=
  if c.recorded then
    (BitVec.ofNat 32 c.prog ++ BitVec.ofNat 16 (if c.ekind = 1 then c.pkind else 0) ++ BitVec.ofNat 8 c.ekind
      ++ BitVec.ofNat 4 0 ++ BitVec.ofBool c.cancel ++ BitVec.ofNat 3 c.status).setWidth 64
  else (BitVec.ofBool c.cancel ++ BitVec.ofNat 3 (if c.started then 1 else 0)).setWidth 64

/-- R107, R108, R330 and R343: what waitc does once its commands are recorded. -/
def waitcAct (c : BitVec 2) (e : Env) (u : State) : Option State :=
  let th := u.thread e.key
  let n := (e.opB.extractLsb' 0 32).toNat
  let all := groupCmds u e.core e.team th.slot c.toNat
  let covered := all.take (all.length - n)
  if n < Tbl.getD (u.team e.team).counters (th.slot * 4 + c.toNat) 0 ∨ covered.any Cmd.unreported = true then none
  else some (covered.foldl (fun (v : State) x => coverCmd v e.core x) u)

/-- R331 and R344: what waith does once its command is recorded. -/
def waithAct (e : Env) (u : State) : Option State :=
  match named? u e.ctx e.opA with
  | .null => some u
  | .gone x => some (coverGone u e.core x)
  | .trap _ => none
  | .cmd x => if x.recorded = false ∨ x.unreported = true then none else some (coverCmd u e.core x)

/-- R189, R331 and R344: what testh does. -/
def testhAct (i : Instr) (d : BitVec 7) (e : Env) (u : State) : Option State :=
  let write (x : Word) : State := u.updThread e.key (fun th =>
    { th.setV d.toNat x with ilock := Tbl.set th.ilock d.toNat (u.now + i.latency) })
  match named? u e.ctx e.opA with
  | .null => some (write 2)
  | .gone x => some (coverGone (write 2) e.core x)
  | .trap _ => none
  | .cmd x =>
    if 2 ^ 16 ≤ x.pkind ∨ 2 ^ 8 ≤ x.ekind ∨ 2 ^ 3 ≤ x.status then none
    else
    let v := if x.recorded then coverCmd (write (testWord x)) e.core x else write (testWord x)
    some (if x.unreported then reportCmd v x else v)

/-- R331 and R345: what cancelh does. -/
def cancelhAct (e : Env) (u : State) : Option State :=
  match named? u e.ctx e.opA with
  | .null | .gone _ => some u
  | .trap _ => none
  | .cmd x => some (if 2 ≤ x.status then u else recordClass (setCmd u { x with cancel := true }) x.core x.cls)

end Sys2Proof

/-- R107, R108, R189, R330, R331 and R343 to R345: a wait whose commands are recorded completes, covering them, where none has
an error to report; a null handle and one whose status is no longer kept are done, the latter covering its command; testh
returns the status, and reports an error; cancelh sets C of a command that is not complete (log entry 71); movh moves a handle. -/
def Obligations.Handles : Prop :=
  ∀ (s : State) (bd : Bundle) (sw : Bool) (h : BitVec 4) (c : BitVec 2) (d : BitVec 7) (b : Opnd),
    (Issues s bd (.waitc sw c b) → Completes s bd (.waitc sw c b) (waitcAct c))
    ∧ (Issues s bd (.waith sw h) → Completes s bd (.waith sw h) (waithAct))
    ∧ (Issues s bd (.testh sw d h) → Completes s bd (.testh sw d h) (testhAct (.testh sw d h) d))
    ∧ (Issues s bd (.cancelh sw h) → Completes s bd (.cancelh sw h) (cancelhAct))
    ∧ (Issues s bd (.movhToV sw d h) → WordForm s bd (.movhToV sw d h) d (fun _ th => th.getH h.toNat))
    ∧ (Issues s bd (.movhToH sw h b) → ThreadForm s bd (.movhToH sw h b) (fun _ th =>
      { th.setH h.toNat (s.opndB (.movhToH sw h b) b th) with
        ilock := Tbl.set th.ilock (136 + h.toNat) (s.now + (Instr.movhToH sw h b).latency) }))

namespace Sys2Proof

/-- R174 and R347: a ring form whose stage is in the state it needs, with no thread waiting for the new one. -/
def ringAct (r : BitVec 3) (from_ : Stage) (after : Bool → Stage × Bool) (loads : Bool)
    (waiting : State → Nat → Nat → Nat → List Nat) (e : Env) (u : State) : Option State :=
  let g := e.opB.toNat
  let k := r.toNat * 16 + g
  let st := Tbl.getD (u.team e.team).rings k (.free, false)
  if Tbl.getD (u.team e.team).ringStages r.toNat 0 ≤ g ∨ st.1 ≠ from_
      ∨ waiting u e.team r.toNat g ≠ [] then none
  else some ((if loads then performLoads u e.core e.key else u).updTeam e.team (fun tm =>
    { tm with rings := Tbl.set tm.rings k (after st.2) }))

/-- R174 and R347: a stage at or above the ring's count, which an undeclared ring has none below, raises ILLEGAL in all three forms,
and so does rfree of a stage that is not taken. -/
def RingTraps : Prop :=
  ∀ (s : State) (bd : Bundle) (sw : Bool) (r : BitVec 3) (b : Opnd),
    let above (i : Instr) (tid : Nat) : Prop :=
      Tbl.getD (s.team bd.team).ringStages r.toNat 0 ≤ (s.operands bd i tid).opB.toNat
    let stage (i : Instr) (tid : Nat) : Stage :=
      (Tbl.getD (s.team bd.team).rings (r.toNat * 16 + (s.operands bd i tid).opB.toNat) (.free, false)).1
    (∀ i, (i = .rgive sw r b ∨ i = .rtake sw r b) → Issues s bd i → (∀ tid ∈ bd.tids, above i tid) → Raises s bd i (fun _ => record 1 0 0 0))
    ∧ (Issues s bd (.rfree sw r b) →
      (∀ tid ∈ bd.tids, above (.rfree sw r b) tid ∨ stage (.rfree sw r b) tid ≠ .taken) → Raises s bd (.rfree sw r b) (fun _ => record 1 0 0 0))

/-- R42 and R348: what emit does where the successor has room. -/
def emitAct (e : Env) (u : State) : Option State :=
  let node := (e.opB.extractLsb' 0 16).toNat
  if namesSuccessor u e.team node = false ∨ inWell e.addr 32 = true then none
  else (plainBytes e 32 32 u).bind (fun rd =>
    let w := waitRelease (performLoads rd.2 e.core e.key) e.core 3
    match Tbl.get? (w.ctx e.ctx).nodes node with
    | some x =>
      let cap := fieldAt x.record 84 4
      let va := fieldAt x.record 76 8 + x.tail % cap * 32
      if cap ≤ x.waiting.length ∨ x.tail % cap ∈ x.busy then none
      else match translatePieces w e.core e.ctx (pagePieces (BitVec.ofNat 64 va).toNat 32) with
      | (.ok ps, y) =>
        if firstDenied .write ps ≠ none ∨ (snapWait y e.ctx ps).1 ≠ none then none
        else
          let z := writeHome (snapWait y e.ctx ps).2 e.core e.ctx .drop ps rd.1
          let y : Node := { x with tail := x.tail + 1, waiting := x.waiting ++ [z.now] }
          some (z.updCtx e.ctx (fun c => { c with nodes := Tbl.set c.nodes node y }))
      | _ => none
    | none => none)

/-- R174 and R347: rgive of a free stage fills it, rtake of a full one takes it, and rfree of a taken one frees it and turns its
phase; where no thread waits for the stage's new state, that is all. R348: emit reads its record, releases at device scope and
appends the record to the queue of a successor whose next slot is free. -/
def RingForms : Prop :=
  ∀ (s : State) (bd : Bundle) (sw : Bool) (r : BitVec 3) (a : BitVec 7) (b : Opnd),
    (Issues s bd (.rgive sw r b) → Completes s bd (.rgive sw r b) (ringAct r .free (fun p => (.full, p)) true takers))
    ∧ (Issues s bd (.rtake sw r b) → Completes s bd (.rtake sw r b) (ringAct r .full (fun p => (.taken, p)) false (fun _ _ _ _ => [])))
    ∧ (Issues s bd (.rfree sw r b) → Completes s bd (.rfree sw r b) (ringAct r .taken (fun p => (.free, !p)) false givers))
    ∧ (Issues s bd (.emit sw a b) → Completes s bd (.emit sw a b) (emitAct))

end Sys2Proof

/-- R174, R347 and R348: what the ring forms and emit do, and where the ring forms raise ILLEGAL. -/
def Obligations.RingsAndRecords : Prop := RingForms ∧ RingTraps

/-! ### Waits that end -/

namespace Sys2Proof

/-- The thread of a team and its wait: it is blocked at `b`. -/
def BlockedAt (s : State) (team tid : Nat) (th : Thread) (b : Blocked) : Prop :=
  s.thread? (threadKey team tid) = some th ∧ th.status = .blocked b ∧ th.team = team ∧ th.tid = tid

/-- R133, R164, R168, R184 to R186, R248 and R290: a long result that raises no FPX returns to its register and FPF, in one
step; an interlock whose latency has passed ends (a spawned thread keeps its own, as R184 has it); so do a hold by yield whose
slots have passed and a sleep whose cycles have; a watch whose word or SIG has changed asks for its ink again. Spawn records of
one PC enter a free spawn slot, in ascending team thread index, 32 at a time, or fewer once the oldest has waited 64 cycles;
which slot and which records, log entry 40 says (the model's choice). -/
def ThreadWaitsEnd : Prop :=
  ∀ (s : State) (team tid : Nat),
    let k := threadKey team tid
    (∀ (o : Outst) (x : Word), (s.thread k).outs.find? (fun p => p.id == o.id) = some o → o.value = some x → o.bad = false →
      o.flags &&& (s.thread k).te = 0 →
      exec (.longResultReturn team tid o.id) s = .next (s.updThread k (fun t =>
        let t' := match o.instr.dReg with | some r => t.setV r.toNat x | none => t
        ({ t' with fpf := t.fpf ||| o.flags, outs := t.outs.filter (fun p => p.id != o.id) } : Thread).outReturned)))
    ∧ (∀ th, s.thread? k = some th →
      exec (.shortInterlockEnd team tid) s = .next (s.setThread k { th with
        ilock := th.ilock.filter (fun p => decide (s.now < p.2)) })
      ∧ (th.status = .yielding 0 → exec (.yieldHoldEnd team tid) s = .next (s.setThread k { th with status := .ready })))
    ∧ (∀ th b n, BlockedAt s team tid th b → b.why = .sleep n → n ≤ b.waited →
      exec (.sleepEnd team tid) s = .next (s.setThread k (th.complete b.instr b.env)))
    ∧ (∀ th b va w0 j s0, BlockedAt s team tid th b → b.why = .watch va w0 j s0 →
      (monSig s (heldDesc s th.core th.ctx j).blk ≠ s0 ∨ ∃ w, watchedWord s th.core th.ctx th.team va = some w ∧ w ≠ w0) →
      exec (.inkwaitWake team tid) s = .next (s.setThread k { th with
        status := .blocked ⟨.inkReq j b.env.msg va, b.instr, { b.env with watch := false }, 0⟩ }))
    ∧ ∀ (core g : Nat) (rs : List Spawn),
      let forms (rs : List Spawn) (t : State) : Prop :=
        (∀ (i : Nat) (r : Spawn), rs[i]? = some r → t.thread (threadKey team r.tid) = { s.thread (threadKey team r.tid) with
          slot := g, pos := i, pc := r.pc, status := .ready })
        ∧ (t.team team).spawnSlots = (s.team team).spawnSlots.filter (fun x => x != g)
        ∧ (t.team team).spawns = (s.team team).spawns.filter (fun r => !(rs.any (fun q => q.tid == r.tid)))
        ∧ slotInfo t (s.team team).core (s.team team).ctx g = ⟨team, false, [], false, none⟩
      rs.Pairwise (fun x y => x.tid ≠ y.tid) →
      (s.cycle.toNat % 8 = 0 → quireFind s core fullSet = some (team, g, rs) →
        ∃ t, exec (.quireForm core) s = .next t ∧ forms (rs.take 32) t)
      ∧ (quireFind s core oldSet = some (team, g, rs) → ∃ t, exec (.quirePartialRelease core) s = .next t ∧ forms rs t)

end Sys2Proof

/-- R116, R121, R126, R127, R130, R138 and R393: a request takes the ticket NEXT, which rises by 1, and holds a free monitor at once; a
ticket that is served holds the monitor and clears GRANT; a release (of a block that log entry 11 reads) advances SERVE and
frees the monitor, or grants it to the ticket that SERVE then names. What was acquired is the thread's newest hold, marked H in
handler mode, at its frame depth, or in a KEEP frame at the FD field of its lane record. With its last ink released a thread does what it waited for: it returns, ends, or goes on with its RTT. That the ticket
served is not void, log entry 44 says where. -/
def Obligations.InkMonitor : Prop :=
  ∀ (s : State) (team tid : Nat) (th : Thread) (b : Blocked), BlockedAt s team tid th b → s.well.wf = true →
    let k := threadKey team tid
    let keeps := th.handler && (slotInfo s th.core th.ctx th.slot).keep
    let holds (j : Nat) (u t : State) : Prop := ∃ depth,
      (t.thread k).holds = th.holds ++ [⟨j, depth, false, th.handler, []⟩] ∧ (t.thread k).status = .waking b
        ∧ (keeps = false → depth = th.fd)
        ∧ ∀ p, keeps = true → laneVa s th + 8 < 2 ^ 56 →
          (u.core th.core).tlb.find? (fun x => x.covers (u.cid th.ctx) (laneVa s th + 8)) = some p → p.reached u = .ok p →
          depth = bytesToNat (physRead t (p.pa (laneVa s th + 8)) 2)
    let owned (blk j : Nat) (t : State) : Prop := monHeld t blk = true ∧ monGrant t blk = false
      ∧ monOwner t blk = th.tag % 2 ^ 40 ∧ (monRead t blk 0).extractLsb' 40 12 = BitVec.ofNat 12 j
    (∀ j msg va d u, b.why = .inkReq j msg va → sameMessage s team j msg = [(k, va, b)] → th.holdsInk j = false →
      (∀ sw a o, b.instr ≠ .inkwait sw a o) → inkDesc s th.core th.ctx va false j = (.ok d, u) →
      wellFilling u (d.mon + 63) = false →
      ∃ t, exec (.inkTicket team tid) s = .next t ∧ monNext t d.blk = (monNext u d.blk + 1) % 2 ^ 32
        ∧ (monHeld u d.blk = false ∧ monNext u d.blk = monServe u d.blk → holds j u t ∧ owned d.blk j t)
        ∧ (¬ (monHeld u d.blk = false ∧ monNext u d.blk = monServe u d.blk) →
          t.thread k = { th with status := .blocked { b with why := .inkTicket j (monNext u d.blk) d.blk va, waited := 0 } }))
    ∧ (∀ j tk blk va, b.why = .inkTicket j tk blk va → th.holdsInk j = false → (∀ sw a o, b.instr ≠ .inkwait sw a o) →
      monGrant s blk = true → monServe s blk = tk →
      ∃ t, exec (.inkGrant team tid) s = .next t ∧ holds j s t ∧ owned blk j t ∧ monServe t blk = tk)
    ∧ ∀ j rest after, b.why = .releasing (j :: rest) after →
      (∀ h ∈ th.holds, h.ink ∈ j :: rest → h.cmds = []) →
      let blk := (heldDesc s th.core th.ctx j).blk
      let serve := (monServe s blk + 1) % 2 ^ 32
      (blk, serve) ∉ s.voids →
      ∃ v, (v.thread k).holds = th.holds.filter (fun h => h.ink != j) ∧ (v.thread k).status = .blocked b
        ∧ monServe v blk = serve
        ∧ (serve = monNext s blk → monHeld v blk = false) ∧ (serve ≠ monNext s blk → monGrant v blk = true)
        ∧ exec (.inkRelease team tid) s = .next (if rest = [] then
            match after with
            | .ret ra => v.updThread k (fun t => ({ t with fd := t.fd - 1, pc := ra } : Thread).complete b.instr b.env)
            | .exit => endThread v k
            | .rtt => applyAgain b.instr b.env (finishRtt b.env v)
          else v.updThread k (fun t => { t with status := .blocked { b with why := .releasing rest after, waited := 0 } }))

/-! ### Traps that no instruction raises (R132, R151, R165, R171, R386, R392, R405, R422) -/

namespace Sys2Proof

/-- A group slot whose threads can enter their handler: its frame is free, no thread of it is to take a trap, and its save slot
lies in the global window (R381) and stands in the core's TLB, writable, on a route that is up, and in no page that a snap has
still to copy (R338). -/
def CanEnter (s : State) (core ctx slot : Nat) : Prop :=
  (slotInfo s core ctx slot).frame = [] ∧ (∀ p ∈ s.threads, p.2.core = core → p.2.ctx = ctx → p.2.slot = slot → p.2.trap = none)
    ∧ (saveSlotVa s core ctx slot).toNat < 2 ^ 56
    ∧ ∃ page, (s.core core).tlb.find? (fun t => t.covers (s.cid ctx) (saveSlotVa s core ctx slot).toNat) = some page
      ∧ leafW page.leaf = true ∧ page.reached s = .ok page ∧ (snapKey s ctx page).1 = none

/-- A thread has entered its handler (R386): its begun loads returned and its ready results delivered (log entry 12), at
TRAPBASE, with age `a` and WATCHDOG pending or not; the frame is busy with it. -/
def InHandler (s t : State) (k : Nat) (th : Thread) (a : Nat) (wd : Bool) : Prop :=
  (∃ (outs : List Outst) (kept : List Kept),
    outs.map (fun o => (o.id, o.instr, o.env, o.result)) = th.outs.map (fun o => (o.id, o.instr, o.env, o.result))
    ∧ t.thread k = { ({ th with outs := outs } : Thread).deliverReady.enter (s.ctx th.ctx).trapbase with
      age := a, watchdog := wd, kept := kept })
  ∧ th.tid ∈ (slotInfo t th.core th.ctx th.slot).frame

end Sys2Proof

/-- R37, R41, R132, R151, R165, R171, R386, R392, R405 and R422: a wait for a grant at INKTMO, a stalled load at its timeout, a
rendezvous at COLLTMO and a thread at a unit's end in whose slots WDLIM was reached take their trap; so does the lane that waits
for a fault that host refuses, and a thread that waits to take a trap; what is ready reaches it first (log entry 12); a halt of
the team keeps no timeout back (log entry 45). A debug halt at the same boundary comes before CKPT and WATCHDOG (R397), so
`haltAt` is none there. CKPT strikes a team whose threads all stand where it can be taken, in KEEP frames. TIMER stands pending
in the threads of the lowest live slot, and GTCMP then holds all ones. -/
def Obligations.TrapsBetweenUnits : Prop :=
  ∀ (s : State) (team tid : Nat) (th : Thread),
    let k := threadKey team tid
    let tm := s.team team
    s.thread? k = some th → th.team = team → th.tid = tid → th.handler = false → th.unit = none → th.slot < 32 →
    tm.core = th.core → tm.ctx = th.ctx → s.well.wf = true → CanEnter s th.core th.ctx th.slot →
    (s.core th.core).active = some th.ctx → (s.core th.core).swapping = 0 → (s.ctx th.ctx).stopped = false →
    (∀ b, th.status = .blocked b → b.env.key = k →
      (∀ j tk blk va, b.why = .inkTicket j tk blk va → (s.ctx th.ctx).inktmo.extractLsb' 0 32 ≠ 0 →
        ((s.ctx th.ctx).inktmo.extractLsb' 0 32).toNat ≤ b.waited → monGrant s blk = false →
        (heldDesc s th.core th.ctx j).te = true →
        ∃ t, exec (.inkTimeout team tid) s = .next t ∧ InHandler s t k th 0 th.watchdog ∧ (blk, tk) ∈ t.voids)
      ∧ (∀ rgn n lim, b.why = .round rgn n lim → lim ≠ 0 → lim ≤ b.waited →
        ((observed s th.core th.ctx rgn).getD 0).toNat < n.toNat → (s.core th.core).wakes = [] →
        ∃ t, exec (.roundTmo team tid) s = .next t ∧ InHandler s t k th 0 th.watchdog)
      ∧ (∀ r, b.why = .coll → r ∈ tm.rendezvous → r.arrived = [tid] →
        tm.rendezvous.find? (fun q => q.group == r.group && q.csn.toNat == r.csn.toNat) = some r →
        (s.ctx th.ctx).colltmo.extractLsb' 0 32 ≠ 0 → ((s.ctx th.ctx).colltmo.extractLsb' 0 32).toNat ≤ r.waited →
        ∃ t, exec (.collTimeout team r.group r.csn.toNat) s = .next t ∧ InHandler s t k th 0 th.watchdog)
      ∧ (∀ f n va, b.why = .fault f.key va → openFaultOf s th.ctx n = some f → faultThreads s f.key = [(k, th)] →
        faultCmds s f.key = [] → faultSlots s f.key = [] → faultQueues (s.ctx th.ctx) f.key = [] →
        (∀ p ∈ s.cores, p.2.spillWait ≠ some f.key) → hostCan s = true →
        ∃ t, exec (.frespRefuse th.ctx n) s = .next t ∧ InHandler s t k th 0 th.watchdog))
    ∧ (overdue s th.core (th.slot % 8) = [(k, th)] → haltAt s th = none →
      ∃ t, exec (.watchdog th.core (th.slot % 8)) s = .next t ∧ InHandler s t k th 0 false)
    ∧ (∀ tr, th.status = .ready →
      ∃ t, exec (.trapEntry team th.slot) (s.updThread k (fun x => { x with trap := some tr })) = .next t
        ∧ InHandler s t k th (if tr.cause = causeWatchdog then 0 else th.age) (tr.cause != causeWatchdog && th.watchdog))
    ∧ ((s.threadsOf team).filter (fun p => p.2.live) = [(k, th)] → th.status = .ready → th.ckptPend.isSome = true →
      tm.spawns = [] → tm.halted = false → tm.exited = false → framesBusy s team = false →
      (∀ p ∈ (s.core th.core).cmds, ¬ (p.2.team = team ∧ p.2.cls = 1 ∧ p.2.status < 2)) → haltAt s th = none →
      ∃ t, exec (.ckpt team) s = .next t
        ∧ InHandler s t k { th with ckptPend := none } 0 th.watchdog
        ∧ slotInfo t th.core th.ctx th.slot = { slotInfo s th.core th.ctx th.slot with
          frame := [tid], keep := true, wait := none })
    ∧ (tm.halted = false → tm.exited = false → tm.gtcmp.toNat ≤ tm.gtime.toNat → th.status = .ready →
      lowestSlot s team = some th.slot →
      ∃ t, exec (.timer team) s = .next t ∧ (t.team team).gtcmp = BitVec.allOnes 64
        ∧ (t.thread k).timerPend = some tm.gtcmp)

/-! ### What the memory system does of itself (R44, R46, R49, R71 to R82, R103) -/

namespace Sys2Proof

/-- The byte that a list of stores to a line leaves at an offset: the last one's. -/
def storedAt (stores : List (Nat × Byte)) (o : Nat) : Option Byte :=
  (stores.reverse.find? (fun p => p.1 == o)).map (fun p => p.2)

end Sys2Proof

/-- R43, R44, R46, R49, R53, R54, R71 to R74, R77, R80 to R82, R92 and R103: a walk that passes installs its translation in
both TLBs; a shootdown leaves no translation of its range in any TLB, nor a line of it in any L1, and is over once no access of
the old translation is left; an entry the collector sends is performed at a home on its die, or waits to be; its reply, the next
from its home, fills the line with the entry's own stores over it, unless log entry 14 keeps it from it, and reaches the load
that waits, with the stores that came before it; a store on its way is performed at its home; a promotion leaves no store of the
core unsent and none that its die has accepted, and a tag that is still there then is of device scope; the carve-out ends with
new Well ways zero and far-way lines in far ways only; a storage error is counted, and poisons its block where it cannot be
corrected, that of a line of the home ways or of a far copy in the L2 (structures as log entry 24 numbers them). -/
def Obligations.MemorySystem : Prop :=
  ∀ (s : State),
    (∀ core ctx va pg u, (s.die (dieOf core)).tlb.find? (fun t => t.covers (s.cid ctx) va.toNat) = none → window va = .glob →
      walk s ctx va.toNat = (.ok pg, u) →
      ∃ t, exec (.pageWalk core ctx va) s = .next t ∧ pg ∈ (t.core core).tlb ∧ pg ∈ (t.die (dieOf core)).tlb)
    ∧ (∀ ctx (v : Word), hostCan s = true → (s.ctx ctx).sd = none → v.getLsbD 63 = true →
      let base := ((s.ctx ctx).sdva.extractLsb' 16 40).toNat
      let n := (v.extractLsb' 0 32).toNat
      let mine (page len : Nat) : Prop := n = 0 ∨ (page < base + n ∧ base < page + len)
      ∃ t, exec (.shootdown ctx v) s = .next t ∧ ((t.ctx ctx).sdctl.getLsbD 62 = true) ∧ (t.ctx ctx).sd.isSome = true
        ∧ (∀ p ∈ t.cores, ∀ e ∈ p.2.tlb, e.ctx = s.cid ctx → ¬ mine (e.vpage * 2 ^ (e.bits - 16)) (2 ^ (e.bits - 16)))
        ∧ (∀ p ∈ t.diesT, ∀ e ∈ p.2.tlb, e.ctx = s.cid ctx → ¬ mine (e.vpage * 2 ^ (e.bits - 16)) (2 ^ (e.bits - 16)))
        ∧ (∀ p ∈ t.cores, ∀ l ∈ p.2.l1, l.ctx = s.cid ctx → ¬ mine (l.line / 512) 1))
    ∧ (∀ ctx d, (s.ctx ctx).sd = some d → shootdownDone s ctx d = true →
      exec (.shootdownComplete ctx) s = .next (s.setCtx ctx { s.ctx ctx with
        sd := none, sdctl := setBits (s.ctx ctx).sdctl 62 62 0 }))
    ∧ (∀ core n e, (s.core core).coll[n]? = some e → e.reply = none → e.loads = [] → e.stores ≠ [] → s.phys.wf = true →
      (∀ p ∈ e.stores, p.1 < 128) →
      (∀ m k, (s.core core).coll[m]? = some k → k.reply = none → k.pline = e.pline → m = n) →
      ∃ t, exec (.collectorSend core n) s = .next t ∧ (t.core core).coll = (s.core core).coll.eraseIdx n
        ∧ (homeOf (e.pline * 128) = .hbm (dieOf core) → t.flights = s.flights
          ∧ ∀ a, Memory.read t.phys a = (if a / 128 = e.pline then storedAt e.stores (a % 128) else none).getD (Memory.read s.phys a))
        ∧ (homeOf (e.pline * 128) ≠ .hbm (dieOf core) → t.phys = s.phys
          ∧ t.flights = s.flights ++ [⟨dieOf core, core, e.ctx, e.pline, e.stores, e.rel⟩]))
    ∧ (∀ core n evict e r w, (s.core core).coll[n]? = some e → e.reply = some r → e.loads = [w] →
      replyNext (s.core core).coll n = true →
      let bs := patched r.bytes w.seen
      ∃ t, exec (.collectorReply core n evict) s = .next t ∧ (t.core core).coll = (s.core core).coll.eraseIdx n
        ∧ (e.fill = true → ⟨s.cid e.ctx, e.line, e.w, e.x, e.i, e.ink, (s.core core).epoch, e.round.map (fun g => (g.1, r.round)),
          patched r.bytes e.stores, badUnder r.bad e.stores, e.stream, hostPa (e.pline * 128)⟩ ∈ (t.core core).l1)
        ∧ ∀ (o : Outst) (i : Nat), o ∈ (s.thread w.thread).outs → o.id = w.out → i < w.len → w.pos + w.len ≤ o.data.length →
          w.off + w.len ≤ r.bytes.length →
          ∃ o' ∈ (t.thread w.thread).outs, o'.id = o.id ∧ o'.data[w.pos + i]? = some bs[w.off + i]?)
    ∧ (∀ f rest, s.flights = f :: rest → s.phys.wf = true → (∀ p ∈ f.stores, p.1 < 128) →
      ∃ t, exec (.homeAccess 0) s = .next t ∧ t.flights = rest
        ∧ ∀ a, Memory.read t.phys a = (if a / 128 = f.pline then storedAt f.stores (a % 128) else none).getD (Memory.read s.phys a))
    ∧ (∀ core, ∃ t, exec (.promote core) s = .next t ∧ (∀ f ∈ t.flights, f.die ≠ dieOf core)
        ∧ ∀ e ∈ (t.core core).coll, e.reply = none → e.stores = [])
    ∧ (∀ k g, Tbl.get? s.tags k = some g → g.scope = 1 ∨ g.scope = 2 → Tbl.get? (promoteCore s g.core).tags k = some g →
      Tbl.get? (promoteMet s (some k) (tagMet s (some k))).tags k = some { g with scope := 3 })
    ∧ (s.wellStatus = 1 → s.well.wf = true → ∃ t, exec .carveOutComplete s = .next t ∧ t.wellStatus = 0 ∧ t.wellFrom = none
        ∧ t.farCur = s.farReq
        ∧ (∀ a, Memory.read t.well a = match s.wellFrom with
          | some w => if w * 2 ^ 23 ≤ a % 2 ^ 28 then 0 else Memory.read s.well a
          | none => Memory.read s.well a)
        ∧ (∀ p ∈ t.diesT, ∀ l ∈ p.2.far, wayRole s.wellCur s.farReq l.way = .far)
        ∧ ∀ p ∈ t.threads, ∀ b, p.2.status = .blocked b → b.why ≠ .carve)
    ∧ ∀ (unit addr : Nat) (hard : Bool),
      let counted (t : State) (d : Nat) : Prop := Tbl.getD (t.die d).errors (unit * 2 + (if hard then 1 else 0)) 0
        = Tbl.getD (s.die d).errors (unit * 2 + (if hard then 1 else 0)) 0 + 1
      (unit ∈ [0, 1, 3, 4, 5] → ∃ t d, exec (.softError unit addr hard) s = .next t ∧ counted t d
        ∧ (hard = false → t.poison = s.poison) ∧ (hard = true → unit < 2 → addr / 64 ∈ t.poison))
      ∧ (∀ d, unit = 2 → addr < 2 ^ 52 → homeOf addr = .hbm d → (∃ h ∈ (s.die d).home, h.line = addr / 128) →
        ∃ t, exec (.softError unit addr hard) s = .next t ∧ counted t d ∧ t.poison = s.poison
          ∧ (hard = true → ∀ h ∈ (t.die d).home, h.line = addr / 128 → addr / 64 % 2 ∈ h.bad))
      ∧ ∀ d pa, unit = 2 → addr = (d + 1) * 2 ^ 52 + pa → pa < 2 ^ 52 → (∃ l ∈ (s.die d).far, l.line = pa / 128) →
        ∃ t, exec (.softError unit addr hard) s = .next t ∧ counted t d ∧ t.poison = s.poison
          ∧ (hard = true → ∀ l ∈ (t.die d).far, l.line = pa / 128 → pa / 64 % 2 ∈ l.bad)

/-! ### Host and its queues (R38, R322, R392, R399 to R403, R421 to R425) -/

/-- R38, R402, R403 and R421 to R425: the oldest fault not yet posted gets the next number and its record; a fault that host
resolves closes, and every lane that waits for it goes on; a fetch whose fault is answered goes on. A checkpoint, a halt and a
resume act on the team that TEAMSEL and the request name; a halt that is complete queues its record; the debug right is granted,
and its revocation runs every team of the context, drops what is queued and clears the breakpoints; an edit record of a halted
team's register is applied once its halt is complete, and EDQHEAD advances; a unit that meets a breakpoint with the right held
halts its team before it. A halt is complete once no thread of the team stands inside a unit, and its record waits from then on,
in the order in which halts complete. Host acts once a port of its is up (`hostCan`, R427; log entry 55). -/
def Obligations.HostRequests : Prop :=
  ∀ (s : State) (ctx : Nat),
    let c := s.ctx ctx
    let halts (u reason : Nat) (t : State) : Prop := (t.team u).halted = true
      ∧ if (s.team u).exited = false ∧ haltComplete s u = true then (t.team u).haltReason = none
          ∧ (t.ctx (s.team u).ctx).halts = (s.ctx (s.team u).ctx).halts ++ [(u, reason)]
        else (t.team u).haltReason = some reason
    (∀ f, faultToPost s ctx = some f → s.phys.wf = true →
      let tail := (c.fqtail.extractLsb' 0 32).toNat
      let id := if c.faultNo % 2 ^ 32 = 2 ^ 32 - 1 then 1 else c.faultNo % 2 ^ 32 + 1
      let at_ := (c.fqcfg.extractLsb' 12 40).toNat * 2 ^ 12 + tail % 2 ^ ((c.fqcfg.extractLsb' 0 4).toNat + 4) * 64
      ∃ t, exec (.faultRecordPost ctx) s = .next t ∧ (t.ctx ctx).fqtail = BitVec.ofNat 64 ((tail + 1) % 2 ^ 32)
        ∧ (t.ctx ctx).faultNo = id ∧ (∀ g ∈ (t.ctx ctx).faults, g.key = f.key → g.id = some id)
        ∧ t.msix = (if tail = (c.fqhead.extractLsb' 0 32).toNat then
            s.msix ++ [(if 0 ∈ s.ports then 0 else 1, 1 + ctx)] else s.msix)
        ∧ (homeOf at_ ≠ .hole →
          let bs := physRead t at_ 64
          fieldAt bs 0 8 = f.va.toNat ∧ fieldAt bs 8 2 = c.ctxid % 2 ^ 16 ∧ fieldAt bs 10 1 = f.kind % 2 ^ 8
            ∧ fieldAt bs 11 1 = f.access % 2 ^ 8 ∧ fieldAt bs 12 1 = f.die % 2 ^ 8 ∧ fieldAt bs 16 4 = id % 2 ^ 32
            ∧ fieldAt bs 24 8 = s.cycle.toNat))
    ∧ (∀ n f, openFaultOf s ctx n = some f → hostCan s = true → ∃ t, exec (.frespResolve ctx n) s = .next t
        ∧ (∀ g ∈ (t.ctx ctx).faults, g.key ≠ f.key)
        ∧ t.threads = s.threads.map (fun p => (p.1, match p.2.status with
          | .blocked b => match b.why with
            | .fault k _ | .inkFault k _ => if k = f.key then { p.2 with status := .waking b } else p.2
            | _ => p.2
          | _ => p.2))
        ∧ ∀ p ∈ t.cores, ∀ q ∈ p.2.cmds, q.2.fault ≠ some f.key)
    ∧ (∀ team tid th b key w u, BlockedAt s team tid th b → b.why = .fetch key → faultOpen s b.env.ctx key = false →
      fetchWord s b.env.core b.env.ctx b.env.pc = (.ok w, u) →
      exec (.instructionFetch team tid) s = .next (u.updThread (threadKey team tid) (fun t => { t with status := .ready })))
    ∧ (∀ (v : Word) u, v.getLsbD 63 = true → hostCan s = true →
      let s' := s.updCtx ctx (fun c => { c with ckreq := v.setWidth 32 |>.setWidth 64 })
      (v.getLsbD 62 = false → selectedTeam s' ctx (v.extractLsb' 0 32).toNat = some u → ∃ t, exec (.ckreq ctx v) s = .next t
        ∧ t.threads = s.threads.map (fun p =>
          if p.2.team = u ∧ p.2.status ≠ .exited then (p.1, { p.2 with ckptPend := some 1 }) else p))
      ∧ (v.getLsbD 62 = false → c.dbgctl.getLsbD 3 = true → v.getLsbD 61 = false →
        selectedTeam s ctx (v.extractLsb' 0 32).toNat = some u → (s.team u).halted = false →
        ∃ t, exec (.halt ctx v) s = .next t ∧ halts u 0 t))
    ∧ (∀ (v : Word) u, v.getLsbD 63 = false → v.getLsbD 62 = true → v.getLsbD 61 = false → c.dbgctl.getLsbD 3 = true →
      selectedTeam s ctx (v.extractLsb' 0 32).toNat = some u → (s.team u).halted = true → (s.team u).haltReason = none →
      (s.team u).ctx = ctx → (∃ p ∈ s.teams, p.1 = u) → c.edqtail.extractLsb' 0 32 = c.edqhead.extractLsb' 0 32 → hostCan s = true →
      ∃ t, exec (.resume ctx v) s = .next t ∧ (t.team u).halted = false)
    ∧ (∀ u r rest, c.halts ++ haltsToQueue s ctx = (u, r) :: rest → s.phys.wf = true →
      let tail := (c.hqtail.extractLsb' 0 32).toNat
      let cap := 2 ^ (c.hqcfg.extractLsb' 0 4).toNat
      let at_ := (c.hqcfg.extractLsb' 8 44).toNat * 2 ^ 8 + tail % cap * 256
      ringRoom tail (c.hqhead.extractLsb' 0 32).toNat cap = true →
      ∃ t, exec (.haltRecord ctx) s = .next t ∧ (∀ p ∈ haltsToQueue s ctx, (t.team p.1).haltReason = none)
        ∧ (t.ctx ctx).halts = rest ∧ (t.ctx ctx).hqtail = BitVec.ofNat 64 ((tail + 1) % 2 ^ 32)
        ∧ (homeOf at_ ≠ .hole →
          let bs := physRead t at_ 256
          fieldAt bs 0 4 = (s.ctx (s.team u).ctx).ctxid % 2 ^ 32 ∧ fieldAt bs 8 4 = (s.team u).ordinal % 2 ^ 32
            ∧ fieldAt bs 12 1 = r % 2 ^ 8 ∧ fieldAt bs 16 8 = s.cycle.toNat))
    ∧ (hostCan s = true → exec (.debugGrant ctx) s = .next (s.setCtx ctx { c with dbgctl := setBits c.dbgctl 3 3 1 }))
    ∧ (c.dbgctl.getLsbD 3 = true → hostCan s = true → ∃ t, exec (.debugRevoke ctx) s = .next t ∧ (t.ctx ctx).dbgctl.getLsbD 3 = false
        ∧ (t.ctx ctx).bp = [] ∧ (t.ctx ctx).wp = [] ∧ (t.ctx ctx).edqhead = c.edqtail
        ∧ ((t.ctx ctx).dbgctl.getLsbD 7 = (c.edited || c.dbgctl.getLsbD 7))
        ∧ ∀ p ∈ t.teams, p.2.ctx = ctx → p.2.halted = false)
    ∧ (∀ u k th (r : List Byte), c.edqtail.extractLsb' 0 32 ≠ c.edqhead.extractLsb' 0 32 →
      let i := (c.edqhead.extractLsb' 0 32).toNat
      let at_ := (c.edqcfg.extractLsb' 12 40).toNat * 2 ^ 12 + i % 2 ^ ((c.edqcfg.extractLsb' 0 4).toNat + 4) * 32
      homeOf at_ ≠ .hole → r = physRead s at_ 32 →
      namedTeam s ctx (decide (32 ≤ fieldAt r 4 1 % 64)) (fieldAt r 4 1 % 32) (fieldAt r 0 4) (fieldAt r 8 4) = some u →
      (s.team u).halted = true → haltComplete s u = true → (s.team u).resume = false → k = threadKey u (fieldAt r 6 2) → s.thread? k = some th →
      th.status ≠ .exited → fieldAt r 5 1 = 0 → fieldAt r 12 2 < (groupOf s th).allot →
      ∃ t, exec (.editApply ctx) s = .next t
        ∧ t.thread k = th.setV (fieldAt r 12 2) (BitVec.ofNat 64 (fieldAt r 16 8))
        ∧ (t.ctx ctx).edqhead = BitVec.ofNat 64 ((i + 1) % 2 ^ 32) ∧ (t.ctx ctx).edited = true)
    ∧ (∀ ch n, breakChoice s (s.team ch.team).core (ch.slot % 8) = some (ch, n) →
      (s.ctx ch.ctx).dbgctl.getLsbD 3 = true → (s.team ch.team).halted = false →
      ∃ t, exec (.breakpointMatch ch.team ch.slot) s = .next t ∧ halts ch.team 1 t ∧ t.bundle = s.bundle)

/-! ### What the engines do (R41, R106 to R108, R308, R309, R314 to R325, R329, R333, R336 to R342, R346, R380) -/

namespace Sys2Proof

/-- A command whose run has begun. -/
def begun (c : Cmd) : Cmd := if c.started then c else { c with started := true, status := 1 }

/-- The state in which a command's run goes on: before its first access every store of its core is performed (R106). -/
def beginning (s : State) (c : Cmd) : State := if c.started then s else setCmd (waitRelease s c.core 3) (begun c)

/-- A relation over `n` rows one after another, from row `r` on. -/
def RowsOver (row : Nat → State → State → Prop) : Nat → Nat → State → State → Prop
  | 0, _, s, t => t = s
  | n + 1, r, s, t => ∃ u, row r s u ∧ RowsOver row n (r + 1) u t

/-- One move of an engine: `n` bytes are read at `src`, and then what `out` makes of them is written. -/
def Moved (c : Cmd) (src n : Nat) (out : List Byte → List (Word × List Byte)) (s t : State) : Prop :=
  ∃ bs u, engRead c (BitVec.ofNat 64 src) n s = .ok bs u ∧ engWrites c (out bs) u = .ok () t

/-- R337: the bytes that a page still to copy is to have in its image: those it holds, or those read of it before. -/
def PageBytes (c : Cmd) (sn : Snap) (p : Nat × Nat) (bs : List Byte) (s t : State) : Prop :=
  match sn.saved.find? (fun q => q.1 == p) with
  | some q => bs = q.2 ∧ t = s
  | none => engRead c (BitVec.ofNat 64 (p.1 * 2 ^ 16)) (2 ^ 16) s = .ok bs t

/-- Several such pages, each with its bytes. -/
def PagesRead (c : Cmd) (sn : Snap) : List (Nat × Nat) → List ((Nat × Nat) × List Byte) → State → State → Prop
  | [], xs, s, t => xs = [] ∧ t = s
  | p :: ps, xs, s, t => ∃ bs u ys, PageBytes c sn p bs s u ∧ xs = (p, bs) :: ys ∧ PagesRead c sn ps ys u t

/-- R333 and R339: a copy moves row by row, the whole source row read before its destination is written, a transposing copy
its elements to columns, a multicast to every named core of its rectangle; a gather moves one row for each index, and writes
a zero row for 0xFFFF_FFFF. R337 and R338: a snap copies page by page, a page that a write waits for ahead of
its turn, clears F, and lets the writes go on; a page still to copy that stands in the frame of the image written is read before
(log entry 54, the model's reading), and its own image takes the bytes read then. R41 and R331: a row that meets a fault suspends
the command there, and one that fails ends it in error, with PROG the row. -/
def CopiesRun : Prop :=
  ∀ (s t : State) (core seq : Nat) (c : Cmd), canRun s c = true →
    let c' := begun c
    let d := descNat c
    (getCmd s core 0 seq = some c → c.op = .cpy ∨ c.op = .cpyt → backgroundTurn s c = true →
      let es := if c.op = .cpyt then 2 ^ d 34 1 else 1
      let src (r : Nat) : Nat := d 0 8 + r * d 24 4
      let put (va : Nat) (x : List Byte) : List (Word × List Byte) :=
        if d 32 2 = 0 then [(BitVec.ofNat 64 va, x)]
        else ((List.range 12).filter (fun i => (d 32 2).testBit i)).map (fun i =>
          (BitVec.ofNat 64 (2 ^ 57 + i * 2 ^ 20 + va % 2 ^ 20), x))
      let out (r : Nat) (row : List Byte) : List (Word × List Byte) :=
        if c.op = .cpyt then (List.range (d 16 4)).flatMap (fun x =>
          put (d 8 8 + x * d 28 4 + r * es) ((row.drop (x * es)).take es))
        else put (d 8 8 + r * d 28 4) row
      let row (r : Nat) : State → State → Prop := Moved c' (src r) (d 16 4 * es) (out r)
      (RowsOver row (d 20 4 - c.at_) c.at_ (beginning s c) t →
        exec (.copyRun core seq) s = .next (finishCmd t c' 2 0 0 0 (d 20 4)))
      ∧ ∀ k u, k < d 20 4 - c.at_ → RowsOver row k c.at_ (beginning s c) u →
        let r := c.at_ + k
        (∀ key va, engRead c' (BitVec.ofNat 64 (src r)) (d 16 4 * es) u = .fault key va t →
          exec (.copyRun core seq) s = .next (setCmd t { c' with at_ := r, fault := some key, faultVa := va }))
        ∧ ∀ ek pk a, engRead c' (BitVec.ofNat 64 (src r)) (d 16 4 * es) u = .fail ek pk a t →
          exec (.copyRun core seq) s = .next (finishCmd t c' 4 ek pk a r))
    ∧ (getCmd s core 2 seq = some c → c.op = .gath →
      RowsOver (fun i u v =>
        let x := (c.idx[i]?).getD 0xFFFF_FFFF
        let dst : Word := BitVec.ofNat 64 (d 8 8 + i * d 34 2)
        if x = 0xFFFF_FFFF then engWrites c' [(dst, List.replicate (d 26 2) 0)] u = .ok () v
        else Moved c' (d 0 8 + x * d 32 2) (d 26 2) (fun bs => [(dst, bs)]) u v)
        (d 24 2 - c.at_) c.at_ (beginning s c) t →
      exec (.gatherRun core seq) s = .next (finishCmd t c' 2 0 0 0 (d 24 2)))
    ∧ (∀ sn p, getCmd s core 0 seq = some c → c.op = .snap → snapOf s c = some sn →
      (∀ a more q qs, sn.ahead = a :: more → sn.under s c.ctx a.1 = q :: qs →
        nextPage s c.ctx sn = some (pageBefore s c.ctx sn sn.pages.length q))
      ∧ (∀ bs u v xs, PageBytes c sn p bs s u → PagesRead c sn (imageHits u c.ctx sn p) xs u v →
        engWrites c [(BitVec.ofNat 64 (p.2 * 2 ^ 16), bs)] v = .ok () t →
        nextPage s c.ctx sn = some p →
        let rest := sn.pages.filter (fun q => q != p)
        let u := match pageOf t c.ctx p.1 with | some x => clearF t c.ctx x.addr rest | none => t
        let sn' : Snap := { sn with
          pages := rest, done := sn.done + 1
          saved := sn.saved.filter (fun q => q.1 != p && !(xs.any (fun x => x.1 == q.1))) ++ xs }
        (rest = [] → exec (.snapCopy core seq) s = .next (finishCmd
          (sn.ahead.foldl (fun (v : State) a => resolveFault v c.ctx a.2) (u.updCtx c.ctx (fun x => { x with snap := none })))
          c 2 0 0 0 (sn.done + 1)))
        ∧ (rest ≠ [] → sn.ahead = [] → exec (.snapCopy core seq) s = .next (u.updCtx c.ctx (fun x => { x with snap := some sn' })))
        ∧ (rest ≠ [] → sn.ahead ≠ [] → exec (.snapCopy core seq) s = .next (settleAhead u c.ctx sn'))))

/-- R341: the set of a bin command as its run reads it, once. -/
def SetRead (s : State) (c c1 : Cmd) (s1 : State) : Prop :=
  (c.cfg ≠ [] ∧ c1 = begun c ∧ s1 = beginning s c)
  ∨ (c.cfg = [] ∧ ∃ set u, engRead (begun c) (BitVec.ofNat 64 (descNat c 0 8)) 64 (beginning s c) = .ok set u
      ∧ binBad u (begun c) set = none ∧ c1 = { begun c with cfg := set } ∧ s1 = setCmd u c1)

/-- R340 and R342: one addition of a drain, by the TYPE of its bin set: .i32 wraps, a float is one sum rounded once with RNE, with
subnormals kept and NaN results canonical. -/
def BinAdditions : Prop :=
  ∀ (set : List Byte) (old x : Nat),
    (fieldAt set 28 1 = 3 → binAdd set old x = (old + x) % 2 ^ 32)
    ∧ ∀ f, (fieldAt set 28 1, f) ∈ [(0, FT.f32), (1, FT.f16), (2, FT.bf16)] →
      binAdd set old x = ((sumTerms [.val (f.decode old), .val (f.decode x)]).round f .rne false).bits

/-- R342: the old values of target elements, read one after another. -/
def OldValues (c : Cmd) (base es : Nat) : List Nat → List Nat → State → State → Prop
  | [], vs, s, t => vs = [] ∧ t = s
  | e :: l, vs, s, t => ∃ bs u ws, engRead c (BitVec.ofNat 64 (base + es * e)) es s = .ok bs u
      ∧ vs = bytesToNat bs :: ws ∧ OldValues c base es l ws u t

/-- R340 to R342: an append gives the element of each index that is not 0xFFFF_FFFF the next slot of the set, below its
capacity: an entry of element, thread id, sequence and value. A drain sorts the entries by element, thread and sequence, adds
them in that order to each target element, and empties the set. -/
def BinsRun : Prop :=
  ∀ (s t : State) (core seq : Nat) (c c1 : Cmd) (s1 : State), canRun s c = true → getCmd s core 2 seq = some c →
    c.op = .scatadd → SetRead s c c1 s1 →
    let d := descNat c
    let set := c1.cfg
    let es := if fieldAt set 28 1 = 1 ∨ fieldAt set 28 1 = 2 then 2 else 4
    (d 26 1 = 0 →
      RowsOver (fun i u v =>
        let elem := (c.idx[i]?).getD 0xFFFF_FFFF
        if elem = 0xFFFF_FFFF then v = u
        else elem < fieldAt set 24 4 ∧ ∃ n x u1 u2,
          engRead c1 (BitVec.ofNat 64 (d 0 8 + 12)) 4 u = .ok n u1 ∧ bytesToNat n < fieldAt set 8 4
          ∧ engRead c1 (BitVec.ofNat 64 (d 8 8 + i * es)) es u1 = .ok x u2
          ∧ engWrites c1 [(BitVec.ofNat 64 (fieldAt set 0 8 + 16 * bytesToNat n),
              natToBytes 4 elem ++ natToBytes 4 ((u2.team c.team).ordinal * 1024 + c.tid)
                ++ natToBytes 4 (c.gen % 2 ^ 20 * 4096 + i) ++ natToBytes 4 (bytesToNat x)),
            (BitVec.ofNat 64 (d 0 8 + 12), natToBytes 4 (bytesToNat n + 1))] u2 = .ok () v)
        (d 24 2 - c.at_) c.at_ s1 t →
      exec (.scataddAppendRun core seq) s = .next (finishCmd t c1 2 0 0 0 (d 24 2)))
    ∧ (d 26 1 = 1 → ∀ now es1 u1 u2 vs u3,
      engRead c1 (BitVec.ofNat 64 (d 0 8)) 64 s1 = .ok now u1 →
      let n := fieldAt now 12 4
      let es := binEs now
      engRead c1 (BitVec.ofNat 64 (fieldAt now 0 8)) (16 * n) u1 = .ok es1 u2 →
      let xs := (binEntries n es1).sortBy BinEntry.le
      let elems := (xs.map BinEntry.elem).dedup
      OldValues c1 (fieldAt now 16 8) es elems vs u2 u3 →
      engWrites c1 (((elems.zip vs).map (fun (p : Nat × Nat) => ((BitVec.ofNat 64 (fieldAt now 16 8 + es * p.1) : Word),
          natToBytes es (((xs.filter (fun x => x.elem == p.1)).map BinEntry.value).foldl (binAdd now) p.2)))).reverse
        ++ [(BitVec.ofNat 64 (d 0 8 + 12), natToBytes 4 0)]) u3 = .ok () t →
      exec (.scataddDrainRun core seq) s = .next (finishCmd t c1 2 0 0 0 n))

/-- R310 and R324: ranges read one after another; a range that is not there is as many zeros. -/
def RangesRead (c : Cmd) : List (Option (Nat × Nat) × Nat) → List Byte → State → State → Prop
  | [], bs, s, t => bs = [] ∧ t = s
  | (none, n) :: l, bs, s, t => ∃ xs, bs = List.replicate n 0 ++ xs ∧ RangesRead c l xs s t
  | (some (a, n), _) :: l, bs, s, t => ∃ x u xs, engRead c (BitVec.ofNat 64 a) n s = .ok x u ∧ bs = x ++ xs
      ∧ RangesRead c l xs u t

/-- R311: an element of a record's format: binary8 of its F8 code, f16, bf16 or INT8. -/
def recordValue (p : PalRec) (x : Nat) : FVal :=
  if p.fmt = 0x20 then FT.f16.decode x
  else if p.fmt = 0x21 then FT.bf16.decode x
  else if p.fmt = 0x22 then intVal (IT.i8.value x)
  else (Tiny.ofCode 8 (BitVec.ofNat 5 p.fmt)).decode x

/-- R284 and R311: the scale of element k of row r: 1 where the record has none, else the .es8p1 byte of the block of 16, 32 or 64
elements that holds it. -/
def recordScale (p : PalRec) (r k : Nat) : FVal :=
  if p.blk = 0 then .fin false 1 0
  else (Tiny.ofCode 8 1#5).decode (fieldAt p.scales (r * p.stride + k / (if p.blk = 1 then 16 else if p.blk = 2 then 32 else 64)) 1)

/-- R284 and R315: the exact product of the two elements with their scales. -/
def scaledProduct (a sa b sb : FVal) : Term :=
  match FVal.mul b sb with
  | .val w => Term.mul (FVal.mul a sa) w
  | .invalid => .invalid

/-- R310, R311, R315 and R318: the term (i, j, k) of source row r, whose element of A stands at index x of the row, with the memory as
the k-step of that term read it. -/
def termAt (s : State) (c : Cmd) (mem : Nat → Byte) (r j k x : Nat) : Term :=
  let bytes (a n : Nat) : Nat := bytesToNat ((List.range n).map (fun y => mem (a + y)))
  let size (p : PalRec) : Nat := if p.fmt = 0x20 ∨ p.fmt = 0x21 then 2 else 1
  let ea := size (recA s c)
  let eb := size (recB s c)
  let d := descNat c
  let b := d 8 8 + (if d 37 1 % 2 = 1 then j * d 26 2 + k * eb else k * d 26 2 + j * eb)
  scaledProduct (recordValue (recA s c) (bytes (d 0 8 + r * d 24 2 + x * ea) ea)) (recordScale (recA s c) r k)
    (recordValue (recB s c) (bytes b eb)) (recordScale (recB s c) j k)

/-- R310, R315 and R318: the terms of the open partial sum of an element, from what its k-steps read: `mem t` is what stood at each
address when k-step t read it. A dense row has one term for each k; a row of mmas keeps two elements of each four, and the
metadata of logical row i, at margin byte MOFF + i × K/8, says which. -/
def MatrixTerms : Prop :=
  ∀ (s : State) (c : Cmd) (mem : Nat → Nat → Byte) (i j r : Nat), c.ks ≤ c.at_ → i < mxM c.desc → j < mxN c.desc →
    sourceRow c i = some r →
    (c.op = .mmas → c.ks % 8 = 0 ∧ c.at_ % 8 = 0 ∧ mxK c.desc % 8 = 0) →
    c.cfg = (List.range ((c.at_ - c.ks + 7) / 8)).flatMap (fun t =>
      (stepRanges s c (c.ks + 8 * t) (min c.at_ (c.ks + 8 * t + 8))).flatMap (fun x =>
        match x.1 with
        | some (a, n) => (List.range n).map (fun y => mem t (a + y))
        | none => List.replicate x.2 0)) →
    openTerms s c i j =
      if c.op = .mmas then (List.range ((c.at_ - c.ks) / 2)).map (fun n =>
        let x := c.ks / 2 + n
        let b := (Memory.read s.margin (marginKey c.team (descNat c 40 2 + i * (mxK c.desc / 8) + x / 4))).toNat
        termAt s c (mem (n / 4)) r j (4 * (x / 2) + b / 2 ^ (2 * (x % 4)) % 4) x)
      else (List.range (c.at_ - c.ks)).map (fun n => termAt s c (mem (n / 8)) r j (c.ks + n) (c.ks + n))

/-- R310: the source row of a logical row: itself without an index vector, else the vector's entry; all ones is a zero row. -/
def SourceRows : Prop :=
  ∀ (c : Cmd) (i : Nat), (descNat c 16 8 = 0 → sourceRow c i = some i)
    ∧ ∀ x, descNat c 16 8 ≠ 0 → c.idx[i]? = some x → sourceRow c i = if x = 0xFFFF_FFFF then none else some x

/-- R315: one k-step of a matrix command: what it reads joins the open partial sum, which the end of a chunk, or of K,
rounds into the tile. -/
def KStep (p q : Cmd × State) : Prop :=
  let c := p.1
  let hi := min (mxK c.desc) (c.at_ + 8)
  mxPoisoned p.2 c = false ∧ ∃ bs u,
    RangesRead c (rangesLeft (stepBytes p.2 c).length (stepRanges p.2 c c.at_ hi)) bs p.2 u
    ∧ let c' := { c with at_ := hi, cfg := c.cfg ++ bs }
      q = if hi % mxChunk c.desc = 0 ∨ hi = mxK c.desc then mxRound c' u else (c', u)

/-- R321: a command goes on with the index vector it read; one that a swap stopped reads it again. -/
def IndexRead (s : State) (c c1 : Cmd) (s1 : State) : Prop :=
  ((descNat c 16 8 = 0 ∨ c.idx ≠ []) ∧ c1 = begun c ∧ s1 = beginning s c)
  ∨ (descNat c 16 8 ≠ 0 ∧ c.idx = [] ∧ ∃ bs,
    engRead (begun c) (BitVec.ofNat 64 (descNat c 16 8)) (4 * mxM c.desc) (beginning s c) = .ok bs s1
      ∧ c1 = { begun c with idx := (List.range (mxM c.desc)).map (fun i => fieldAt bs (4 * i) 4) })

/-- `n` k-steps, none after the last of K. -/
def KSteps : Nat → Cmd × State → Cmd × State → Prop
  | 0, p, q => q = p
  | n + 1, p, q => p.1.at_ < mxK p.1.desc ∧ ∃ r, KStep p r ∧ KSteps n r q

/-- R308, R309, R314 to R322, R325 and R380: a matrix command at the head, with leave where it needs it, takes its k-steps and
is complete at K, its block's KDONE and STATE 0; one its predicate retired is complete at once; one above the threshold asks for
leave. PROG is the k it reached, 128 for azero and 1 for mgld (log entry 20, the model's reading). Rounding gives every element
of the tile the exact sum of the element and the partial sum's products, rounded once, to nearest even; a zero row's elements
stay, but −0 becomes +0. A stop that is pending rounds the open sum and gives up the leave; for CKPT the command ends stopped
with KDONE its k. The oldest request gets leave while fewer than GMAX are held, once its cycle is past. Tile commands move rows.
-/
def MatrixRun : Prop :=
  ∀ (s t : State) (core : Nat) (c : Cmd),
    (mxHead s core = some c → canRun s c = true → mxInPlace s c = true → c.stop = none →
      ((c.op = .mma ∨ c.op = .mmas) → c.retired = true → ∀ n,
        exec (.mmaRun core n) s = .next (finishCmd s { c with started := true } 2 0 0 0 0))
      ∧ ((c.op = .mma ∨ c.op = .mmas) → c.retired = false →
        let work := mxM c.desc * mxN c.desc * mxK c.desc
        (work ≤ Config.leaveThreshold ∨ c.leave = some true → ∀ n steps c1 s1 q, IndexRead s c c1 s1 → KSteps n (c1, s1) q →
          (n = steps → q.1.at_ < mxK c.desc → exec (.mmaRun core steps) s = .next (setCmd q.2 q.1))
          ∧ (0 < n → n ≤ steps → mxK c.desc ≤ q.1.at_ → exec (.mmaRun core steps) s = .next
            (finishCmd (writeBlock (dropLeave q.2 q.1) q.1 (some 0) 0) q.1 2 0 0 0 q.1.at_)))
        ∧ (Config.leaveThreshold < work → c.leave = none → ∀ n, ∃ u, exec (.mmaRun core n) s = .next u
          ∧ (u.die (dieOf c.core)).leaveQ = (((beginning s c).die (dieOf c.core)).leaveQ ++ [(s.now, leaveKey c.core c.seq)]).sortBy leaveOrder
          ∧ getCmd u c.core c.cls c.seq = some { begun c with leave := some false }))
      ∧ (c.op = .azero ∨ c.op = .ald ∨ c.op = .ast ∨ c.op = .mgld →
        let b := c.opnd
        let tile := b.toNat % 8
        let first := bitsOf b 14 8
        let total := if c.op = .azero then 128 else if c.op = .mgld then 1 else bitsOf b 22 16 + 1
        let at_ (r : Nat) : Word := c.addr + BitVec.ofNat 64 (512 * r)
        RowsOver (fun r u v =>
          if c.op = .azero then v = rowSet u c.team tile r []
          else if c.op = .ald then ∃ bs w, engRead (begun c) (at_ r) 512 u = .ok bs w ∧ v = rowSet w c.team tile (first + r) bs
          else if c.op = .ast then poisonedRange u poisonAcc (accKey c.team tile (first + r) 0) 128 = false
            ∧ engWrites (begun c) [(at_ r, rowGet u c.team tile (first + r))] u = .ok () v
          else ∃ bs w, engRead (begun c) c.addr (bitsOf b 31 16) u = .ok bs w
            ∧ v = unpoison { w with margin := Memory.writeN w.margin (marginKey c.team (bitsOf b 14 0)) bs }
              poisonMargin (marginKey c.team (bitsOf b 14 0)) bs.length)
          (total - c.at_) c.at_ (beginning s c) t →
        exec (.tileCommandRun core) s = .next (finishCmd t (begun c) 2 0 0 0 total)))
    ∧ (∀ team tile row bs j, tile < 8 → row < 128 → j < 128 →
      accGet (rowSet s team tile row bs) (accKey team tile row j) = BitVec.ofNat 32 (fieldAt bs (4 * j) 4)
        ∧ ∀ k, k / 128 ≠ accKey team tile row j / 128 → accGet (rowSet s team tile row bs) k = accGet s k)
    ∧ (mxM c.desc ≤ 128 → mxN c.desc ≤ 128 → ∀ i j, i < mxM c.desc → j < mxN c.desc →
      let k := accKey c.team (descNat c 36 1 % 8) i j
      let r (i j : Nat) : FRes :=
        (sumTerms (.val (FT.f32.decode (accGet s (accKey c.team (descNat c 36 1 % 8) i j)).toNat) :: openTerms s c i j)).round .f32 .rne false
      accGet (mxRound c s).2 k = (if (sourceRow c i).isSome then BitVec.ofNat 32 (r i j).bits
          else if accGet s k = 0x8000_0000#32 then 0 else accGet s k)
        ∧ ∀ b, b < 6 → (((mxRound c s).2.team c.team).mxf.getLsbD b = true ↔ (s.team c.team).mxf.getLsbD b = true
          ∨ ∃ x y, x < mxM c.desc ∧ y < mxN c.desc ∧ (sourceRow c x).isSome = true ∧ (r x y).flags.getLsbD b = true))
    ∧ (∀ k, (s.core core).cmds.find? (fun p => p.2.cls == 1 && decide (p.2.status < 2) && p.2.stop.isSome) = some (k, c) →
      let p := mxClose c s
      let d := { p.1 with stop := none, leave := none, cfg := [] }
      (c.stop = some false → exec (.mmaStop core) s = .next (setCmd (dropLeave p.2 d) { d with idx := [] }))
      ∧ (c.stop = some true → exec (.mmaStop core) s = .next
        (finishCmd (writeBlock (dropLeave p.2 d) d (some d.at_) 2) d 5 0 0 0 d.at_)))
    ∧ (∀ die cycle k rest, (s.die die).leaveQ = (cycle, k) :: rest →
      ((s.die die).gmax ≤ (s.die die).grants.length ∨ s.now ≤ cycle → exec (.leaveGrant die) s = .next s)
      ∧ ((s.die die).grants.length < (s.die die).gmax → cycle < s.now → getCmd s c.core 1 c.seq = some c → c.cls = 1 →
        k = leaveKey c.core c.seq → c.seq < 2 ^ 34 → ∃ u, exec (.leaveGrant die) s = .next u
          ∧ (u.die die).grants = (s.die die).grants ++ [k] ∧ (u.die die).leaveQ = rest
          ∧ getCmd u c.core 1 c.seq = some { c with leave := some true }))

/-- R107, R129 and R329: where no other command of the core is still to be recorded, the end of a command is recorded at once:
its status is kept, the class counter of its group falls by 1, the holds of its thread forget it, and a form with a
descriptor has its STATUS and PROG there. With .evt it is held until its event record is posted (R346). -/
def CommandEnds : Prop :=
  ∀ (s : State) (c : Cmd) (st ek pk prog : Nat) (a : Word), 2 ≤ st → c.recorded = false → c.held = false → c.op ≠ .lgproj →
    (∀ p ∈ (s.core c.core).cmds, p.1 ≠ cmdKey c.cls c.seq → p.2.recorded = true) → s.scratch.wf = true →
    let t := finishCmd s c st ek pk a prog
    let d : Cmd := { c with status := st, ekind := ek, pkind := pk, eaddr := a, prog := prog, fault := none, link := none }
    let k := c.slot * 4 + c.cls
    (c.evt = false → getCmd t c.core c.cls c.seq = some { d with recorded := true }
      ∧ Tbl.getD (t.team c.team).counters k 0 = Tbl.getD (s.team c.team).counters k 0 - 1
      ∧ (t.thread (threadKey c.team c.tid)).holds = (s.thread (threadKey c.team c.tid)).holds.map (fun h =>
        { h with cmds := h.cmds.filter (fun x => x != cmdHandle s c) }))
    ∧ (c.evt = true → getCmd t c.core c.cls c.seq = some { d with held := true }
      ∧ Tbl.getD (t.team c.team).counters k 0 = Tbl.getD (s.team c.team).counters k 0
      ∧ (t.ctx c.ctx).events = (s.ctx c.ctx).events ++ [⟨cmdHandle s c, st, ek, prog, some (c.core, c.cls, c.seq)⟩])
    ∧ (∀ i o key x, writesDesc c.op = true → window c.addr = .scr i o → scratchAt s c.team i o 64 = some (key, x) →
      Memory.nat t.scratch (key + 36) 4 = prog % 2 ^ 32 ∧ Memory.nat t.scratch (key + 40) 1 = st % 256)

end Sys2Proof

/-- R41, R106 to R108, R308, R309, R314 to R325, R329, R333, R338 to R342, R346 and R380: what the engines do with the commands of
classes 0 to 2. -/
def Obligations.EngineRuns : Prop := CopiesRun ∧ BinAdditions ∧ BinsRun ∧ SourceRows ∧ MatrixTerms ∧ MatrixRun ∧ CommandEnds

/-! ### What the Ligature unit does (R349 to R367) -/

namespace Sys2Proof

/-- R359: whether a head is taken as it stands: one of another generation counts as empty. -/
def headOld (c : Cmd) (b : List Byte) : Bool := hdEmpty b || hdGen b == c.gen

/-- R354 and R359: a link whose bucket is full up to its last block takes the next block of the pool, and with it holds the head:
`c'` is the command, with the head's place in the Well and the block. -/
def BlockTaken (c c' : Cmd) (at_ : Word) (s t : State) : Prop :=
  ∃ b u pool v w, engRead c at_ 64 s = .ok b u ∧ c.link = none ∧ headOld c b = true ∧ hdSat b = false ∧ 13 ≤ hdN b
    ∧ (hdN b - 13) % 14 = 0 ∧ (hdN b - 13) / 14 ≠ lgMaxch c.cfg
    ∧ engRead c (poolVa u c) 16 u = .ok pool v ∧ fieldAt pool 12 4 < fieldAt pool 8 4
    ∧ engWrites c [(poolVa v c + 12, natToBytes 4 (fieldAt pool 12 4 + 1))] v = .ok () w
    ∧ c' = { c with link := some (headKey at_, fieldAt pool 0 8 + fieldAt pool 12 4 * 64) }
    ∧ t = bumpStat w c.ctx c.setNo 2 1

/-- R359: one link of token `tk` in the bucket at `at_`: what it writes, the statistics it counts and the chain bytes it
wrote. A head of another generation counts as empty; 13 ids stand in the head and 14 in each chain block, the newest first;
a bucket whose chain is full becomes saturated. A block that the link has taken is written before the head. -/
def Linked (c : Cmd) (at_ : Word) (tk : Nat) (stats blks : List Nat) (s t : State) : Prop :=
  ∃ b u, engRead c at_ 64 s = .ok b u ∧
    let n := if headOld c b then hdN b else 0
    let sat := if headOld c b then hdSat b else false
    let chain := if headOld c b then hdChain b else 0
    let ids := b.drop 12
    let head (sat : Bool) (n chain : Nat) (ids : List Byte) : Word × List Byte :=
      (at_, natToBytes 2 c.gen ++ natToBytes 2 (n % 2 ^ 15 + (if sat then 2 ^ 15 else 0)) ++ natToBytes 8 chain ++ ids)
    let q := n - 13
    (sat = true ∧ stats = [] ∧ blks = [] ∧ engWrites c [head true n chain ids] u = .ok () t)
    ∨ (sat = false ∧ n < 13 ∧ stats = [1] ∧ blks = []
      ∧ engWrites c [head false (n + 1) chain (patch ids (4 * n) (natToBytes 4 tk))] u = .ok () t)
    ∨ (sat = false ∧ 13 ≤ n ∧ q % 14 = 0 ∧ q / 14 = lgMaxch c.cfg ∧ stats = [3] ∧ blks = []
      ∧ engWrites c [head true n chain ids] u = .ok () t)
    ∨ (sat = false ∧ 13 ≤ n ∧ q % 14 = 0 ∧ q / 14 ≠ lgMaxch c.cfg ∧ ∃ key blk, c.link = some (key, blk) ∧ stats = [1]
      ∧ blks = [blk] ∧ engWrites c [(BitVec.ofNat 64 blk, natToBytes 8 chain ++ natToBytes 4 tk),
          head false (n + 1) blk ids] u = .ok () t)
    ∨ (sat = false ∧ 13 ≤ n ∧ q % 14 ≠ 0 ∧
      let a := chain + 8 + 4 * (q % 14)
      stats = [1] ∧ blks = [a]
        ∧ engWrites c [(BitVec.ofNat 64 a, natToBytes 4 tk), head false (n + 1) chain ids] u = .ok () t)

/-- R361: one step of a kstore that is not at its end: key `i` has its signature computed and its row written, or is linked in table
`j` − 1, or its link there takes a block. A link that ends lets go of its head, and what waits for it goes on. -/
def StoreStep (p q : Cmd × State) : Prop :=
  let c := p.1
  let i := c.at_ / (lgT c.cfg + 1)
  let j := c.at_ % (lgT c.cfg + 1)
  let at_ := headVa p.2 c (headNo c 26) c.ks (j - 1)
  c.at_ < descNat c 24 2 * (lgT c.cfg + 1) ∧
  if j = 0 then ∃ row u sig v, engRead c (BitVec.ofNat 64 (descNat c 0 8 + i * descNat c 16 2)) (2 * lgD c.cfg) p.2 = .ok row u
    ∧ signature u c row = some sig
    ∧ engWrites c [(BitVec.ofNat 64 (descNat c 8 8 + i * descNat c 18 2), row)] u = .ok () v
    ∧ q = ({ c with at_ := c.at_ + 1, ks := sig }, bumpStat v c.ctx c.setNo 0 1)
  else BlockTaken c q.1 at_ p.2 q.2 ∨ ∃ stats blks v, Linked c at_ (descNat c 20 4 + i) stats blks p.2 v
    ∧ q = ({ c with at_ := c.at_ + 1, idx := c.idx ++ blks, link := none },
      stats.foldl (fun v k => bumpStat v c.ctx c.setNo k 1)
        (if c.link = none then v else v.wakeAll (fun _ w => w == .bucket)))

/-- `n` steps of a kstore. -/
def StoreSteps : Nat → Cmd × State → Cmd × State → Prop
  | 0, p, q => q = p
  | n + 1, p, q => ∃ r, StoreStep p r ∧ StoreSteps n r q

/-- R352, R354, R356, R359, R361 to R367: kstore writes and links its keys in ascending order; a signature has one bit for
each row of the projection, the sign of its exact product with the row of elements; lgather answers its candidates,
distinct and ascending, with their rows, or the highest-ranked reason for the dense fallback; lgsig writes signatures;
lgproj loads the projection once the commands of its set that passed issue before it have completed, makes the set stale and reopens it, and a failed load leaves the projection to
free values (log entry 5); lgpool writes the pool block. -/
def UnitRuns : Prop :=
  ∀ (s t : State) (core seq : Nat) (c : Cmd),
    let c' := begun c
    let s' := beginning s c
    let d := descNat c
    (ligHead s core seq .kstore = some c → ∀ n q, StoreSteps n (c', s') q → d 24 2 * (lgT c.cfg + 1) ≤ q.1.at_ →
      exec (.kstoreRun core seq) s = .next (finishCmd q.2 q.1 2 0 0 0 (d 24 2)))
    ∧ (∀ row sig, signature s c row = some sig → sig < 2 ^ (lgT c.cfg * lgB c.cfg) ∧
      ∀ n, n < lgT c.cfg * lgB c.cfg →
        let x := sumTerms ((List.range (lgD c.cfg)).map (fun k =>
          FVal.mul (FT.bf16.decode (Memory.nat (s.ctx c.ctx).proj (lgPoff c.cfg + (n * lgD c.cfg + k) * 2) 2))
            ((lgFmt c.cfg).decode (fieldAt row (2 * k) 2))))
        (sig.testBit n = false ↔ x.ninf = true ∨ (x.pinf = false ∧ x.t < 0)))
    ∧ (ligHead s core seq .lgather = some c → ∀ x u,
      readQueries c' (List.range (d 34 1)) ⟨[], false, false, false⟩ s' = .ok x u →
      let why := if x.nan then 4 else if x.stale then 3 else if x.sat then 2
        else if lgKmax c.cfg < x.ids.dedup.length then 1 else 0
      (why ≠ 0 → exec (.lgatherRun core seq) s = .next
        (finishCmd (bumpStat (bumpStat u c.ctx c.setNo 4 1) c.ctx c.setNo 5 1) c' 4 5 0 0 (why * 2 ^ 28)))
      ∧ (why = 0 → ∀ (ids : List Nat) (rows : List (Word × List Byte)) (v : State), ids.Pairwise (fun a b => a < b) → (∀ a, a ∈ ids ↔ a ∈ x.ids) →
        gatherRows c' (if d 16 8 = 0 then [] else ids.mapIdx (fun i k => (i, k))) u = .ok rows v →
        engWrites c' ((BitVec.ofNat 64 (d 8 8), (ids.length :: ids ++ (if d 41 1 % 2 = 1 then
          List.replicate (lgKmax c.cfg - ids.length) 0xFFFFFFFF else [])).flatMap (natToBytes 4)) :: rows) v = .ok () t →
        exec (.lgatherRun core seq) s = .next
          (finishCmd (bumpStat (bumpStat t c.ctx c.setNo 4 1) c.ctx c.setNo 6 ids.length) c' 2 0 0 0 ids.length)))
    ∧ (ligHead s core seq .lgsig = some c →
      RowsOver (fun i u v => ∃ row w sig,
        engRead c' (BitVec.ofNat 64 (d 0 8 + i * d 16 2)) (2 * lgD c.cfg) u = .ok row w ∧ signature w c' row = some sig
          ∧ engWrites c' [(BitVec.ofNat 64 (d 8 8 + 8 * i), natToBytes 8 sig)] w = .ok () v)
        (d 18 2 - c.at_) c.at_ s' t →
      exec (.lgsigRun core seq) s = .next (finishCmd t c' 2 0 0 0 (d 18 2)))
    ∧ (ligHead s core seq .lgproj = some c → (∀ x ∈ ligRunning s c.ctx c.setNo, (x.core, x.seq) ∉ c.drains) →
      (∀ bs u, engRead c' c.addr (lgProjLen c.cfg) s' = .ok bs u →
        let x := headSet u c.ctx c.setNo
        let v := u.updCtx c.ctx (fun k => { k with proj := Memory.writeN k.proj (lgPoff c.cfg) bs })
        exec (.lgprojRun core seq) s = .next (reopenSet (finishCmd (setHeadSet v c.ctx c.setNo { x with
          gen := if x.gen = 0xFFFF then 1 else x.gen + 1 }) c' 2 0 0 0 0) c.ctx c.setNo))
      ∧ (∀ ek pk a u, engRead c' c.addr (lgProjLen c.cfg) s' = .fail ek pk a u →
        ∃ v, exec (.lgprojRun core seq) s = .next v ∧ v.free = u.free + lgProjLen c.cfg / 8
          ∧ (headSet v c.ctx c.setNo).gen = (headSet u c.ctx c.setNo).gen ∧ (headSet v c.ctx c.setNo).closed = false))
    ∧ (ligHead s core seq .lgpool = some c →
      engWrites c' [(poolVa s' c', c.desc.take 12 ++ natToBytes 4 0)] s' = .ok () t →
      exec (.lgpoolRun core seq) s = .next (finishCmd t c' 2 0 0 0 0))

/-- Where `n` bytes stand for a command: a byte address of a scratchpad (false) or of a Well bank (true), with the checks of
R19, R20, R77, R359 and R390 passed, and no poison. -/
def Machine.Cmd.near (c : Cmd) (s : State) (va : Word) (n : Nat) : Option (Bool × Nat) :=
  match windowOf va n with
  | .well d o =>
    if wellBounds s c.ctx d o n = true ∧ wellFilling s (o + n - 1) = false ∧ headHeld s (wellKey d o) n c.same = false
        ∧ poisonedRange s poisonWell (wellKey d o) n = false then some (true, wellKey d o) else none
  | .scr i o =>
    match scratchAt s c.team i o n with
    | some (k, core) =>
      if awaited s core k n = false ∧ poisonedRange s poisonScratch k n = false then some (false, k) else none
    | none => none
  | _ => none

/-- R359, R361: a head with room takes token `tk`: of another generation or empty it starts afresh. -/
def headWith (c : Cmd) (b : List Byte) (tk : Nat) : List Byte :=
  let old : Bool := hdEmpty b || hdGen b == c.gen
  let n := if old then hdN b else 0
  natToBytes 2 c.gen ++ natToBytes 2 (n + 1) ++ natToBytes 8 (if old then hdChain b else 0)
    ++ patch (b.drop 12) (4 * n) (natToBytes 4 tk)

/-- R353, R354, R361 to R363, R366: when the Ligature commands complete, by the state alone: where the rows, the results, the
bucket heads, the projection and the pool block stand in scratchpads and Well banks that the command can reach. kstore of one
key whose heads have room writes the row, then each head, and counts the key and its links; lgather over heads without chains
writes the distinct ids, ascending; lgsig writes a signature for each row; lgproj, with the commands before it complete, loads the projection and
raises GEN; lgpool writes the pool block. -/
def UnitCompletes : Prop :=
  ∀ (s : State) (core seq : Nat) (c : Cmd), s.scratch.wf = true → s.well.wf = true →
    let c' := begun c
    let s' := beginning s c
    let d := descNat c
    let len := 2 * lgD c.cfg
    let key (n : Nat) : Word := BitVec.ofNat 64 n
    (∀ x y sig (die off : Nat → Nat) (b : Nat → List Byte), ligHead s core seq .kstore = some c → c.at_ = 0 → c.link = none →
      d 24 2 = 1 →
      c.near s (key (d 0 8)) len = some (false, x) → c.near s (key (d 8 8)) len = some (false, y) →
      let row := Memory.readN s.scratch x len
      signature s c row = some sig →
      (∀ j, j < lgT c.cfg → windowOf (headVa s c (headNo c 26) sig j) 64 = .well (die j) (off j)
        ∧ c.near s (headVa s c (headNo c 26) sig j) 64 = some (true, wellKey (die j) (off j))
        ∧ b j = Memory.readN s.well (wellKey (die j) (off j)) 64
        ∧ (hdEmpty (b j) = true ∨ hdGen (b j) ≠ c.gen ∨ (hdSat (b j) = false ∧ hdN (b j) < 13))
        ∧ ∀ i, i < j → wellKey (die i) (off i) + 64 ≤ wellKey (die j) (off j)
          ∨ wellKey (die j) (off j) + 64 ≤ wellKey (die i) (off i)) →
      exec (.kstoreRun core seq) s = .next (finishCmd ((List.range (lgT c.cfg)).foldl (fun (v : State) j =>
          bumpStat (wellWrite v (die j) (off j) (headWith c (b j) (d 20 4))) c.ctx c.setNo 1 1)
        (bumpStat (scratchWrite s' y row) c.ctx c.setNo 0 1)) { c' with at_ := lgT c.cfg + 1, ks := sig } 2 0 0 0 1))
    ∧ (∀ (x sig : Nat → Nat) (b : Nat → Nat → List Byte) (ids : List Nat) y, ligHead s core seq .lgather = some c → d 16 8 = 0 →
      (∀ r, r < d 34 1 → c.near s (key (d 0 8 + r * len)) len = some (false, x r)
        ∧ signature s c (Memory.readN s.scratch (x r) len) = some (sig r)
        ∧ ∀ j, j < lgT c.cfg → ∃ k, c.near s (headVa s c (headNo c 42) (sig r) j) 64 = some (true, k)
          ∧ b r j = Memory.readN s.well k 64
          ∧ (hdEmpty (b r j) = true ∨ (hdGen (b r j) = c.gen ∧ hdSat (b r j) = false ∧ hdN (b r j) ≤ 13))) →
      ids.Pairwise (fun a b => a < b) → ids.length ≤ lgKmax c.cfg →
      (∀ a, a ∈ ids ↔ ∃ r j i, r < d 34 1 ∧ j < lgT c.cfg ∧ i < hdN (b r j) ∧ a = fieldAt (b r j) (12 + 4 * i) 4) →
      let out := (ids.length :: ids ++ (if d 41 1 % 2 = 1 then List.replicate (lgKmax c.cfg - ids.length) 0xFFFFFFFF
        else [])).flatMap (natToBytes 4)
      c.near s (key (d 8 8)) out.length = some (false, y) →
      exec (.lgatherRun core seq) s = .next (finishCmd
        (bumpStat (bumpStat (scratchWrite s' y out) c.ctx c.setNo 4 1) c.ctx c.setNo 6 ids.length) c' 2 0 0 0 ids.length))
    ∧ (∀ x y sig : Nat → Nat, ligHead s core seq .lgsig = some c → c.at_ = 0 →
      (∀ i, i < d 18 2 → c.near s (key (d 0 8 + i * d 16 2)) len = some (false, x i)
        ∧ c.near s (key (d 8 8 + 8 * i)) 8 = some (false, y i)
        ∧ signature s c (Memory.readN s.scratch (x i) len) = some (sig i)
        ∧ ∀ j, j < d 18 2 → x i + len ≤ y j ∨ y j + 8 ≤ x i) →
      exec (.lgsigRun core seq) s = .next (finishCmd ((List.range (d 18 2)).foldl (fun (v : State) i =>
        scratchWrite v (y i) (natToBytes 8 (sig i))) s') c' 2 0 0 0 (d 18 2)))
    ∧ (∀ x, ligHead s core seq .lgproj = some c → (∀ q ∈ ligRunning s c.ctx c.setNo, (q.core, q.seq) ∉ c.drains) →
      c.near s c.addr (lgProjLen c.cfg) = some (false, x) →
      let h := headSet s c.ctx c.setNo
      let ps := Memory.readN s.scratch x (lgProjLen c.cfg)
      let v := s'.updCtx c.ctx (fun k => { k with proj := Memory.writeN k.proj (lgPoff c.cfg) ps })
      exec (.lgprojRun core seq) s = .next (reopenSet (finishCmd (setHeadSet v c.ctx c.setNo
        { h with gen := if h.gen = 0xFFFF then 1 else h.gen + 1 }) c' 2 0 0 0 0) c.ctx c.setNo))
    ∧ ∀ die off, ligHead s core seq .lgpool = some c → c.desc.length = 16 → windowOf (poolVa s c) 16 = .well die off →
      (c.near s (poolVa s c) 16).isSome = true →
      exec (.lgpoolRun core seq) s = .next (finishCmd (wellWrite s' die off (c.desc.take 12 ++ natToBytes 4 0)) c' 2 0 0 0 0)

end Sys2Proof

/-- R352 to R354, R356, R359, R361 to R367: what the Ligature unit does with its commands, and when they complete. -/
def Obligations.LigatureRuns : Prop := UnitRuns ∧ UnitCompletes

/-! ### Rounds that arrive (R145, R147, R150) -/

namespace Sys2Proof

/-- R145, R147 and R150: a beacon that reaches a die is gone, and raises every known entry of the cores on which the context
is resident, which a load at its minimum no longer waits for; a wake that reaches a core raises a known entry, an unknown one
staying so (log entry 39, the model's reading), and every load that stalls in the region judges its minimum again. -/
def RoundEvents : Prop :=
  ∀ (s : State) (die core ctx rgn : Nat),
    (∀ b, (s.die die).beacons.find? (fun b => b.1 == ctx && b.2.1 == rgn) = some b →
      ∃ t, exec (.beacon die ctx rgn) s = .next t ∧ (t.die die).beacons = (s.die die).beacons.erase b
        ∧ ∀ c ∈ coresWith s die ctx,
          observed t c ctx rgn = (observed s c ctx rgn).map (fun o => if o.toNat < b.2.2.toNat then b.2.2 else o)
          ∧ ∀ k th bl n lim, s.thread? k = some th → th.status = .blocked bl → bl.why = .round rgn n lim → th.core = c →
            th.ctx = ctx → n.toNat ≤ ((observed t c ctx rgn).getD 0).toNat →
            t.thread? k = some { th with status := .waking bl })
    ∧ ∀ w rest, (s.core core).wakes = w :: rest →
      ∃ t, exec (.roundWake core) s = .next t ∧ (t.core core).wakes = rest
        ∧ observed t core w.1 w.2.1 = (observed s core w.1 w.2.1).map (fun o => if o.toNat < w.2.2.toNat then w.2.2 else o)
        ∧ ∀ k th bl n lim, s.thread? k = some th → th.status = .blocked bl → bl.why = .round w.2.1 n lim → th.core = core →
          th.ctx = w.1 → t.thread? k = some { th with status := .waking bl }

end Sys2Proof

/-- R133, R145, R147, R150, R164, R168, R184 to R186, R248 and R290: waits that end, and rounds that arrive. -/
def Obligations.WaitsEnd : Prop := ThreadWaitsEnd ∧ RoundEvents

/-! ### The launch sequencers and the event queues (R346, R370 to R379, R407, R419) -/

namespace Sys2Proof

/-- R338, R346 and R419: the oldest event record is posted, and TAIL advances; then the completion that it held is recorded.
A record that would meet a page which a snap has still to copy waits for that. -/
def EventsPost : Prop :=
  ∀ (s : State) (ctx : Nat) (r : EventRec) (rest : List EventRec) (tail : Nat),
    let bytes := wordBytes 8 r.handle ++ natToBytes 1 r.status ++ natToBytes 1 r.ekind ++ natToBytes 2 0
      ++ natToBytes 4 r.prog ++ wordBytes 8 s.cycle ++ natToBytes 8 0
    (ctx < 16 → (s.ctx ctx).events = r :: rest → eventRoom s ctx = some tail →
      let w := (s.ctx ctx).evqbase
      let base := (w.extractLsb' 12 44).toNat * 2 ^ 12
      let cap := 2 ^ ((w.extractLsb' 0 4).toNat + 4)
      let at_ := base + 64 + tail % cap * 32
      (∀ x, devHeld s ctx [(at_, 32), (base, 8)] = (true, x) → exec (.eventRecordPost ctx) s = .next x)
      ∧ ∀ x, devHeld s ctx [(at_, 32), (base, 8)] = (false, x) → x.cycle = s.cycle →
      let u := (devWrite (devWrite x ctx at_ bytes) ctx base
        (natToBytes 8 ((tail + 1) % 2 ^ 64))).updCtx ctx (fun c => { c with events := rest })
      (r.cmd = none → exec (.eventRecordPost ctx) s = .next u)
      ∧ ∀ core cls seq c, r.cmd = some (core, cls, seq) → getCmd u core cls seq = some c →
        exec (.eventRecordPost ctx) s = .next (recordClass (recordNow u c) core cls))
    ∧ (s.mevents = r :: rest → moduleRoom s = some tail →
      let base := (s.mevqbase.extractLsb' 12 44).toNat * 2 ^ 12
      let cap := 2 ^ ((s.mevqbase.extractLsb' 0 4).toNat + 4)
      exec (.eventRecordPost 16) s = .next { hwWrite (hwWrite s (base + 64 + tail % cap * 32) bytes) base
        (natToBytes 8 ((tail + 1) % 2 ^ 64)) with mevents := rest })

/-- R370 to R373 and R378: LQTAIL takes a value within the ring's capacity. The next record of a queue is fetched: a malformed
one is refused with its field in an event record; one with NODE registers its node; any other waits to be placed. HEAD
advances past it. -/
def RecordsFetched : Prop :=
  ∀ (s : State) (ctx q : Nat),
    (∀ v : Word, q < 32 →
      let n := (v.extractLsb' 0 32).toNat
      let head := ((lqReg (s.ctx ctx) q 2).extractLsb' 0 32).toNat
      hostCan s = true → exec (.lqtailWrite ctx q v) s = .next (if (n + 2 ^ 32 - head) % 2 ^ 32
          ≤ 2 ^ (((lqReg (s.ctx ctx) q 0).extractLsb' 4 4).toNat + 4) then
        s.updCtx ctx (fun c => setLq c q 1 (v.setWidth 32 |>.setWidth 64)) else s))
    ∧ ∀ r u, fetchDue s ctx q = true →
      let c := s.ctx ctx
      let i := ((lqReg c q 2).extractLsb' 0 32).toNat
      let at_ := ((lqReg c q 0).extractLsb' 12 44).toNat * 2 ^ 12 + i % 2 ^ (((lqReg c q 0).extractLsb' 4 4).toNat + 4) * 256
      let next (t : State) : Prop := lqReg (t.ctx ctx) q 2 = BitVec.ofNat 64 ((i + 1) % 2 ^ 32)
      devRead s ctx at_ 256 = (.ok r, u) →
      (∀ o, recBad r = some o → ∃ t, exec (.launchRecordFetch ctx q) s = .next t ∧ next t ∧ t.launches = u.launches
        ∧ (t.ctx ctx).events = (u.ctx ctx).events ++ [⟨launchHandle (u.ctx ctx).ctxid 0 q (i + 1), 4, 4, o, none⟩])
      ∧ ∀ ps w, recBad r = none → (if fieldAt r 8 8 = 0 then (ps = [] ∧ w = u) else devRead u ctx (fieldAt r 8 8) 256 = (.ok ps, w)) →
        (recFlag r 6 = false → ∃ t, exec (.launchRecordFetch ctx q) s = .next t ∧ next t
          ∧ t.launch w.uid = some (Launch.fresh ctx q i r ps) ∧ t.uid = w.uid + 1)
        ∧ (recFlag r 6 = true → nodeHolds (w.ctx ctx) (fieldAt r 68 2) = false → ∃ t,
          exec (.launchRecordFetch ctx q) s = .next t ∧ next t ∧ t.launches = w.launches
          ∧ Tbl.get? (t.ctx ctx).nodes (fieldAt r 68 2) = some ⟨r, ps, q, i, 0, [], [], 0, 0⟩)

/-- R372: an allotment of registers to a group: 8 to 128, a multiple of 8. -/
def legalAllotment (n : Nat) : Prop := 8 ≤ n ∧ n ≤ 128 ∧ n % 8 = 0

/-- R372: the limits of a launch record by the byte offset of the field. Those of a node's fields hold where NODE = 1 (log entry 23, the
model's reading). -/
def recordLimits (r : List Byte) : List (Nat × Prop) :=
  let f := fieldAt r
  let flag (i : Nat) : Prop := (f 46 1).testBit i = true
  let w := f 37 1 % 16
  let h := f 37 1 / 16
  let role (o : Nat) : Prop := f (o + 3) 1 = 0 ∧ (f o 1 = 0 ∨ legalAllotment (f (o + 1) 1) ∧ f (o + 2) 1 ≤ 3)
  [(0, f 0 8 % 4 = 0 ∧ f 0 8 < 2 ^ 56), (8, f 8 8 + 256 ≤ 2 ^ 56), (16, f 16 8 % 65536 = 0 ∧ f 16 8 < 2 ^ 56),
   (24, f 24 8 % 64 = 0 ∧ f 24 8 < 2 ^ 56), (32, 1 ≤ f 32 4 ∧ f 32 4 ≤ 2 ^ 24), (36, 1 ≤ f 36 1 ∧ f 36 1 ≤ 48),
   (37, 1 ≤ w ∧ w ≤ 8 ∧ 1 ≤ h ∧ h ≤ 5 ∧ w * h ≤ 12 ∧ f 36 1 % (w * h) = 0), (38, 1 ≤ f 38 1 ∧ f 38 1 ≤ 32),
   (39, f 38 1 + f 39 1 ≤ 32), (40, flag 3 ∨ legalAllotment (f 40 1)), (42, f 42 1 ≤ 8), (43, f 43 1 ≤ 32), (44, f 44 2 ≤ 256),
   (46, ¬ flag 7), (47, f 47 1 = 0),
   (48, role 48 ∧ role 52 ∧ role 56 ∧ (flag 3 → f 48 1 + f 52 1 + f 56 1 = f 38 1)), (60, ∀ i, i < 8 → f (60 + i) 1 ≤ 16),
   (70, flag 6 → 1 ≤ f 70 2 ∧ f 70 2 ≤ 256), (76, flag 6 → f 76 8 % 4096 = 0 ∧ f 76 8 < 2 ^ 56),
   (84, flag 6 → f 70 2 ≤ f 84 4 ∧ ∃ k < 32, f 84 4 = 2 ^ k), (96, fieldAt r 96 160 = 0)]

/-- R373: what a team takes of each resource, what a core holds of it, and the field that a record which overflows it names. -/
def recordResources (r : List Byte) : List (Nat × Nat × Nat) :=
  let f := fieldAt r
  let roles := (f 46 1).testBit 3
  let regs := if roles then f 48 1 * f 49 1 + f 52 1 * f 53 1 + f 56 1 * f 57 1 else f 38 1 * f 40 1
  [(f 38 1 + f 39 1, 32, 38), (32 * regs, 131072, if roles then 48 else 40), (f 41 1, 256, 41), (f 42 1, 8, 42), (f 44 2, 256, 44),
   (f 43 1, 32, 43)]

/-- R372 and R373: a record is refused with the first field that breaks a limit; one that breaks none with NCL where it has too many
teams or its return stacks leave the global window, then with the first resource that its teams on one core overflow. Any
other is taken. -/
def RecordsRefused : Prop :=
  ∀ r : List Byte, r.length = 256 →
    let f := fieldAt r
    let teams := f 32 4 * f 36 1
    let far := 2 ^ 22 < teams ∨ 2 ^ 56 < f 16 8 + teams * 0x2000_0000
    let per := f 36 1 / (f 37 1 % 16 * (f 37 1 / 16))
    (∀ pre o p post, recordLimits r = pre ++ (o, p) :: post → (∀ x ∈ pre, x.2) → ¬ p → recBad r = some o)
    ∧ ((∀ x ∈ recordLimits r, x.2) →
      (far → recBad r = some 32)
      ∧ (¬ far → ∀ pre n has o post, recordResources r = pre ++ (n, has, o) :: post → (∀ x ∈ pre, x.1 * per ≤ x.2.1) →
        has < n * per → recBad r = some o)
      ∧ (¬ far → (∀ x ∈ recordResources r, x.1 * per ≤ x.2.1) → recBad r = none))

/-- R20, R115, R158, R172, R287, R374, R378 and R426: a team as it is placed: its ordinal, its parameters in c0 to c31, for a node's
team the address and the count of its batch in c32 and c33, its groups in
free slots (the lowest: log entry 56, the model's choice), 32 threads to a group, each at ENTRY with every register at its reset
value. -/
def TeamPlaced : Prop :=
  ∀ (s : State) (id : Nat) (l : Launch) (core index rank ordinal scr marg : Nat),
    let t := placeTeam s id l core index rank ordinal scr marg
    let u := s.uid
    let gs := teamGroups l.record (freeSlots (takeOpen (joinCore s core l.ctx) id core l.ctx (recNeeds l.record)) core l.ctx)
    (t.team u).groups = gs ∧ (t.team u).ordinal = l.first + ordinal ∧ (t.team u).cluster = l.next
      ∧ (t.team u).index = index ∧ (t.team u).rank = rank ∧ (t.team u).core = core ∧ (t.team u).gtcmp = BitVec.allOnes 64
      ∧ (t.team u).scrSize = fieldAt l.record 41 1 * 4096 ∧ (t.team u).q = [] ∧ t.uid = u + 1
      ∧ (∀ n, n < 64 → (t.team u).getC n
        = if n < 32 then BitVec.ofNat 64 (fieldAt l.params (8 * n) 8)
          else if l.node = none ∨ 34 ≤ n then 0
          else BitVec.ofNat 64 (if n = 32 then l.batch.1 else l.batch.2))
      ∧ ∀ (i : Nat) (g : Group) (lane : Nat), gs[i]? = some g → lane < 32 →
        ∃ tag, t.thread? (threadKey u (32 * i + lane)) = some { Thread.reset with
          ctx := l.ctx, core := core, team := u, tid := 32 * i + lane, slot := g.slot, pos := lane, tag := tag
          pc := BitVec.ofNat 64 (fieldAt l.record 0 8) }

/-- R374 to R376: the launch whose turn it is has its next cluster placed whole on the rectangle, where it fits. A gang that
has waited GANGAGE cycles becomes aged: on each core of its rectangle it takes hold of what is open, up to its need, and what the
other gangs hold there stays theirs (log entry 23). R378: one team of a node is launched with the records that wait, up to COAL and to
the ring's end, once COAL wait or the oldest has waited CTMO. R379 and R407: with every team exited and their stores
performed, a launch is complete: its colophon is written and its event record queued. -/
def Placement : Prop :=
  ∀ (s : State) (id : Nat) (l : Launch), s.launch id = some l →
    (∀ die row col, nextPlaced s = some id → recFlag l.record 0 = false → rectFits s id l (die, row, col) = true →
      ∃ t, exec (.teamPlacement id die row col) s = .next t ∧ t.rrq = l.ctx * 32 + l.queue
        ∧ (∃ hs, t.launch id = some { l with
          next := l.next + 1, placed := l.placed + recTpc l.record, start := some (l.start.getD s.now), holds := hs })
        ∧ ∀ i c k, (rectangle l.record (die, row, col))[i]? = some c → k < recPer l.record →
          let tm := t.team (s.uid + i * recPer l.record + k)
          tm.core = c ∧ tm.launch = id ∧ tm.cluster = l.next ∧ tm.index = i ∧ tm.rank = k
            ∧ tm.ordinal = l.first + (l.next * recTpc l.record + i * recPer l.record + k))
    ∧ (gangDue s l = true → ∃ t, exec (.gangAged id) s = .next t
      ∧ ∀ n l', s.launch n = some l' → ∃ hs,
        t.launch n = some { l' with holds := hs, aged := if n = id then true else l'.aged }
        ∧ ∀ a ∈ l.rects, ∀ core ∈ rectangle l.record a, ∀ r, r < 6 → (n, l') ∈ coreGangs s core l.ctx r →
          let held := heldBy s n core l.ctx r
          Tbl.get? hs (core * 8 + r) = some (if n = id then
              held + min (coreFree s core l.ctx r - totalOf (reserved s core l.ctx r)) (l.needOf core r - held)
            else held))
    ∧ (∀ w, l.done = false → recNcl l.record ≤ l.next → recTeams l.record ≤ l.exits →
      let colo := fieldAt l.record 24 8
      (if colo = 0 then w = s else devHeld s l.ctx [(colo + 48, 16)] = (false, w)) →
      let cores := ((w.teams.filter (fun p => p.2.launch == id)).map (fun p => p.2.core)).dedup
      let u := (cores.foldl (fun (u : State) c => waitRelease u c 3) w).setLaunch id { l with done := true }
      let v := if colo = 0 then u else devWrite u l.ctx (colo + 48)
        (natToBytes 8 (u.cycle.toNat - l.start.getD u.cycle.toNat) ++ natToBytes 8 l.leave)
      exec (.launchComplete id) s = .next (if recFlag l.record 2 then v.updCtx l.ctx (fun c => { c with
        events := c.events ++ [⟨launchHandle (v.ctx l.ctx).ctxid 0 l.queue (l.index + 1), 2, 0, recTeams l.record, none⟩] })
        else v))

/-- R378: one team of a node, with its batch. -/
def NodesLaunch : Prop :=
  ∀ (s : State) (ctx node : Nat) (x : Node), Tbl.get? (s.ctx ctx).nodes node = some x →
    let f := fieldAt x.record
    let coal := f 70 2
    let cap := f 84 4
    let n := min (min coal x.waiting.length) (cap - x.head % cap)
    let launched (t : State) : Prop :=
      (∃ l, t.launch s.uid = some l ∧ l.ctx = ctx ∧ l.params = x.params ∧ l.node = some node
        ∧ l.batch = (f 76 8 + x.head % cap * 32, n) ∧ fieldAt l.record 32 4 = 1 ∧ fieldAt l.record 36 1 = 1)
      ∧ Tbl.get? (t.ctx ctx).nodes node = some { x with
        waiting := x.waiting.drop n, busy := x.busy ++ (List.range n).map (fun i => (x.head + i) % cap), head := x.head + n
        teams := x.teams + 1 }
    x.record.length = 256 →
    (coal ≤ x.waiting.length → ∃ t, exec (.nodeLaunch ctx node) s = .next t ∧ launched t)
    ∧ (∀ w rest, f 72 4 ≠ 0 → x.waiting = w :: rest → x.waiting.length < coal → w + f 72 4 ≤ s.now →
      ∃ t, exec (.coalesceTimeout ctx node) s = .next t ∧ launched t)

end Sys2Proof

/-- R346, R370 to R379, R407 and R419: what the sequencers and the event queues do. -/
def Obligations.LaunchEvents : Prop := EventsPost ∧ RecordsFetched ∧ RecordsRefused ∧ TeamPlaced ∧ Placement ∧ NodesLaunch

/-! ### Slices, swaps, spills, samples (R146, R151, R321, R338, R368, R377, R381, R389 to R391, R406) -/

namespace Sys2Proof

/-- A thread, on whichever core, that waits for a block of a core (R390). -/
def AwaitsBlock (core block : Nat) (th : Thread) (b : Blocked) : Prop :=
  th.status = .blocked b ∧ b.why = .restore core block

/-- R146, R151, R321, R368, R377, R389, R390 and R397: the slice of the active context runs out; with no matrix sum open, no
Ligature command running and no debug halt at a boundary there, a swap exchanges the banks in 96 cycles. The incoming context's
blocks are then to be restored, but for those that it never lost, and the outgoing one's to be spilled, but for those that it
never had back. The incoming context knows no round, and its lanes that stall at one judge their minimum again; a thread of
another core that waits for a block here looks for it again. Where the blocks stand is the model's choice (log entry 22). -/
def ContextsSwap : Prop :=
  ∀ (s : State) (core : Nat),
    let c := s.core core
    (sliceDue s core = true → exec (.sliceExpiry core) s = .next (s.setCore core { c with expired := true }))
    ∧ ∀ a b, swapDue s core = true → c.active = some a → c.shadow = some b →
      let halt := haltFirst s (s.threads.filter (fun p => p.2.core == core && p.2.ctx == a))
      let elsewhere (th : Thread) : Prop := ∃ bl n, th.status = .blocked bl ∧ bl.why = .restore core n ∧ th.core ≠ core
      (mxOpen s core a = none → halt = none → ligBusy s core a = false → ∃ t, exec (.contextSwap core) s = .next t
        ∧ t.core core = { c with
          active := some b, shadow := some a, slice := 0, expired := false, swapping := 96
          unrestored := (contextBlocks s core b).filter (fun x => !(c.unspilled.contains x))
          unspilled := (contextBlocks s core a).filter (fun x => !(c.unrestored.contains x))
          observed := c.observed.filter (fun p => p.1 / 1024 != b) }
        ∧ t.scratch = s.scratch ∧ t.acc = s.acc ∧ t.phys = s.phys ∧ t.well = s.well ∧ t.teams = s.teams
        ∧ (∀ k th bl rgn n lim, s.thread? k = some th → th.status = .blocked bl → bl.why = .round rgn n lim → th.core = core →
          th.ctx = b → t.thread? k = some { th with status := .waking bl })
        ∧ (∀ k th bl, s.thread? k = some th → elsewhere th → th.status = .blocked bl →
          t.thread? k = some { th with status := .waking bl })
        ∧ ∀ k th, s.thread? k = some th → th.core ≠ core ∨ th.ctx ≠ b → ¬ elsewhere th → t.thread? k = some th)
      ∧ (∀ u, halt = some u → exec (.contextSwap core) s = .next u)
      ∧ (halt = none → ligBusy s core a = true → exec (.contextSwap core) s = .next s)
      ∧ (∀ m, halt = none → ligBusy s core a = false → mxOpen s core a = some m → m.stop = none →
        exec (.contextSwap core) s = .next (setCmd s { m with stop := some false }))

/-- R59, R146, R338, R381, R390 and R391: a block whose turn it is, the one demanded first or else the lowest, whose outgoing copy
needs no write, or whose write is made, is in place, and what waits for it goes on; a scratchpad block then has its context for
its last owner (log entry 59, the model's reading). No other block is restored. A write that meets a fault offered to host waits for it, and restores nothing. The shadow context leaves
a core that a third one needs once its registers are written, and a context with teams there takes the free bank, where it
fits; it knows no round there. Where a block or the registers go in the spill area, and how many bytes they take, is the model's
choice (log entry 22). -/
def BlocksSpill : Prop :=
  ∀ (s : State) (core : Nat),
    let c := s.core core
    (∀ block, block ∈ c.unrestored → c.spillWait = none → c.swapping = 0 →
      let wanted := c.demands.find? (fun d => c.active == some d.1 && c.unrestored.contains d.2)
      let turn : Prop := (∃ d, wanted = some d ∧ d.2 = block) ∨ (wanted = none ∧ ∀ n ∈ c.unrestored, block ≤ n)
      (¬ turn → exec (.spillRestore core block) s = .next s)
      ∧ (∀ x, turn → (if c.unspilled.contains block then spillBlock s core block else (true, s)) = (true, x) →
        ∃ t, exec (.spillRestore core block) s = .next t
        ∧ block ∉ (t.core core).unrestored ∧ block ∉ (t.core core).unspilled
        ∧ (∀ a, c.active = some a → block < 256 → Tbl.get? (t.core core).owner block = some (s.cid a + 1))
        ∧ ∀ k th b, x.thread? k = some th → AwaitsBlock core block th b → t.thread? k = some { th with status := .waking b })
      ∧ ∀ out va kind bits x, turn → block ∈ c.unspilled → c.shadow = some out → (s.ctx out).stopped = false →
        devRange s out true (spillVa s core out block) 4096 = (.error (.page kind bits, va), x) → kind < 8 →
        ∃ t key, exec (.spillRestore core block) s = .next t ∧ (t.core core).spillWait = some key
        ∧ block ∈ (t.core core).unrestored ∧ block ∈ (t.core core).unspilled
        ∧ ∃ f ∈ (t.ctx out).faults, f.key = key)
    ∧ (∀ ctx x, c.shadow = some ctx → c.swapping = 0 → c.unrestored = [] → c.unspilled = [] → c.spillWait = none →
      thirdNeeds s core = true →
      spillWrite s core ctx (registerVa s core ctx)
        (128 * (s.threads.filter (fun p => p.2.core == core && p.2.ctx == ctx && p.2.live)).length) = (true, x) →
      ∃ t, exec (.shadowEvict core) s = .next t ∧ (t.core core).shadow = none ∧ (t.core core).active = c.active
      ∧ t.threads = s.threads ∧ ∀ p ∈ (t.core core).observed, p.1 / 1024 ≠ ctx)
    ∧ (∀ ctx, c.shadow = none → c.active ≠ some ctx → coreTeams s core ctx ≠ [] →
      (∀ r ∈ (coreUsed s core ctx).zip [32, 131072, 256, 8, 256, 32], r.1 ≤ r.2) →
      ∃ t, exec (.contextBecomesResident core ctx) s = .next t ∧ (t.core core).shadow = some ctx
        ∧ (t.core core).active = c.active ∧ t.threads = s.threads ∧ ∀ p ∈ (t.core core).observed, p.1 / 1024 ≠ ctx)

/-- R338 and R406: a core writes its sample and TAIL, or counts it as dropped where the buffer is full. A sample that would
meet a page which a snap has still to copy waits for that. The reason byte is `groupReason`, as log entry 26 reads the spec. -/
def SamplesWritten : Prop :=
  ∀ (s : State) (core ctx g : Nat) (th : Thread) (h : List Byte) (u : State),
    let c := s.core core
    sampleDue s core = true → c.active = some ctx → sampleSlot s core ctx (Tbl.getD c.sampLast ctx 0) = some g →
    lowestThread (slotThreads s core ctx g) = some th →
    let base := ((s.ctx ctx).sampbuf.extractLsb' 12 44).toNat * 2 ^ 12
    let cap := 2 ^ (((s.ctx ctx).sampbuf.extractLsb' 0 4).toNat + 5)
    devRead s ctx base 24 = (.ok h, u) →
    let tail := fieldAt h 0 8
    let bytes := wordBytes 8 s.cycle ++ wordBytes 8 th.pc ++ natToBytes 4 (s.team th.team).ordinal ++ natToBytes 1 (core / 40)
      ++ natToBytes 1 (core % 40) ++ natToBytes 1 g ++ natToBytes 1 (groupReason s core th.ctx g th) ++ natToBytes 8 0
    let ws := if (tail + 2 ^ 64 - fieldAt h 8 8) % 2 ^ 64 < cap then
      [(base + 64 + tail % cap * 32, bytes), (base, natToBytes 8 ((tail + 1) % 2 ^ 64))]
      else [(base + 16, natToBytes 8 ((fieldAt h 16 8 + 1) % 2 ^ 64))]
    ∀ held x, devHeld u ctx (ws.map (fun p => (p.1, p.2.length))) = (held, x) →
    exec (.sampleRecord core) s = .next (if held then x
      else ws.foldl (fun (v : State) p => devWrite v ctx p.1 p.2)
        (x.updCore core (fun c => { c with
          sampCount := Tbl.set c.sampCount ctx 0, sampLast := Tbl.set c.sampLast ctx (g + 1) })))

end Sys2Proof

/-- R146, R151, R321, R338, R368, R377, R381, R389 to R391 and R406: contexts take turns on a core, their blocks are spilled
and restored, and a core writes its samples. -/
def Obligations.Residency : Prop := ContextsSwap ∧ BlocksSpill ∧ SamplesWritten

/-! ### Host, peers, links, reset (R12, R370, R377, R380, R411, R413 to R415, R417 to R427) -/

namespace Sys2Proof

/-- R411 to R415, R419, R426 and R427: host and peers reach memory at its home, and host the Well through the aperture. A link
that goes down takes its routes with it: stores on their way there are dropped, no request for their lines is left, and the
module queues an event. A module reset leaves every register at its reset value, and keeps what log entry 25 names. Bring-up
sets its steps, up to one that fails, and trains the host's ports with its step 6; host acts only then, and a peer after the
last step (log entry 55). Writes of the window's registers store their fields. The peer numbers of 256 and more and the offset of
LEAVECFG are log entry 25's, and the nodes that a new CTXID drops and the head-sets that it keeps log entry 43's. -/
def HostTouches : Prop :=
  ∀ (s : State),
    (∀ pa n, hostCan s = true → 0 < n → hostReaches pa n = true → exec (.hostMemRead pa n) s = .next { s with
      hostReads := s.hostReads ++ [(.mem pa, Memory.readN s.phys pa n)] })
    ∧ (∀ pa bs, hostCan s = true → bs ≠ [] → hostReaches pa bs.length = true → s.phys.wf = true →
      ∃ t, exec (.hostMemWrite pa bs) s = .next t
        ∧ (∀ a, Memory.read t.phys a = if pa ≤ a ∧ a < pa + bs.length then (bs[a - pa]?).getD 0 else Memory.read s.phys a)
        ∧ t.threads = s.threads ∧ t.well = s.well ∧ t.cores = s.cores ∧ t.ctxs = s.ctxs)
    ∧ (∀ off (v : Word),
      let die := (s.winsel.extractLsb' 5 3).toNat
      let o := (s.winsel.extractLsb' 0 3).toNat * 0x100_0000 + off / 8 * 8 % 0x100_0000
      hostCan s = true → (∀ wr, headHeld s (wellKey die o) 8 noCmd = true → exec (.wellApertureAccess off wr v) s = .next s)
      ∧ (s.wellFrom = none → s.well.wf = true → o + 8 ≤ s.wellCur * 2 ^ 23 → headHeld s (wellKey die o) 8 noCmd = false →
      (∃ t, exec (.wellApertureAccess off true v) s = .next t ∧ t.phys = s.phys
        ∧ ∀ a, Memory.read t.well a = if wellKey die o ≤ a ∧ a < wellKey die o + 8 then
          BitVec.ofNat 8 (v.toNat / 256 ^ (a - wellKey die o)) else Memory.read s.well a)
      ∧ exec (.wellApertureAccess off false v) s = .next { s with
        hostReads := s.hostReads ++ [(.window (0x300_0000 + off % 0x100_0000), Memory.readN s.well (wellKey die o) 8)] }))
    ∧ (∀ peer pa (v : Word),
      (peer < 256 → ∀ wr, exec (.peerRequest peer pa wr v) s = .next s)
      ∧ (256 ≤ peer → peerCan s = true → pa / 8 * 8 < 0x600_0000_0000 → s.phys.wf = true →
        (exec (.peerRequest peer pa false v) s = .next { s with
          hostReads := s.hostReads ++ [(.peer (pa / 8 * 8), Memory.readN s.phys (pa / 8 * 8) 8)] })
        ∧ ∃ t, exec (.peerRequest peer pa true v) s = .next t ∧ ∀ a, Memory.read t.phys a =
          if pa / 8 * 8 ≤ a ∧ a < pa / 8 * 8 + 8 then BitVec.ofNat 8 (v.toNat / 256 ^ (a - pa / 8 * 8))
          else Memory.read s.phys a))
    ∧ (∀ link, ∃ t, exec (.linkDown link) s = .next t ∧ t.mevents = s.mevents ++ [⟨0, 4, 1, 0, none⟩]
        ∧ t.routesDown = s.routesDown ++ routesOf s link ∧ t.phys = s.phys
        ∧ (∀ f, f ∈ t.flights ↔ f ∈ s.flights ∧ lineOfPeer (routesOf s link) f.pline = false)
        ∧ ∀ k c, Tbl.get? t.cores k = some c → ∀ e ∈ c.coll, lineOfPeer (routesOf s link) e.pline = false)
    ∧ (∃ t, exec .moduleReset s = .next t ∧ t = { State.reset with
        phys := t.phys, inbox := s.inbox, hostReads := s.hostReads, msix := s.msix, uid := s.uid, free := s.free }
        ∧ ∀ p ∈ t.phys, p ∈ s.phys ∧ (homeOf p.1 = .host ∨ ∃ n, homeOf p.1 = .peer n))
    ∧ (∀ fail (code : BitVec 8), exec (.bringUp fail code) s = .next (if 1 ≤ fail ∧ fail ≤ 7 then
        { s with steps := BitVec.ofNat 7 (2 ^ (fail - 1) - 1), failCode := code, ports := if fail = 7 then [0, 1] else [] }
      else { s with steps := 127, failCode := 0, ports := [0, 1] }))
    ∧ ∀ (v : Word) (ctx die peer q : Nat), hostCan s = true → ctx < 16 → die < 8 → peer < 256 → q < 32 →
      let blk := 0x10_0000 * (ctx + 1)
      exec (.registerWrite 0x10 v) s = .next { s with gangage := v.setWidth 32 |>.setWidth 64 }
      ∧ exec (.registerWrite 0x08 v) s = .next { s with winsel := v &&& 0xE7#64 }
      ∧ exec (.registerWrite (0x1000 + 8 * peer) v) s = .next { s with
        peerrt := Tbl.put 0 s.peerrt peer (v.setWidth 5), routesDown := s.routesDown.filter (fun p => p != peer) }
      ∧ exec (.registerWrite (0x200_0000 + 0x10_0000 * die) v) s = .next (s.updDie die (fun d => { d with
        gmax := max 1 (min (v.extractLsb' 0 6).toNat 40) }))
      ∧ exec (.registerWrite (blk + 0x2000) v) s = .next (s.updCtx ctx (fun c => { c with slice := v }))
      ∧ exec (.registerWrite (blk + 0x2008) v) s = .next (s.updCtx ctx (fun c => { c with bgshare := v.setWidth 4 |>.setWidth 64 }))
      ∧ exec (.registerWrite (blk + 0x1000 + 32 * q + 8) v) s = exec (.lqtailWrite ctx q v) s
      ∧ exec (.registerWrite (blk + 0x2018) v) s = exec (.shootdown ctx v) s
      ∧ exec (.registerWrite (blk + 0x2028) v) s = exec (.ckreq ctx v) s
      ∧ (slotInUse s ctx = false → (v.extractLsb' 0 16).toNat = (s.ctx ctx).ctxid → exec (.registerWrite blk v) s = .next s)
      ∧ (slotInUse s ctx = false → (v.extractLsb' 0 16).toNat ≠ (s.ctx ctx).ctxid → ∃ t, exec (.registerWrite blk v) s = .next t
        ∧ t.ctx ctx = { s.ctx ctx with ctxid := (v.extractLsb' 0 16).toNat, nodes := [] }
        ∧ t.phys = s.phys ∧ t.well = s.well ∧ t.threads = s.threads ∧ t.teams = s.teams)
      ∧ (slotInUse s ctx = true → exec (.registerWrite blk v) s = .next s)
      ∧ ∀ id f, openFaultOf s ctx id = some f → id < 2 ^ 32 →
        exec (.registerWrite (blk + 0x2048) (BitVec.ofNat 64 (2 ^ 63 + id))) s = exec (.frespResolve ctx id) s
        ∧ exec (.registerWrite (blk + 0x2048) (BitVec.ofNat 64 (2 ^ 63 + 2 ^ 32 + id))) s = exec (.frespRefuse ctx id) s

/-- R12, R14, R82, R107, R145, R404, R408 and R417: a read from outside shows the word of its register, and changes nothing of
the machine: a register of a running thread or of its team through the gloss port, with what stands pending in the thread, its
ticket and how long it has waited; the collectives under way; and, for host, a register of the window, of
which a WO field, a reserved one and an offset that no block names read zero; the integrity counts, class counters and observed
rounds; a team's scratchpad, accumulator elements and margin bytes, and a context's projection and the statistics of a head-set. Reads by name and the words they
show are log entry 41's, and the unit numbers of the counts log entry 24's. -/
def HostReadsBack : Prop :=
  ∀ (s : State) (r : HostRead) (rest : List Move), s.stop = none → s.inbox = .read r :: rest →
    let host : Prop := hostCan s = true
    let shows (w : Word) : Prop := step s = .next { s with inbox := rest, hostReads := s.hostReads ++ [(r, wordBytes 8 w)] }
    let th (team tid : Nat) := s.thread (threadKey team tid)
    (∀ team tid n, (r = .gloss team tid (.v n) → shows ((th team tid).getV n))
      ∧ (r = .gloss team tid (.m n) → shows (((th team tid).getM n).setWidth 64))
      ∧ (r = .gloss team tid (.h n) → shows ((th team tid).getH n)) ∧ (r = .gloss team tid (.k n) → shows ((th team tid).getK n))
      ∧ (r = .gloss team tid (.c n) → shows ((s.team team).getC n)) ∧ (r = .gloss team tid (.q n) → shows ((s.team team).getQ n))
      ∧ (r = .gloss team tid .pc → shows (th team tid).pc) ∧ (r = .gloss team tid .gtime → shows (s.team team).gtime)
      ∧ (r = .gloss team tid .age → shows (BitVec.ofNat 64 (th team tid).age))
      ∧ (r = .gloss team tid .appendOrd → shows (BitVec.ofNat 64 (th team tid).appendOrd))
      ∧ (r = .gloss team tid .handler → shows (if (th team tid).handler then 1 else 0))
      ∧ (r = .gloss team tid .pends → shows (BitVec.ofNat 64 ((if (th team tid).timerPend.isSome then 1 else 0)
        + (if (th team tid).ckptPend.isSome then 2 else 0) + (if (th team tid).watchdog then 4 else 0)
        + (if (th team tid).trap.isSome then 8 else 0))))
      ∧ (∀ b j tk blk va, (th team tid).status = .blocked b → b.why = .inkTicket j tk blk va →
        (r = .gloss team tid .ticket → shows (BitVec.ofNat 64 (2 ^ 63 + tk)))
        ∧ (r = .gloss team tid .waited → shows (BitVec.ofNat 64 b.waited)))
      ∧ ∀ q, host → (s.team team).rendezvous[n]? = some q →
        (r = .rendezvous team n false → shows (BitVec.ofNat 64 (2 ^ 63 + q.group * 2 ^ 32 + q.csn.toNat)))
        ∧ (r = .rendezvous team n true → shows (BitVec.ofNat 64 (q.mask.toNat * 2 ^ 32
          + (q.arrived.map (fun tid => 2 ^ (tid % 32))).sum))))
    ∧ (host → r = .window 0x08 → shows s.winsel) ∧ (host → r = .window 0x10 → shows s.gangage)
    ∧ (∀ ctx die q o, host → ctx < 16 → die < 8 → q < 32 →
      let blk := 0x10_0000 * (ctx + 1)
      (r = .window blk → shows (BitVec.ofNat 64 (s.ctx ctx).ctxid)) ∧ (r = .window (blk + 8) → shows (s.ctx ctx).root)
      ∧ (r = .window (blk + 0x2000) → shows (s.ctx ctx).slice) ∧ (r = .window (blk + 0x2038) → shows (s.ctx ctx).fqtail)
      ∧ (r = .window (blk + 0x1000 + 32 * q + 16) → shows (lqReg (s.ctx ctx) q 2))
      ∧ (r = .window (blk + 0x2048) → shows 0)
      ∧ (r = .window (blk + 0x8000) → shows (((s.ctx ctx).dbgctl &&& 0x88#64)
        ||| (if s.teams.any (fun p => p.2.ctx == ctx && !p.2.exited && p.2.halted) then 0x10#64 else 0)))
      ∧ (o % 8 ≠ 0 → r = .window o → shows 0) ∧ (0x110_0000 ≤ o → o < 0x200_0000 → r = .window o → shows 0)
      ∧ (r = .window (0x200_0000 + 0x10_0000 * die) → shows (BitVec.ofNat 64 (s.die die).gmax)))
    ∧ (∀ die unit p, host → r = .errors die unit p →
      shows (BitVec.ofNat 64 (Tbl.getD (s.die die).errors (unit * 2 + (if p then 1 else 0)) 0)))
    ∧ (∀ team off, host → off % 8 = 0 →
      (off + 8 ≤ (s.team team).scrSize → r = .scratch team off → shows (bytesWord (Memory.readN s.scratch
        (scratchKey (s.cid (s.team team).ctx) (s.team team).core ((s.team team).scrBase + off)) 8)))
      ∧ (off + 8 ≤ (s.team team).margBytes → r = .margin team off →
        shows (bytesWord (Memory.readN s.margin (marginKey team off) 8)))
      ∧ ∀ ctx, r = .proj ctx off → shows (bytesWord (Memory.readN (s.ctx ctx).proj off 8)))
    ∧ (∀ ctx set n, host → r = .headStat ctx set n → shows (Tbl.getD (headSet s ctx set).stats n 0))
    ∧ (∀ team tile n, host → tile < (s.team team).tiles → n < 2 ^ 14 → r = .acc team tile n →
      shows ((accGet s (accKey team tile 0 n)).setWidth 64))
    ∧ (∀ team slot cls, host → r = .counter team slot cls → shows (BitVec.ofNat 64 (Tbl.getD (s.team team).counters (slot * 4 + cls) 0)))
    ∧ ∀ core ctx rgn, host → (r = .round core ctx rgn → shows ((observed s core ctx rgn).getD 0))
      ∧ (r = .known core ctx rgn → shows (if (observed s core ctx rgn).isSome then 1 else 0))

end Sys2Proof

/-- R12, R14, R404, R408, R411 to R415, R417, R419, R426 and R427: what host and peers do to the machine, and what they read. -/
def Obligations.HostAccess : Prop := HostTouches ∧ HostReadsBack

/-! ### Steps and encodings (R161, R162, R176 to R181, R202) -/

namespace Sys2Proof

/-- The slot of nib `nib` of a core is what the machine does next, in the state `v`: a move from outside names it, or no
wait ends, nothing of the machine's own is due, and it is the next nib with an eligible thread (log entry 1). -/
def SlotNext (s : State) (core nib : Nat) (v : State) : Prop :=
  s.stop = none ∧
  ((∃ rest, s.inbox = .slot core nib :: rest ∧ s.cursor ≤ core * 8 + nib ∧ core * 8 + nib ∉ s.taken ∧ nib < 8
      ∧ v = { s with inbox := rest })
    ∨ (s.inbox = [] ∧ wakeStep s = none ∧ firstChange s (dueEvents s) = none
      ∧ s.cores.findSome? (fun p => engineStep s p.2) = none ∧ homeOver s = none ∧ nextNib s = some (core * 8 + nib) ∧ nib < 8
      ∧ v = { s with cursor := core * 8 + nib }))

/-- Word number `i` from the PC of a bundle, as memory holds it at a translation of its page (R10, R176). -/
def codeWord (v : State) (pg : TlbEntry) (bd : Bundle) (i : Nat) : W32 :=
  let b (k : Nat) : Byte := Memory.read v.phys (pg.pa bd.pc.toNat + 4 * i + k)
  b 3 ++ b 2 ++ b 1 ++ b 0

end Sys2Proof

/-- R161, R162, R176 and R181: a step in which a slot issues a class runs the instruction that stands at the class's PC: its
threads' ages are 0 and the slot is used (`startBundle`), the step over a breakpoint is spent (`endStepOver`), and `exec`
does the rest. The instruction is the one that the words in memory at the PC decode to, through an executable page that the
core's TLB holds. -/
def Obligations.StepRunsDecoded : Prop :=
  ∀ (s v : State) (core nib : Nat) (c : Choice) (i : Instr), SlotNext s core nib v → overdue v core nib = [] →
    breakChoice v core nib = none → pick v core nib = some c →
    let p := startBundle v core nib c
    (∀ u, fetchInstr p.2 p.1 = (.instr i, u) → step s = exec i (endStepOver { u with bundle := some p.1 } p.1))
    ∧ (∀ pg rest, window p.1.pc = .glob → p.1.pc.toNat % 2 ^ 16 + 12 ≤ 2 ^ 16 → 16 ≤ pg.bits → p.1.pc.toNat % 4 = 0 →
      (∀ k, k < 3 → (p.2.core core).tlb.find? (fun t => t.covers (p.2.cid c.ctx) (p.1.pc.toNat + 4 * k)) = some pg) →
      pg.reached p.2 = .ok pg →
      leafX pg.leaf = true →
      decodeWords [codeWord p.2 pg p.1 0, codeWord p.2 pg p.1 1, codeWord p.2 pg p.1 2] = .ok (i, rest) →
      step s = exec i (endStepOver { p.2 with bundle := some p.1 } p.1))

/-- R177 to R181, R191, R198, R199 and R202: the words that the spec writes out (add.n32 v3, v1, #5; ld.n32.acq.cluster v7, [v2]
!; add.f32 v10, v10, #1.5; pre.z m2; br.t m1; call) decode to the instructions they stand for; a word of all zeros or of all
ones to none (R178). -/
def Obligations.DecodeWords : Prop :=
  decodeWords [0x108181C5#32] = .ok (.add false .w32 3#7 1#7 (.imm 5#5), [])
    ∧ decodeWords [0xD0838250#32] = .ok (.ld true .n32 7#7 2#7 1#2 2#3 0#3, [])
    ∧ decodeWords [0x38050AE0#32, 0x3FC00000#32] = .ok (.addF false .f32 10#7 10#7 (.lit32 0x3FC00000#32), [])
    ∧ decodeWords [0x7C140000#32] = .ok (.pre false 2#3 true 0#3 false 0#8, [])
    ∧ decodeWords [0x027FFFFC#32] = .ok (.br false 1#3 true (-4 : BitVec 21), [])
    ∧ decodeWords [0x08000005#32] = .ok (.call false 5#25, [])
    ∧ (∀ ws, decodeWords (0#32 :: ws) = .error .unassignedOp)
    ∧ (∀ ws, decodeWords (0xFFFFFFFF#32 :: ws) = .error .unassignedOp)

/-- R176, R181 and R202: the words of every instruction that has them decode to it, and the words after them are left. -/
def Obligations.DecodeEncode : Prop :=
  ∀ (i : Instr) (ws : List W32), Encodable i → decodeWords (encode i ++ ws) = .ok (i, ws)

/-- Every step keeps the canonical form of every memory (log entry 3): addresses rise, and no byte is listed that reads as an
unlisted one. -/
def Obligations.MemoriesStayCanonical : Prop :=
  ∀ s t : State, s.MemWf → step s = .next t → t.MemWf

/-- Log entry 3: the memories of the module right after reset are in their canonical form. -/
def Obligations.ResetCanonical : Prop := State.reset.MemWf
end

