-- ==== Sys2Proof/Laws/Tables.lean ====
section
/-! SUPPORT. Tables and memories: a read after a write, and the canonical form. -/

namespace Sys2Proof.Machine

/-! ### Tables -/

theorem Tbl.get?_set_self {α : Type} (t : Tbl α) (n : Nat) (a : α) : Tbl.get? (Tbl.set t n a) n = some a := by
  induction t with
  | nil => simp [Tbl.set, Tbl.get?]
  | cons p t ih =>
    obtain ⟨k, b⟩ := p
    simp only [Tbl.set]
    split
    · simp [Tbl.get?]
    · split
      · simp [Tbl.get?]
      · rw [Tbl.get?, if_neg (by omega)]; exact ih

theorem Tbl.get?_set_ne {α : Type} (t : Tbl α) (n k : Nat) (a : α) (h : k ≠ n) :
    Tbl.get? (Tbl.set t n a) k = Tbl.get? t k := by
  induction t with
  | nil => simp [Tbl.set, Tbl.get?, Ne.symm h]
  | cons p t ih =>
    obtain ⟨j, b⟩ := p
    simp only [Tbl.set]
    split
    · simp [Tbl.get?, Ne.symm h]
    · split
      · subst_vars; simp [Tbl.get?, Ne.symm h]
      · simp only [Tbl.get?, ih]

theorem Tbl.get?_erase_self {α : Type} (t : Tbl α) (n : Nat) : Tbl.get? (Tbl.erase t n) n = none := by
  induction t with
  | nil => rfl
  | cons p t ih =>
    obtain ⟨j, b⟩ := p
    simp only [Tbl.erase]
    split
    · exact ih
    · rw [Tbl.get?, if_neg ‹_›]; exact ih

theorem Tbl.get?_erase_ne {α : Type} (t : Tbl α) (n k : Nat) (h : k ≠ n) :
    Tbl.get? (Tbl.erase t n) k = Tbl.get? t k := by
  induction t with
  | nil => rfl
  | cons p t ih =>
    obtain ⟨j, b⟩ := p
    simp only [Tbl.erase]
    split
    · subst_vars; rw [ih, Tbl.get?, if_neg (Ne.symm h)]
    · simp only [Tbl.get?, ih]

/-- A read after a write of a table whose absent keys read as `d`. -/
theorem Tbl.getD_put {α : Type} [DecidableEq α] (d : α) (t : Tbl α) (n k : Nat) (a : α) :
    Tbl.getD (Tbl.put d t n a) k d = if k = n then a else Tbl.getD t k d := by
  simp only [Tbl.getD, Tbl.put]
  split
  · subst_vars
    by_cases h : k = n
    · subst h; rw [if_pos rfl, Tbl.get?_erase_self]; rfl
    · rw [if_neg h, Tbl.get?_erase_ne _ _ _ h]
  · by_cases h : k = n
    · subst h; rw [if_pos rfl, Tbl.get?_set_self]; rfl
    · rw [if_neg h, Tbl.get?_set_ne _ _ _ _ h]

theorem Tbl.mem_set {α : Type} {t : Tbl α} {n : Nat} {a : α} {p : Nat × α} (h : p ∈ Tbl.set t n a) :
    p = (n, a) ∨ p ∈ t := by
  induction t with
  | nil => simpa [Tbl.set] using h
  | cons q t ih =>
    obtain ⟨k, b⟩ := q
    simp only [Tbl.set] at h
    split at h
    · simpa using h
    · split at h
      · rcases List.mem_cons.1 h with h | h
        · exact .inl h
        · exact .inr (.tail _ h)
      · rcases List.mem_cons.1 h with h | h
        · exact .inr (h ▸ .head _)
        · rcases ih h with h | h
          · exact .inl h
          · exact .inr (.tail _ h)

theorem Tbl.getD_of_get? {α : Type} {t : Tbl α} {n : Nat} {a d : α} (h : Tbl.get? t n = some a) :
    Tbl.getD t n d = a := by simp [Tbl.getD, h]

theorem Tbl.get?_mem {α : Type} {t : Tbl α} {n : Nat} {a : α} (h : Tbl.get? t n = some a) : (n, a) ∈ t := by
  induction t with
  | nil => simp [Tbl.get?] at h
  | cons p t ih =>
    obtain ⟨k, b⟩ := p
    simp only [Tbl.get?] at h
    split at h
    · simp_all
    · exact .tail _ (ih h)

/-! ### Memories -/

theorem Memory.wfFrom_mono {m : Memory} {lo lo' : Nat} (h : lo' ≤ lo) (hm : Memory.wfFrom lo m = true) :
    Memory.wfFrom lo' m = true := by
  cases m with
  | nil => rfl
  | cons p m =>
    simp only [Memory.wfFrom, Bool.and_eq_true, decide_eq_true_eq] at hm ⊢
    exact ⟨⟨Nat.le_trans h hm.1.1, hm.1.2⟩, hm.2⟩

/-- An address below every listed one reads as unlisted. -/
theorem Memory.read_below {m : Memory} {lo a : Nat} (hm : Memory.wfFrom lo m = true) (h : a < lo) :
    Memory.read m a = Memory.unlisted := by
  induction m generalizing lo with
  | nil => rfl
  | cons p m ih =>
    obtain ⟨k, b⟩ := p
    simp only [Memory.wfFrom, Bool.and_eq_true, decide_eq_true_eq] at hm
    rw [Memory.read, if_neg (by omega)]
    exact ih hm.2 (by omega)

theorem Memory.wfFrom_drop {m : Memory} {lo : Nat} (a : Nat) (hm : Memory.wfFrom lo m = true) :
    Memory.wfFrom lo (Memory.drop m a) = true := by
  induction m generalizing lo with
  | nil => rfl
  | cons p m ih =>
    obtain ⟨k, b⟩ := p
    have hm' := hm
    simp only [Memory.wfFrom, Bool.and_eq_true, decide_eq_true_eq] at hm'
    simp only [Memory.drop]
    split
    · exact wfFrom_mono (by omega) hm'.2
    · simp only [Memory.wfFrom, Bool.and_eq_true, decide_eq_true_eq]
      exact ⟨hm'.1, ih hm'.2⟩

theorem Memory.wfFrom_insert {m : Memory} {lo a : Nat} {x : Byte} (hx : x ≠ Memory.unlisted) (ha : lo ≤ a)
    (hm : Memory.wfFrom lo m = true) : Memory.wfFrom lo (Memory.insert m a x) = true := by
  induction m generalizing lo with
  | nil => simp [Memory.insert, Memory.wfFrom, ha, hx]
  | cons p m ih =>
    obtain ⟨k, b⟩ := p
    have hm' := hm
    simp only [Memory.wfFrom, Bool.and_eq_true, decide_eq_true_eq] at hm'
    simp only [Memory.insert]
    split
    · simp only [Memory.wfFrom, Bool.and_eq_true, decide_eq_true_eq]
      exact ⟨⟨ha, hx⟩, ⟨by omega, hm'.1.2⟩, hm'.2⟩
    · split
      · subst_vars
        simp only [Memory.wfFrom, Bool.and_eq_true, decide_eq_true_eq]
        exact ⟨⟨ha, hx⟩, hm'.2⟩
      · simp only [Memory.wfFrom, Bool.and_eq_true, decide_eq_true_eq]
        exact ⟨hm'.1, ih (by omega) hm'.2⟩

/-- A write keeps the canonical form. -/
theorem Memory.wf_write {m : Memory} (a : Nat) (x : Byte) (hm : m.wf = true) : (m.write a x).wf = true := by
  unfold Memory.write
  split
  · exact wfFrom_drop a hm
  · exact wfFrom_insert ‹_› (Nat.zero_le _) hm

theorem Memory.wf_writeN {m : Memory} (a : Nat) (bs : List Byte) (hm : m.wf = true) : (m.writeN a bs).wf = true := by
  induction bs generalizing m a with
  | nil => exact hm
  | cons b bs ih => exact ih (a + 1) (wf_write a b hm)

theorem Memory.read_drop_ne (m : Memory) (a k : Nat) (h : k ≠ a) :
    Memory.read (Memory.drop m a) k = Memory.read m k := by
  induction m with
  | nil => rfl
  | cons p m ih =>
    obtain ⟨j, b⟩ := p
    simp only [Memory.drop]
    split
    · subst_vars; simp [Memory.read, Ne.symm h]
    · simp only [Memory.read, ih]

theorem Memory.read_drop_self {m : Memory} {lo : Nat} (a : Nat) (hm : Memory.wfFrom lo m = true) :
    Memory.read (Memory.drop m a) a = Memory.unlisted := by
  induction m generalizing lo with
  | nil => rfl
  | cons p m ih =>
    obtain ⟨j, b⟩ := p
    simp only [Memory.wfFrom, Bool.and_eq_true, decide_eq_true_eq] at hm
    simp only [Memory.drop]
    split
    · subst_vars; exact read_below hm.2 (by omega)
    · rw [Memory.read, if_neg ‹_›]; exact ih hm.2

theorem Memory.read_insert (m : Memory) (a k : Nat) (x : Byte) :
    Memory.read (Memory.insert m a x) k = if k = a then x else Memory.read m k := by
  induction m with
  | nil => simp only [Memory.insert, Memory.read, eq_comm]
  | cons p m ih =>
    obtain ⟨j, b⟩ := p
    by_cases h1 : k = a
    · subst h1
      simp only [Memory.insert]
      split
      · simp [Memory.read]
      · split
        · simp [Memory.read]
        · rw [Memory.read, if_neg (by omega), ih, if_pos rfl]; simp
    · rw [if_neg h1] at ih ⊢
      simp only [Memory.insert]
      split
      · rw [Memory.read, if_neg (Ne.symm h1)]
      · split
        · rw [Memory.read, Memory.read, if_neg (Ne.symm h1), if_neg (by omega)]
        · rw [Memory.read, Memory.read, ih]

/-- A read after a write: the byte written at its address, what stood there elsewhere. -/
theorem Memory.read_write {m : Memory} (a k : Nat) (x : Byte) (hm : m.wf = true) :
    Memory.read (m.write a x) k = if k = a then x else Memory.read m k := by
  unfold Memory.write
  split
  · subst_vars
    by_cases h : k = a
    · subst h; rw [if_pos rfl]; exact read_drop_self k hm
    · rw [if_neg h]; exact read_drop_ne m a k h
  · exact read_insert m a k x

end Sys2Proof.Machine
end

