-- ==== Sys2Proof/Laws/State.lean ====
section
/-! SUPPORT. One lemma per field of the state per update of one of its tables, each true by rfl, and what the accessors
read after an update. -/

namespace Sys2Proof.Machine

@[simp] theorem State.setCore_cycle (s : State) (c : Nat) (x : Core) : (s.setCore c x).cycle = s.cycle := rfl
@[simp] theorem State.setCore_wellStatus (s : State) (c : Nat) (x : Core) : (s.setCore c x).wellStatus = s.wellStatus := rfl
@[simp] theorem State.setCore_wellCur (s : State) (c : Nat) (x : Core) : (s.setCore c x).wellCur = s.wellCur := rfl
@[simp] theorem State.setCore_wellReq (s : State) (c : Nat) (x : Core) : (s.setCore c x).wellReq = s.wellReq := rfl
@[simp] theorem State.setCore_farReq (s : State) (c : Nat) (x : Core) : (s.setCore c x).farReq = s.farReq := rfl
@[simp] theorem State.setCore_farCur (s : State) (c : Nat) (x : Core) : (s.setCore c x).farCur = s.farCur := rfl
@[simp] theorem State.setCore_wellFrom (s : State) (c : Nat) (x : Core) : (s.setCore c x).wellFrom = s.wellFrom := rfl
@[simp] theorem State.setCore_failCode (s : State) (c : Nat) (x : Core) : (s.setCore c x).failCode = s.failCode := rfl
@[simp] theorem State.setCore_steps (s : State) (c : Nat) (x : Core) : (s.setCore c x).steps = s.steps := rfl
@[simp] theorem State.setCore_winsel (s : State) (c : Nat) (x : Core) : (s.setCore c x).winsel = s.winsel := rfl
@[simp] theorem State.setCore_gangage (s : State) (c : Nat) (x : Core) : (s.setCore c x).gangage = s.gangage := rfl
@[simp] theorem State.setCore_mevqbase (s : State) (c : Nat) (x : Core) : (s.setCore c x).mevqbase = s.mevqbase := rfl
@[simp] theorem State.setCore_mevents (s : State) (c : Nat) (x : Core) : (s.setCore c x).mevents = s.mevents := rfl
@[simp] theorem State.setCore_peerrt (s : State) (c : Nat) (x : Core) : (s.setCore c x).peerrt = s.peerrt := rfl
@[simp] theorem State.setCore_routesDown (s : State) (c : Nat) (x : Core) : (s.setCore c x).routesDown = s.routesDown := rfl
@[simp] theorem State.setCore_rrq (s : State) (c : Nat) (x : Core) : (s.setCore c x).rrq = s.rrq := rfl
@[simp] theorem State.setCore_phys (s : State) (c : Nat) (x : Core) : (s.setCore c x).phys = s.phys := rfl
@[simp] theorem State.setCore_well (s : State) (c : Nat) (x : Core) : (s.setCore c x).well = s.well := rfl
@[simp] theorem State.setCore_scratch (s : State) (c : Nat) (x : Core) : (s.setCore c x).scratch = s.scratch := rfl
@[simp] theorem State.setCore_tags (s : State) (c : Nat) (x : Core) : (s.setCore c x).tags = s.tags := rfl
@[simp] theorem State.setCore_poison (s : State) (c : Nat) (x : Core) : (s.setCore c x).poison = s.poison := rfl
@[simp] theorem State.setCore_flights (s : State) (c : Nat) (x : Core) : (s.setCore c x).flights = s.flights := rfl
@[simp] theorem State.setCore_voids (s : State) (c : Nat) (x : Core) : (s.setCore c x).voids = s.voids := rfl
@[simp] theorem State.setCore_ports (s : State) (c : Nat) (x : Core) : (s.setCore c x).ports = s.ports := rfl
@[simp] theorem State.setCore_msix (s : State) (c : Nat) (x : Core) : (s.setCore c x).msix = s.msix := rfl
@[simp] theorem State.setCore_hostReads (s : State) (c : Nat) (x : Core) : (s.setCore c x).hostReads = s.hostReads := rfl
@[simp] theorem State.setCore_cores (s : State) (c : Nat) (x : Core) : (s.setCore c x).cores = Tbl.set s.cores c x := rfl
@[simp] theorem State.setCore_diesT (s : State) (c : Nat) (x : Core) : (s.setCore c x).diesT = s.diesT := rfl
@[simp] theorem State.setCore_ctxs (s : State) (c : Nat) (x : Core) : (s.setCore c x).ctxs = s.ctxs := rfl
@[simp] theorem State.setCore_teams (s : State) (c : Nat) (x : Core) : (s.setCore c x).teams = s.teams := rfl
@[simp] theorem State.setCore_threads (s : State) (c : Nat) (x : Core) : (s.setCore c x).threads = s.threads := rfl
@[simp] theorem State.setCore_launches (s : State) (c : Nat) (x : Core) : (s.setCore c x).launches = s.launches := rfl
@[simp] theorem State.setCore_acc (s : State) (c : Nat) (x : Core) : (s.setCore c x).acc = s.acc := rfl
@[simp] theorem State.setCore_margin (s : State) (c : Nat) (x : Core) : (s.setCore c x).margin = s.margin := rfl
@[simp] theorem State.setCore_palette (s : State) (c : Nat) (x : Core) : (s.setCore c x).palette = s.palette := rfl
@[simp] theorem State.setCore_late (s : State) (c : Nat) (x : Core) : (s.setCore c x).late = s.late := rfl
@[simp] theorem State.setCore_inbox (s : State) (c : Nat) (x : Core) : (s.setCore c x).inbox = s.inbox := rfl
@[simp] theorem State.setCore_cursor (s : State) (c : Nat) (x : Core) : (s.setCore c x).cursor = s.cursor := rfl
@[simp] theorem State.setCore_taken (s : State) (c : Nat) (x : Core) : (s.setCore c x).taken = s.taken := rfl
@[simp] theorem State.setCore_bundle (s : State) (c : Nat) (x : Core) : (s.setCore c x).bundle = s.bundle := rfl
@[simp] theorem State.setCore_uid (s : State) (c : Nat) (x : Core) : (s.setCore c x).uid = s.uid := rfl
@[simp] theorem State.setCore_free (s : State) (c : Nat) (x : Core) : (s.setCore c x).free = s.free := rfl
@[simp] theorem State.setCore_stop (s : State) (c : Nat) (x : Core) : (s.setCore c x).stop = s.stop := rfl

@[simp] theorem State.setDie_cycle (s : State) (d : Nat) (x : Die) : (s.setDie d x).cycle = s.cycle := rfl
@[simp] theorem State.setDie_wellStatus (s : State) (d : Nat) (x : Die) : (s.setDie d x).wellStatus = s.wellStatus := rfl
@[simp] theorem State.setDie_wellCur (s : State) (d : Nat) (x : Die) : (s.setDie d x).wellCur = s.wellCur := rfl
@[simp] theorem State.setDie_wellReq (s : State) (d : Nat) (x : Die) : (s.setDie d x).wellReq = s.wellReq := rfl
@[simp] theorem State.setDie_farReq (s : State) (d : Nat) (x : Die) : (s.setDie d x).farReq = s.farReq := rfl
@[simp] theorem State.setDie_farCur (s : State) (d : Nat) (x : Die) : (s.setDie d x).farCur = s.farCur := rfl
@[simp] theorem State.setDie_wellFrom (s : State) (d : Nat) (x : Die) : (s.setDie d x).wellFrom = s.wellFrom := rfl
@[simp] theorem State.setDie_failCode (s : State) (d : Nat) (x : Die) : (s.setDie d x).failCode = s.failCode := rfl
@[simp] theorem State.setDie_steps (s : State) (d : Nat) (x : Die) : (s.setDie d x).steps = s.steps := rfl
@[simp] theorem State.setDie_winsel (s : State) (d : Nat) (x : Die) : (s.setDie d x).winsel = s.winsel := rfl
@[simp] theorem State.setDie_gangage (s : State) (d : Nat) (x : Die) : (s.setDie d x).gangage = s.gangage := rfl
@[simp] theorem State.setDie_mevqbase (s : State) (d : Nat) (x : Die) : (s.setDie d x).mevqbase = s.mevqbase := rfl
@[simp] theorem State.setDie_mevents (s : State) (d : Nat) (x : Die) : (s.setDie d x).mevents = s.mevents := rfl
@[simp] theorem State.setDie_peerrt (s : State) (d : Nat) (x : Die) : (s.setDie d x).peerrt = s.peerrt := rfl
@[simp] theorem State.setDie_routesDown (s : State) (d : Nat) (x : Die) : (s.setDie d x).routesDown = s.routesDown := rfl
@[simp] theorem State.setDie_rrq (s : State) (d : Nat) (x : Die) : (s.setDie d x).rrq = s.rrq := rfl
@[simp] theorem State.setDie_phys (s : State) (d : Nat) (x : Die) : (s.setDie d x).phys = s.phys := rfl
@[simp] theorem State.setDie_well (s : State) (d : Nat) (x : Die) : (s.setDie d x).well = s.well := rfl
@[simp] theorem State.setDie_scratch (s : State) (d : Nat) (x : Die) : (s.setDie d x).scratch = s.scratch := rfl
@[simp] theorem State.setDie_tags (s : State) (d : Nat) (x : Die) : (s.setDie d x).tags = s.tags := rfl
@[simp] theorem State.setDie_poison (s : State) (d : Nat) (x : Die) : (s.setDie d x).poison = s.poison := rfl
@[simp] theorem State.setDie_flights (s : State) (d : Nat) (x : Die) : (s.setDie d x).flights = s.flights := rfl
@[simp] theorem State.setDie_voids (s : State) (d : Nat) (x : Die) : (s.setDie d x).voids = s.voids := rfl
@[simp] theorem State.setDie_ports (s : State) (d : Nat) (x : Die) : (s.setDie d x).ports = s.ports := rfl
@[simp] theorem State.setDie_msix (s : State) (d : Nat) (x : Die) : (s.setDie d x).msix = s.msix := rfl
@[simp] theorem State.setDie_hostReads (s : State) (d : Nat) (x : Die) : (s.setDie d x).hostReads = s.hostReads := rfl
@[simp] theorem State.setDie_cores (s : State) (d : Nat) (x : Die) : (s.setDie d x).cores = s.cores := rfl
@[simp] theorem State.setDie_diesT (s : State) (d : Nat) (x : Die) : (s.setDie d x).diesT = Tbl.set s.diesT d x := rfl
@[simp] theorem State.setDie_ctxs (s : State) (d : Nat) (x : Die) : (s.setDie d x).ctxs = s.ctxs := rfl
@[simp] theorem State.setDie_teams (s : State) (d : Nat) (x : Die) : (s.setDie d x).teams = s.teams := rfl
@[simp] theorem State.setDie_threads (s : State) (d : Nat) (x : Die) : (s.setDie d x).threads = s.threads := rfl
@[simp] theorem State.setDie_launches (s : State) (d : Nat) (x : Die) : (s.setDie d x).launches = s.launches := rfl
@[simp] theorem State.setDie_acc (s : State) (d : Nat) (x : Die) : (s.setDie d x).acc = s.acc := rfl
@[simp] theorem State.setDie_margin (s : State) (d : Nat) (x : Die) : (s.setDie d x).margin = s.margin := rfl
@[simp] theorem State.setDie_palette (s : State) (d : Nat) (x : Die) : (s.setDie d x).palette = s.palette := rfl
@[simp] theorem State.setDie_late (s : State) (d : Nat) (x : Die) : (s.setDie d x).late = s.late := rfl
@[simp] theorem State.setDie_inbox (s : State) (d : Nat) (x : Die) : (s.setDie d x).inbox = s.inbox := rfl
@[simp] theorem State.setDie_cursor (s : State) (d : Nat) (x : Die) : (s.setDie d x).cursor = s.cursor := rfl
@[simp] theorem State.setDie_taken (s : State) (d : Nat) (x : Die) : (s.setDie d x).taken = s.taken := rfl
@[simp] theorem State.setDie_bundle (s : State) (d : Nat) (x : Die) : (s.setDie d x).bundle = s.bundle := rfl
@[simp] theorem State.setDie_uid (s : State) (d : Nat) (x : Die) : (s.setDie d x).uid = s.uid := rfl
@[simp] theorem State.setDie_free (s : State) (d : Nat) (x : Die) : (s.setDie d x).free = s.free := rfl
@[simp] theorem State.setDie_stop (s : State) (d : Nat) (x : Die) : (s.setDie d x).stop = s.stop := rfl

@[simp] theorem State.setCtx_cycle (s : State) (c : Nat) (x : Ctx) : (s.setCtx c x).cycle = s.cycle := rfl
@[simp] theorem State.setCtx_wellStatus (s : State) (c : Nat) (x : Ctx) : (s.setCtx c x).wellStatus = s.wellStatus := rfl
@[simp] theorem State.setCtx_wellCur (s : State) (c : Nat) (x : Ctx) : (s.setCtx c x).wellCur = s.wellCur := rfl
@[simp] theorem State.setCtx_wellReq (s : State) (c : Nat) (x : Ctx) : (s.setCtx c x).wellReq = s.wellReq := rfl
@[simp] theorem State.setCtx_farReq (s : State) (c : Nat) (x : Ctx) : (s.setCtx c x).farReq = s.farReq := rfl
@[simp] theorem State.setCtx_farCur (s : State) (c : Nat) (x : Ctx) : (s.setCtx c x).farCur = s.farCur := rfl
@[simp] theorem State.setCtx_wellFrom (s : State) (c : Nat) (x : Ctx) : (s.setCtx c x).wellFrom = s.wellFrom := rfl
@[simp] theorem State.setCtx_failCode (s : State) (c : Nat) (x : Ctx) : (s.setCtx c x).failCode = s.failCode := rfl
@[simp] theorem State.setCtx_steps (s : State) (c : Nat) (x : Ctx) : (s.setCtx c x).steps = s.steps := rfl
@[simp] theorem State.setCtx_winsel (s : State) (c : Nat) (x : Ctx) : (s.setCtx c x).winsel = s.winsel := rfl
@[simp] theorem State.setCtx_gangage (s : State) (c : Nat) (x : Ctx) : (s.setCtx c x).gangage = s.gangage := rfl
@[simp] theorem State.setCtx_mevqbase (s : State) (c : Nat) (x : Ctx) : (s.setCtx c x).mevqbase = s.mevqbase := rfl
@[simp] theorem State.setCtx_mevents (s : State) (c : Nat) (x : Ctx) : (s.setCtx c x).mevents = s.mevents := rfl
@[simp] theorem State.setCtx_peerrt (s : State) (c : Nat) (x : Ctx) : (s.setCtx c x).peerrt = s.peerrt := rfl
@[simp] theorem State.setCtx_routesDown (s : State) (c : Nat) (x : Ctx) : (s.setCtx c x).routesDown = s.routesDown := rfl
@[simp] theorem State.setCtx_rrq (s : State) (c : Nat) (x : Ctx) : (s.setCtx c x).rrq = s.rrq := rfl
@[simp] theorem State.setCtx_phys (s : State) (c : Nat) (x : Ctx) : (s.setCtx c x).phys = s.phys := rfl
@[simp] theorem State.setCtx_well (s : State) (c : Nat) (x : Ctx) : (s.setCtx c x).well = s.well := rfl
@[simp] theorem State.setCtx_scratch (s : State) (c : Nat) (x : Ctx) : (s.setCtx c x).scratch = s.scratch := rfl
@[simp] theorem State.setCtx_tags (s : State) (c : Nat) (x : Ctx) : (s.setCtx c x).tags = s.tags := rfl
@[simp] theorem State.setCtx_poison (s : State) (c : Nat) (x : Ctx) : (s.setCtx c x).poison = s.poison := rfl
@[simp] theorem State.setCtx_flights (s : State) (c : Nat) (x : Ctx) : (s.setCtx c x).flights = s.flights := rfl
@[simp] theorem State.setCtx_voids (s : State) (c : Nat) (x : Ctx) : (s.setCtx c x).voids = s.voids := rfl
@[simp] theorem State.setCtx_ports (s : State) (c : Nat) (x : Ctx) : (s.setCtx c x).ports = s.ports := rfl
@[simp] theorem State.setCtx_msix (s : State) (c : Nat) (x : Ctx) : (s.setCtx c x).msix = s.msix := rfl
@[simp] theorem State.setCtx_hostReads (s : State) (c : Nat) (x : Ctx) : (s.setCtx c x).hostReads = s.hostReads := rfl
@[simp] theorem State.setCtx_cores (s : State) (c : Nat) (x : Ctx) : (s.setCtx c x).cores = s.cores := rfl
@[simp] theorem State.setCtx_diesT (s : State) (c : Nat) (x : Ctx) : (s.setCtx c x).diesT = s.diesT := rfl
@[simp] theorem State.setCtx_ctxs (s : State) (c : Nat) (x : Ctx) : (s.setCtx c x).ctxs = Tbl.set s.ctxs c x := rfl
@[simp] theorem State.setCtx_teams (s : State) (c : Nat) (x : Ctx) : (s.setCtx c x).teams = s.teams := rfl
@[simp] theorem State.setCtx_threads (s : State) (c : Nat) (x : Ctx) : (s.setCtx c x).threads = s.threads := rfl
@[simp] theorem State.setCtx_launches (s : State) (c : Nat) (x : Ctx) : (s.setCtx c x).launches = s.launches := rfl
@[simp] theorem State.setCtx_acc (s : State) (c : Nat) (x : Ctx) : (s.setCtx c x).acc = s.acc := rfl
@[simp] theorem State.setCtx_margin (s : State) (c : Nat) (x : Ctx) : (s.setCtx c x).margin = s.margin := rfl
@[simp] theorem State.setCtx_palette (s : State) (c : Nat) (x : Ctx) : (s.setCtx c x).palette = s.palette := rfl
@[simp] theorem State.setCtx_late (s : State) (c : Nat) (x : Ctx) : (s.setCtx c x).late = s.late := rfl
@[simp] theorem State.setCtx_inbox (s : State) (c : Nat) (x : Ctx) : (s.setCtx c x).inbox = s.inbox := rfl
@[simp] theorem State.setCtx_cursor (s : State) (c : Nat) (x : Ctx) : (s.setCtx c x).cursor = s.cursor := rfl
@[simp] theorem State.setCtx_taken (s : State) (c : Nat) (x : Ctx) : (s.setCtx c x).taken = s.taken := rfl
@[simp] theorem State.setCtx_bundle (s : State) (c : Nat) (x : Ctx) : (s.setCtx c x).bundle = s.bundle := rfl
@[simp] theorem State.setCtx_uid (s : State) (c : Nat) (x : Ctx) : (s.setCtx c x).uid = s.uid := rfl
@[simp] theorem State.setCtx_free (s : State) (c : Nat) (x : Ctx) : (s.setCtx c x).free = s.free := rfl
@[simp] theorem State.setCtx_stop (s : State) (c : Nat) (x : Ctx) : (s.setCtx c x).stop = s.stop := rfl

@[simp] theorem State.setTeam_cycle (s : State) (u : Nat) (x : Team) : (s.setTeam u x).cycle = s.cycle := rfl
@[simp] theorem State.setTeam_wellStatus (s : State) (u : Nat) (x : Team) : (s.setTeam u x).wellStatus = s.wellStatus := rfl
@[simp] theorem State.setTeam_wellCur (s : State) (u : Nat) (x : Team) : (s.setTeam u x).wellCur = s.wellCur := rfl
@[simp] theorem State.setTeam_wellReq (s : State) (u : Nat) (x : Team) : (s.setTeam u x).wellReq = s.wellReq := rfl
@[simp] theorem State.setTeam_farReq (s : State) (u : Nat) (x : Team) : (s.setTeam u x).farReq = s.farReq := rfl
@[simp] theorem State.setTeam_farCur (s : State) (u : Nat) (x : Team) : (s.setTeam u x).farCur = s.farCur := rfl
@[simp] theorem State.setTeam_wellFrom (s : State) (u : Nat) (x : Team) : (s.setTeam u x).wellFrom = s.wellFrom := rfl
@[simp] theorem State.setTeam_failCode (s : State) (u : Nat) (x : Team) : (s.setTeam u x).failCode = s.failCode := rfl
@[simp] theorem State.setTeam_steps (s : State) (u : Nat) (x : Team) : (s.setTeam u x).steps = s.steps := rfl
@[simp] theorem State.setTeam_winsel (s : State) (u : Nat) (x : Team) : (s.setTeam u x).winsel = s.winsel := rfl
@[simp] theorem State.setTeam_gangage (s : State) (u : Nat) (x : Team) : (s.setTeam u x).gangage = s.gangage := rfl
@[simp] theorem State.setTeam_mevqbase (s : State) (u : Nat) (x : Team) : (s.setTeam u x).mevqbase = s.mevqbase := rfl
@[simp] theorem State.setTeam_mevents (s : State) (u : Nat) (x : Team) : (s.setTeam u x).mevents = s.mevents := rfl
@[simp] theorem State.setTeam_peerrt (s : State) (u : Nat) (x : Team) : (s.setTeam u x).peerrt = s.peerrt := rfl
@[simp] theorem State.setTeam_routesDown (s : State) (u : Nat) (x : Team) : (s.setTeam u x).routesDown = s.routesDown := rfl
@[simp] theorem State.setTeam_rrq (s : State) (u : Nat) (x : Team) : (s.setTeam u x).rrq = s.rrq := rfl
@[simp] theorem State.setTeam_phys (s : State) (u : Nat) (x : Team) : (s.setTeam u x).phys = s.phys := rfl
@[simp] theorem State.setTeam_well (s : State) (u : Nat) (x : Team) : (s.setTeam u x).well = s.well := rfl
@[simp] theorem State.setTeam_scratch (s : State) (u : Nat) (x : Team) : (s.setTeam u x).scratch = s.scratch := rfl
@[simp] theorem State.setTeam_tags (s : State) (u : Nat) (x : Team) : (s.setTeam u x).tags = s.tags := rfl
@[simp] theorem State.setTeam_poison (s : State) (u : Nat) (x : Team) : (s.setTeam u x).poison = s.poison := rfl
@[simp] theorem State.setTeam_flights (s : State) (u : Nat) (x : Team) : (s.setTeam u x).flights = s.flights := rfl
@[simp] theorem State.setTeam_voids (s : State) (u : Nat) (x : Team) : (s.setTeam u x).voids = s.voids := rfl
@[simp] theorem State.setTeam_ports (s : State) (u : Nat) (x : Team) : (s.setTeam u x).ports = s.ports := rfl
@[simp] theorem State.setTeam_msix (s : State) (u : Nat) (x : Team) : (s.setTeam u x).msix = s.msix := rfl
@[simp] theorem State.setTeam_hostReads (s : State) (u : Nat) (x : Team) : (s.setTeam u x).hostReads = s.hostReads := rfl
@[simp] theorem State.setTeam_cores (s : State) (u : Nat) (x : Team) : (s.setTeam u x).cores = s.cores := rfl
@[simp] theorem State.setTeam_diesT (s : State) (u : Nat) (x : Team) : (s.setTeam u x).diesT = s.diesT := rfl
@[simp] theorem State.setTeam_ctxs (s : State) (u : Nat) (x : Team) : (s.setTeam u x).ctxs = s.ctxs := rfl
@[simp] theorem State.setTeam_teams (s : State) (u : Nat) (x : Team) : (s.setTeam u x).teams = Tbl.set s.teams u x := rfl
@[simp] theorem State.setTeam_threads (s : State) (u : Nat) (x : Team) : (s.setTeam u x).threads = s.threads := rfl
@[simp] theorem State.setTeam_launches (s : State) (u : Nat) (x : Team) : (s.setTeam u x).launches = s.launches := rfl
@[simp] theorem State.setTeam_acc (s : State) (u : Nat) (x : Team) : (s.setTeam u x).acc = s.acc := rfl
@[simp] theorem State.setTeam_margin (s : State) (u : Nat) (x : Team) : (s.setTeam u x).margin = s.margin := rfl
@[simp] theorem State.setTeam_palette (s : State) (u : Nat) (x : Team) : (s.setTeam u x).palette = s.palette := rfl
@[simp] theorem State.setTeam_late (s : State) (u : Nat) (x : Team) : (s.setTeam u x).late = s.late := rfl
@[simp] theorem State.setTeam_inbox (s : State) (u : Nat) (x : Team) : (s.setTeam u x).inbox = s.inbox := rfl
@[simp] theorem State.setTeam_cursor (s : State) (u : Nat) (x : Team) : (s.setTeam u x).cursor = s.cursor := rfl
@[simp] theorem State.setTeam_taken (s : State) (u : Nat) (x : Team) : (s.setTeam u x).taken = s.taken := rfl
@[simp] theorem State.setTeam_bundle (s : State) (u : Nat) (x : Team) : (s.setTeam u x).bundle = s.bundle := rfl
@[simp] theorem State.setTeam_uid (s : State) (u : Nat) (x : Team) : (s.setTeam u x).uid = s.uid := rfl
@[simp] theorem State.setTeam_free (s : State) (u : Nat) (x : Team) : (s.setTeam u x).free = s.free := rfl
@[simp] theorem State.setTeam_stop (s : State) (u : Nat) (x : Team) : (s.setTeam u x).stop = s.stop := rfl

@[simp] theorem State.setLaunch_cycle (s : State) (l : Nat) (x : Launch) : (s.setLaunch l x).cycle = s.cycle := rfl
@[simp] theorem State.setLaunch_wellStatus (s : State) (l : Nat) (x : Launch) : (s.setLaunch l x).wellStatus = s.wellStatus := rfl
@[simp] theorem State.setLaunch_wellCur (s : State) (l : Nat) (x : Launch) : (s.setLaunch l x).wellCur = s.wellCur := rfl
@[simp] theorem State.setLaunch_wellReq (s : State) (l : Nat) (x : Launch) : (s.setLaunch l x).wellReq = s.wellReq := rfl
@[simp] theorem State.setLaunch_farReq (s : State) (l : Nat) (x : Launch) : (s.setLaunch l x).farReq = s.farReq := rfl
@[simp] theorem State.setLaunch_farCur (s : State) (l : Nat) (x : Launch) : (s.setLaunch l x).farCur = s.farCur := rfl
@[simp] theorem State.setLaunch_wellFrom (s : State) (l : Nat) (x : Launch) : (s.setLaunch l x).wellFrom = s.wellFrom := rfl
@[simp] theorem State.setLaunch_failCode (s : State) (l : Nat) (x : Launch) : (s.setLaunch l x).failCode = s.failCode := rfl
@[simp] theorem State.setLaunch_steps (s : State) (l : Nat) (x : Launch) : (s.setLaunch l x).steps = s.steps := rfl
@[simp] theorem State.setLaunch_winsel (s : State) (l : Nat) (x : Launch) : (s.setLaunch l x).winsel = s.winsel := rfl
@[simp] theorem State.setLaunch_gangage (s : State) (l : Nat) (x : Launch) : (s.setLaunch l x).gangage = s.gangage := rfl
@[simp] theorem State.setLaunch_mevqbase (s : State) (l : Nat) (x : Launch) : (s.setLaunch l x).mevqbase = s.mevqbase := rfl
@[simp] theorem State.setLaunch_mevents (s : State) (l : Nat) (x : Launch) : (s.setLaunch l x).mevents = s.mevents := rfl
@[simp] theorem State.setLaunch_peerrt (s : State) (l : Nat) (x : Launch) : (s.setLaunch l x).peerrt = s.peerrt := rfl
@[simp] theorem State.setLaunch_routesDown (s : State) (l : Nat) (x : Launch) : (s.setLaunch l x).routesDown = s.routesDown := rfl
@[simp] theorem State.setLaunch_rrq (s : State) (l : Nat) (x : Launch) : (s.setLaunch l x).rrq = s.rrq := rfl
@[simp] theorem State.setLaunch_phys (s : State) (l : Nat) (x : Launch) : (s.setLaunch l x).phys = s.phys := rfl
@[simp] theorem State.setLaunch_well (s : State) (l : Nat) (x : Launch) : (s.setLaunch l x).well = s.well := rfl
@[simp] theorem State.setLaunch_scratch (s : State) (l : Nat) (x : Launch) : (s.setLaunch l x).scratch = s.scratch := rfl
@[simp] theorem State.setLaunch_tags (s : State) (l : Nat) (x : Launch) : (s.setLaunch l x).tags = s.tags := rfl
@[simp] theorem State.setLaunch_poison (s : State) (l : Nat) (x : Launch) : (s.setLaunch l x).poison = s.poison := rfl
@[simp] theorem State.setLaunch_flights (s : State) (l : Nat) (x : Launch) : (s.setLaunch l x).flights = s.flights := rfl
@[simp] theorem State.setLaunch_voids (s : State) (l : Nat) (x : Launch) : (s.setLaunch l x).voids = s.voids := rfl
@[simp] theorem State.setLaunch_ports (s : State) (l : Nat) (x : Launch) : (s.setLaunch l x).ports = s.ports := rfl
@[simp] theorem State.setLaunch_msix (s : State) (l : Nat) (x : Launch) : (s.setLaunch l x).msix = s.msix := rfl
@[simp] theorem State.setLaunch_hostReads (s : State) (l : Nat) (x : Launch) : (s.setLaunch l x).hostReads = s.hostReads := rfl
@[simp] theorem State.setLaunch_cores (s : State) (l : Nat) (x : Launch) : (s.setLaunch l x).cores = s.cores := rfl
@[simp] theorem State.setLaunch_diesT (s : State) (l : Nat) (x : Launch) : (s.setLaunch l x).diesT = s.diesT := rfl
@[simp] theorem State.setLaunch_ctxs (s : State) (l : Nat) (x : Launch) : (s.setLaunch l x).ctxs = s.ctxs := rfl
@[simp] theorem State.setLaunch_teams (s : State) (l : Nat) (x : Launch) : (s.setLaunch l x).teams = s.teams := rfl
@[simp] theorem State.setLaunch_threads (s : State) (l : Nat) (x : Launch) : (s.setLaunch l x).threads = s.threads := rfl
@[simp] theorem State.setLaunch_launches (s : State) (l : Nat) (x : Launch) : (s.setLaunch l x).launches = Tbl.set s.launches l x := rfl
@[simp] theorem State.setLaunch_acc (s : State) (l : Nat) (x : Launch) : (s.setLaunch l x).acc = s.acc := rfl
@[simp] theorem State.setLaunch_margin (s : State) (l : Nat) (x : Launch) : (s.setLaunch l x).margin = s.margin := rfl
@[simp] theorem State.setLaunch_palette (s : State) (l : Nat) (x : Launch) : (s.setLaunch l x).palette = s.palette := rfl
@[simp] theorem State.setLaunch_late (s : State) (l : Nat) (x : Launch) : (s.setLaunch l x).late = s.late := rfl
@[simp] theorem State.setLaunch_inbox (s : State) (l : Nat) (x : Launch) : (s.setLaunch l x).inbox = s.inbox := rfl
@[simp] theorem State.setLaunch_cursor (s : State) (l : Nat) (x : Launch) : (s.setLaunch l x).cursor = s.cursor := rfl
@[simp] theorem State.setLaunch_taken (s : State) (l : Nat) (x : Launch) : (s.setLaunch l x).taken = s.taken := rfl
@[simp] theorem State.setLaunch_bundle (s : State) (l : Nat) (x : Launch) : (s.setLaunch l x).bundle = s.bundle := rfl
@[simp] theorem State.setLaunch_uid (s : State) (l : Nat) (x : Launch) : (s.setLaunch l x).uid = s.uid := rfl
@[simp] theorem State.setLaunch_free (s : State) (l : Nat) (x : Launch) : (s.setLaunch l x).free = s.free := rfl
@[simp] theorem State.setLaunch_stop (s : State) (l : Nat) (x : Launch) : (s.setLaunch l x).stop = s.stop := rfl

@[simp] theorem State.setThread_cycle (s : State) (k : Nat) (x : Thread) : (s.setThread k x).cycle = s.cycle := rfl
@[simp] theorem State.setThread_wellStatus (s : State) (k : Nat) (x : Thread) : (s.setThread k x).wellStatus = s.wellStatus := rfl
@[simp] theorem State.setThread_wellCur (s : State) (k : Nat) (x : Thread) : (s.setThread k x).wellCur = s.wellCur := rfl
@[simp] theorem State.setThread_wellReq (s : State) (k : Nat) (x : Thread) : (s.setThread k x).wellReq = s.wellReq := rfl
@[simp] theorem State.setThread_farReq (s : State) (k : Nat) (x : Thread) : (s.setThread k x).farReq = s.farReq := rfl
@[simp] theorem State.setThread_farCur (s : State) (k : Nat) (x : Thread) : (s.setThread k x).farCur = s.farCur := rfl
@[simp] theorem State.setThread_wellFrom (s : State) (k : Nat) (x : Thread) : (s.setThread k x).wellFrom = s.wellFrom := rfl
@[simp] theorem State.setThread_failCode (s : State) (k : Nat) (x : Thread) : (s.setThread k x).failCode = s.failCode := rfl
@[simp] theorem State.setThread_steps (s : State) (k : Nat) (x : Thread) : (s.setThread k x).steps = s.steps := rfl
@[simp] theorem State.setThread_winsel (s : State) (k : Nat) (x : Thread) : (s.setThread k x).winsel = s.winsel := rfl
@[simp] theorem State.setThread_gangage (s : State) (k : Nat) (x : Thread) : (s.setThread k x).gangage = s.gangage := rfl
@[simp] theorem State.setThread_mevqbase (s : State) (k : Nat) (x : Thread) : (s.setThread k x).mevqbase = s.mevqbase := rfl
@[simp] theorem State.setThread_mevents (s : State) (k : Nat) (x : Thread) : (s.setThread k x).mevents = s.mevents := rfl
@[simp] theorem State.setThread_peerrt (s : State) (k : Nat) (x : Thread) : (s.setThread k x).peerrt = s.peerrt := rfl
@[simp] theorem State.setThread_routesDown (s : State) (k : Nat) (x : Thread) : (s.setThread k x).routesDown = s.routesDown := rfl
@[simp] theorem State.setThread_rrq (s : State) (k : Nat) (x : Thread) : (s.setThread k x).rrq = s.rrq := rfl
@[simp] theorem State.setThread_phys (s : State) (k : Nat) (x : Thread) : (s.setThread k x).phys = s.phys := rfl
@[simp] theorem State.setThread_well (s : State) (k : Nat) (x : Thread) : (s.setThread k x).well = s.well := rfl
@[simp] theorem State.setThread_scratch (s : State) (k : Nat) (x : Thread) : (s.setThread k x).scratch = s.scratch := rfl
@[simp] theorem State.setThread_tags (s : State) (k : Nat) (x : Thread) : (s.setThread k x).tags = s.tags := rfl
@[simp] theorem State.setThread_poison (s : State) (k : Nat) (x : Thread) : (s.setThread k x).poison = s.poison := rfl
@[simp] theorem State.setThread_flights (s : State) (k : Nat) (x : Thread) : (s.setThread k x).flights = s.flights := rfl
@[simp] theorem State.setThread_voids (s : State) (k : Nat) (x : Thread) : (s.setThread k x).voids = s.voids := rfl
@[simp] theorem State.setThread_ports (s : State) (k : Nat) (x : Thread) : (s.setThread k x).ports = s.ports := rfl
@[simp] theorem State.setThread_msix (s : State) (k : Nat) (x : Thread) : (s.setThread k x).msix = s.msix := rfl
@[simp] theorem State.setThread_hostReads (s : State) (k : Nat) (x : Thread) : (s.setThread k x).hostReads = s.hostReads := rfl
@[simp] theorem State.setThread_cores (s : State) (k : Nat) (x : Thread) : (s.setThread k x).cores = s.cores := rfl
@[simp] theorem State.setThread_diesT (s : State) (k : Nat) (x : Thread) : (s.setThread k x).diesT = s.diesT := rfl
@[simp] theorem State.setThread_ctxs (s : State) (k : Nat) (x : Thread) : (s.setThread k x).ctxs = s.ctxs := rfl
@[simp] theorem State.setThread_teams (s : State) (k : Nat) (x : Thread) : (s.setThread k x).teams = s.teams := rfl
@[simp] theorem State.setThread_threads (s : State) (k : Nat) (x : Thread) : (s.setThread k x).threads = Tbl.set s.threads k x := rfl
@[simp] theorem State.setThread_launches (s : State) (k : Nat) (x : Thread) : (s.setThread k x).launches = s.launches := rfl
@[simp] theorem State.setThread_acc (s : State) (k : Nat) (x : Thread) : (s.setThread k x).acc = s.acc := rfl
@[simp] theorem State.setThread_margin (s : State) (k : Nat) (x : Thread) : (s.setThread k x).margin = s.margin := rfl
@[simp] theorem State.setThread_palette (s : State) (k : Nat) (x : Thread) : (s.setThread k x).palette = s.palette := rfl
@[simp] theorem State.setThread_late (s : State) (k : Nat) (x : Thread) : (s.setThread k x).late = s.late := rfl
@[simp] theorem State.setThread_inbox (s : State) (k : Nat) (x : Thread) : (s.setThread k x).inbox = s.inbox := rfl
@[simp] theorem State.setThread_cursor (s : State) (k : Nat) (x : Thread) : (s.setThread k x).cursor = s.cursor := rfl
@[simp] theorem State.setThread_taken (s : State) (k : Nat) (x : Thread) : (s.setThread k x).taken = s.taken := rfl
@[simp] theorem State.setThread_bundle (s : State) (k : Nat) (x : Thread) : (s.setThread k x).bundle = s.bundle := rfl
@[simp] theorem State.setThread_uid (s : State) (k : Nat) (x : Thread) : (s.setThread k x).uid = s.uid := rfl
@[simp] theorem State.setThread_free (s : State) (k : Nat) (x : Thread) : (s.setThread k x).free = s.free := rfl
@[simp] theorem State.setThread_stop (s : State) (k : Nat) (x : Thread) : (s.setThread k x).stop = s.stop := rfl

@[simp] theorem State.setCore_die (s : State) (c : Nat) (x : Core) (n : Nat) : (s.setCore c x).die n = s.die n := rfl
@[simp] theorem State.setCore_ctx (s : State) (c : Nat) (x : Core) (n : Nat) : (s.setCore c x).ctx n = s.ctx n := rfl
@[simp] theorem State.setCore_team (s : State) (c : Nat) (x : Core) (n : Nat) : (s.setCore c x).team n = s.team n := rfl
@[simp] theorem State.setCore_launch (s : State) (c : Nat) (x : Core) (n : Nat) : (s.setCore c x).launch n = s.launch n := rfl
@[simp] theorem State.setCore_thread (s : State) (c : Nat) (x : Core) (n : Nat) : (s.setCore c x).thread n = s.thread n := rfl
@[simp] theorem State.setCore_threadOpt (s : State) (c : Nat) (x : Core) (n : Nat) : (s.setCore c x).thread? n = s.thread? n := rfl
@[simp] theorem State.setCore_now (s : State) (c : Nat) (x : Core) : (s.setCore c x).now = s.now := rfl
@[simp] theorem State.setDie_core (s : State) (d : Nat) (x : Die) (n : Nat) : (s.setDie d x).core n = s.core n := rfl
@[simp] theorem State.setDie_ctx (s : State) (d : Nat) (x : Die) (n : Nat) : (s.setDie d x).ctx n = s.ctx n := rfl
@[simp] theorem State.setDie_team (s : State) (d : Nat) (x : Die) (n : Nat) : (s.setDie d x).team n = s.team n := rfl
@[simp] theorem State.setDie_launch (s : State) (d : Nat) (x : Die) (n : Nat) : (s.setDie d x).launch n = s.launch n := rfl
@[simp] theorem State.setDie_thread (s : State) (d : Nat) (x : Die) (n : Nat) : (s.setDie d x).thread n = s.thread n := rfl
@[simp] theorem State.setDie_threadOpt (s : State) (d : Nat) (x : Die) (n : Nat) : (s.setDie d x).thread? n = s.thread? n := rfl
@[simp] theorem State.setDie_now (s : State) (d : Nat) (x : Die) : (s.setDie d x).now = s.now := rfl
@[simp] theorem State.setCtx_core (s : State) (c : Nat) (x : Ctx) (n : Nat) : (s.setCtx c x).core n = s.core n := rfl
@[simp] theorem State.setCtx_die (s : State) (c : Nat) (x : Ctx) (n : Nat) : (s.setCtx c x).die n = s.die n := rfl
@[simp] theorem State.setCtx_team (s : State) (c : Nat) (x : Ctx) (n : Nat) : (s.setCtx c x).team n = s.team n := rfl
@[simp] theorem State.setCtx_launch (s : State) (c : Nat) (x : Ctx) (n : Nat) : (s.setCtx c x).launch n = s.launch n := rfl
@[simp] theorem State.setCtx_thread (s : State) (c : Nat) (x : Ctx) (n : Nat) : (s.setCtx c x).thread n = s.thread n := rfl
@[simp] theorem State.setCtx_threadOpt (s : State) (c : Nat) (x : Ctx) (n : Nat) : (s.setCtx c x).thread? n = s.thread? n := rfl
@[simp] theorem State.setCtx_now (s : State) (c : Nat) (x : Ctx) : (s.setCtx c x).now = s.now := rfl
@[simp] theorem State.setTeam_core (s : State) (u : Nat) (x : Team) (n : Nat) : (s.setTeam u x).core n = s.core n := rfl
@[simp] theorem State.setTeam_die (s : State) (u : Nat) (x : Team) (n : Nat) : (s.setTeam u x).die n = s.die n := rfl
@[simp] theorem State.setTeam_ctx (s : State) (u : Nat) (x : Team) (n : Nat) : (s.setTeam u x).ctx n = s.ctx n := rfl
@[simp] theorem State.setTeam_launch (s : State) (u : Nat) (x : Team) (n : Nat) : (s.setTeam u x).launch n = s.launch n := rfl
@[simp] theorem State.setTeam_thread (s : State) (u : Nat) (x : Team) (n : Nat) : (s.setTeam u x).thread n = s.thread n := rfl
@[simp] theorem State.setTeam_threadOpt (s : State) (u : Nat) (x : Team) (n : Nat) : (s.setTeam u x).thread? n = s.thread? n := rfl
@[simp] theorem State.setTeam_now (s : State) (u : Nat) (x : Team) : (s.setTeam u x).now = s.now := rfl
@[simp] theorem State.setLaunch_core (s : State) (l : Nat) (x : Launch) (n : Nat) : (s.setLaunch l x).core n = s.core n := rfl
@[simp] theorem State.setLaunch_die (s : State) (l : Nat) (x : Launch) (n : Nat) : (s.setLaunch l x).die n = s.die n := rfl
@[simp] theorem State.setLaunch_ctx (s : State) (l : Nat) (x : Launch) (n : Nat) : (s.setLaunch l x).ctx n = s.ctx n := rfl
@[simp] theorem State.setLaunch_team (s : State) (l : Nat) (x : Launch) (n : Nat) : (s.setLaunch l x).team n = s.team n := rfl
@[simp] theorem State.setLaunch_thread (s : State) (l : Nat) (x : Launch) (n : Nat) : (s.setLaunch l x).thread n = s.thread n := rfl
@[simp] theorem State.setLaunch_threadOpt (s : State) (l : Nat) (x : Launch) (n : Nat) : (s.setLaunch l x).thread? n = s.thread? n := rfl
@[simp] theorem State.setLaunch_now (s : State) (l : Nat) (x : Launch) : (s.setLaunch l x).now = s.now := rfl
@[simp] theorem State.setThread_core (s : State) (k : Nat) (x : Thread) (n : Nat) : (s.setThread k x).core n = s.core n := rfl
@[simp] theorem State.setThread_die (s : State) (k : Nat) (x : Thread) (n : Nat) : (s.setThread k x).die n = s.die n := rfl
@[simp] theorem State.setThread_ctx (s : State) (k : Nat) (x : Thread) (n : Nat) : (s.setThread k x).ctx n = s.ctx n := rfl
@[simp] theorem State.setThread_team (s : State) (k : Nat) (x : Thread) (n : Nat) : (s.setThread k x).team n = s.team n := rfl
@[simp] theorem State.setThread_launch (s : State) (k : Nat) (x : Thread) (n : Nat) : (s.setThread k x).launch n = s.launch n := rfl
@[simp] theorem State.setThread_now (s : State) (k : Nat) (x : Thread) : (s.setThread k x).now = s.now := rfl

@[simp] theorem State.setCore_core_self (s : State) (k : Nat) (x : Core) : (s.setCore k x).core k = x :=
  Tbl.getD_of_get? (Tbl.get?_set_self _ _ _)

theorem State.setCore_core_ne (s : State) (k n : Nat) (x : Core) (h : n ≠ k) : (s.setCore k x).core n = s.core n := by
  simp only [State.core, State.setCore, Tbl.getD, Tbl.get?_set_ne _ _ _ _ h]

@[simp] theorem State.setDie_die_self (s : State) (k : Nat) (x : Die) : (s.setDie k x).die k = x :=
  Tbl.getD_of_get? (Tbl.get?_set_self _ _ _)

theorem State.setDie_die_ne (s : State) (k n : Nat) (x : Die) (h : n ≠ k) : (s.setDie k x).die n = s.die n := by
  simp only [State.die, State.setDie, Tbl.getD, Tbl.get?_set_ne _ _ _ _ h]

@[simp] theorem State.setCtx_ctx_self (s : State) (k : Nat) (x : Ctx) : (s.setCtx k x).ctx k = x :=
  Tbl.getD_of_get? (Tbl.get?_set_self _ _ _)

theorem State.setCtx_ctx_ne (s : State) (k n : Nat) (x : Ctx) (h : n ≠ k) : (s.setCtx k x).ctx n = s.ctx n := by
  simp only [State.ctx, State.setCtx, Tbl.getD, Tbl.get?_set_ne _ _ _ _ h]

@[simp] theorem State.setTeam_team_self (s : State) (k : Nat) (x : Team) : (s.setTeam k x).team k = x :=
  Tbl.getD_of_get? (Tbl.get?_set_self _ _ _)

theorem State.setTeam_team_ne (s : State) (k n : Nat) (x : Team) (h : n ≠ k) : (s.setTeam k x).team n = s.team n := by
  simp only [State.team, State.setTeam, Tbl.getD, Tbl.get?_set_ne _ _ _ _ h]

@[simp] theorem State.setThread_thread_self (s : State) (k : Nat) (x : Thread) : (s.setThread k x).thread k = x :=
  Tbl.getD_of_get? (Tbl.get?_set_self _ _ _)

theorem State.setThread_thread_ne (s : State) (k n : Nat) (x : Thread) (h : n ≠ k) : (s.setThread k x).thread n = s.thread n := by
  simp only [State.thread, State.setThread, Tbl.getD, Tbl.get?_set_ne _ _ _ _ h]

@[simp] theorem State.setThread_threadOpt_self (s : State) (k : Nat) (x : Thread) : (s.setThread k x).thread? k = some x :=
  Tbl.get?_set_self _ _ _

theorem State.setThread_threadOpt_ne (s : State) (k n : Nat) (x : Thread) (h : n ≠ k) :
    (s.setThread k x).thread? n = s.thread? n := Tbl.get?_set_ne _ _ _ _ h

@[simp] theorem State.setLaunch_launch_self (s : State) (k : Nat) (x : Launch) : (s.setLaunch k x).launch k = some x :=
  Tbl.get?_set_self _ _ _

theorem State.thread_of_threadOpt {s : State} {k : Nat} {t : Thread} (h : s.thread? k = some t) : s.thread k = t :=
  Tbl.getD_of_get? h

end Sys2Proof.Machine
end

