-- ==== Sys2Proof/Laws/Lanes.lean ====
section
/-! SUPPORT. What the issue of an instruction to a bundle does, once for every form: a form whose lanes only change their
own thread changes nothing else, and with no trap pending none is taken. -/

namespace Sys2Proof.Machine

theorem threadKey_inj {team a b : Nat} (h : threadKey team a = threadKey team b) : a = b := by
  unfold threadKey at h; omega

/-! ### No trap pending -/

theorem slotThreads_mem {s : State} {core ctx slot : Nat} {p : Nat × Thread} (h : p ∈ slotThreads s core ctx slot) :
    p ∈ s.threads ∧ p.2.core = core ∧ p.2.ctx = ctx ∧ p.2.slot = slot := by
  have key : ∀ (le : Nat × Thread → Nat × Thread → Bool) (l : List (Nat × Thread)) (q : Nat × Thread),
      q ∈ l.sortBy le → q ∈ l := by
    intro le l
    have ins : ∀ (a : Nat × Thread) (m : List (Nat × Thread)) (q : Nat × Thread),
        q ∈ List.insertBy le a m → q = a ∨ q ∈ m := by
      intro a m q hq
      induction m with
      | nil => exact .inl (by simpa [List.insertBy] using hq)
      | cons b m ih =>
        simp only [List.insertBy] at hq
        split at hq
        · simpa using hq
        · rcases List.mem_cons.1 hq with h | h
          · exact .inr (h ▸ .head _)
          · rcases ih h with h | h
            · exact .inl h
            · exact .inr (.tail _ h)
    induction l with
    | nil => intro q hq; exact hq
    | cons a l ih =>
      intro q hq
      rcases ins a _ q hq with h | h
      · exact h ▸ .head _
      · exact .tail _ (ih q h)
  have := key _ _ _ h
  simp only [List.mem_filter, Bool.and_eq_true, beq_iff_eq] at this
  exact ⟨this.1, this.2.1.1.1.1, this.2.1.1.1.2, this.2.1.1.2⟩

/-- With no trap pending in the slot, none is taken. -/
theorem takeTraps_quiet {s : State} {bd : Bundle} (h : s.Quiet bd) : takeTraps s bd.core bd.ctx bd.slot = s := by
  replace h := h.1
  have h1 : entering s bd.core bd.ctx bd.slot = [] := by
    simp only [entering, List.filter_eq_nil_iff]
    intro p hp
    obtain ⟨hm, hc, hx, hs⟩ := slotThreads_mem hp
    simp [h p hm hc hx hs]
  have h2 : trapping s bd.core bd.ctx bd.slot = [] := by
    simp only [trapping, List.filter_eq_nil_iff]
    intro p hp
    obtain ⟨hm, hc, hx, hs⟩ := slotThreads_mem hp
    simp [h p hm hc hx hs]
  simp only [takeTraps, enterTraps, h1, h2]

/-- A team that waits for no halt notes none. -/
theorem noteHalt_none {s : State} {team : Nat} (h : (s.team team).haltReason = none) : noteHalt s team = s := by
  simp only [noteHalt, h]

/-- A bundle whose slot is quiet ends with no trap taken and no halt noted. -/
theorem endBundle_quiet {s : State} {bd : Bundle} (h : s.Quiet bd) :
    noteHalt (takeTraps s bd.core bd.ctx bd.slot) bd.team = s := by
  rw [takeTraps_quiet h, noteHalt_none h.2]

/-! ### The bundle -/

@[simp] theorem Thread.complete_trap (t : Thread) (i : Instr) (e : Env) : (t.complete i e).trap = t.trap := by
  simp only [Thread.complete]
  split
  · rfl
  · rfl
  · split <;> rfl

theorem updThread_def (s : State) (k : Nat) (f : Thread → Thread) : s.updThread k f = s.setThread k (f (s.thread k)) := rfl

/-- The state of a bundle's issue, with the bundle's number and table of threads free. -/
def SameBut (s u : State) : Prop := u = { s with bundle := none, uid := u.uid, threads := u.threads }

theorem SameBut.issued (s : State) : SameBut s s.issued := rfl

theorem SameBut.setThread {s u : State} (h : SameBut s u) (k : Nat) (x : Thread) : SameBut s (u.setThread k x) := by
  unfold SameBut at *
  rw [State.setThread, h]

theorem SameBut.now {s u : State} (h : SameBut s u) : u.now = s.now := by rw [h]; rfl
theorem SameBut.team {s u : State} (h : SameBut s u) (k : Nat) : u.team k = s.team k := by rw [h]; rfl
theorem SameBut.ctx {s u : State} (h : SameBut s u) (k : Nat) : u.ctx k = s.ctx k := by rw [h]; rfl
theorem SameBut.core {s u : State} (h : SameBut s u) (k : Nat) : u.core k = s.core k := by rw [h]; rfl

/-- A lane whose state, once the end of its instruction is applied, or its trap raised, differs from the one it met
only in the lane's own thread, of which `g` then holds, and in the number of the next object. -/
def LaneEnds (i : Instr) (lane : LaneFn) (e : Env) (u : State) (g : Thread → Prop) : Prop :=
  ∃ u' x, applyLane (match lane e u with | .trap t _ => t | _ => u) i e (lane e u) = u'
    ∧ u' = { u with uid := u'.uid, threads := Tbl.set u.threads e.key x } ∧ g x

/-- A lane that is done and whose state differs from the one it met only in the lane's own thread, which has become
`g`, and in the number of the next object. -/
def LaneDoes (lane : LaneFn) (e : Env) (u : State) (g : Thread → Prop) : Prop :=
  ∃ u' x, lane e u = .done u' ∧ u' = { u with uid := u'.uid, threads := Tbl.set u.threads e.key x } ∧ g x

theorem Tbl.set_set {α : Type} (t : Tbl α) (n : Nat) (a b : α) : Tbl.set (Tbl.set t n a) n b = Tbl.set t n b := by
  induction t with
  | nil => simp [Tbl.set]
  | cons p t ih =>
    obtain ⟨k, c⟩ := p
    by_cases h1 : n < k
    · simp [Tbl.set, h1]
    · by_cases h2 : n = k
      · simp [Tbl.set, h2]
      · simp only [Tbl.set, if_neg h1, if_neg h2, ih]

theorem LaneDoes.ends {i : Instr} {lane : LaneFn} {e : Env} {u : State} {g : Thread → Prop} (h : LaneDoes lane e u g) :
    LaneEnds i lane e u (fun y => ∃ x, g x ∧ y = x.complete i e) := by
  obtain ⟨u', x, h1, h2, h3⟩ := h
  refine ⟨u'.setThread e.key (x.complete i e), x.complete i e, ?_, ?_, x, h3, rfl⟩
  · have hx : u'.thread e.key = x := by rw [h2]; exact Tbl.getD_of_get? (Tbl.get?_set_self _ _ _)
    simp only [h1, applyLane, completeLane, updThread_def, hx]
  · have h4 : u'.threads = Tbl.set u.threads e.key x := by rw [h2]
    have h5 : u'.setThread e.key (x.complete i e) = { u' with threads := Tbl.set u'.threads e.key (x.complete i e) } := rfl
    rw [h5, h4, Tbl.set_set]
    dsimp only
    rw [h2]

/-- A ready thread has waited for nothing yet. -/
theorem Thread.waitedAt_ready {t : Thread} (h : t.status = .ready) (w : Why) : t.waitedAt w = 0 := by
  simp only [Thread.waitedAt, h]

/-- A lane that blocks, its state as it met it. -/
theorem LaneEnds.block {i : Instr} {lane : LaneFn} {e : Env} {u : State} {w : Why} (h : lane e u = .block u w) :
    LaneEnds i lane e u (fun y => y = ({ (u.thread e.key).block w i e with
      status := .blocked ⟨w, i, e, (u.thread e.key).waitedAt w⟩
      pc := if holdsPc i then e.unit else if e.replay then (u.thread e.key).pc else e.npc
      hints := Hints.empty, unit := none } : Thread)) :=
  ⟨_, _, rfl, by rw [h]; rfl, rfl⟩

/-- A lane that traps, its state as it met it. -/
theorem LaneEnds.trap {i : Instr} {lane : LaneFn} {e : Env} {u : State} {tr : Trap} (h : lane e u = .trap u tr) :
    LaneEnds i lane e u (fun y => y = { u.thread e.key with
      trap := some { tr with at_ := if i.isHint then none else some e.pc }, pc := e.unit, hints := Hints.empty, unit := none
      status := .ready, age := 0, issueRead := none }) :=
  ⟨_, _, rfl, by rw [h]; rfl, rfl⟩

theorem operands_key {s : State} {bd : Bundle} {i : Instr} (h : Issues s bd i) {tid : Nat} (hm : tid ∈ bd.tids) :
    (s.operands bd i tid).key = threadKey bd.team tid := by
  obtain ⟨th, h1, h2, h3, -⟩ := h.threads tid hm
  have : s.issued.thread (threadKey bd.team tid) = th := State.thread_of_threadOpt h1
  simp only [State.operands, bundleEnv, capture, Env.key, this, h2, h3]

/-- A thread of a bundle that issues has no trap to take. -/
theorem Issues.noTrap {s : State} {bd : Bundle} {i : Instr} (h : Issues s bd i) {tid : Nat} (hm : tid ∈ bd.tids) :
    (s.thread (threadKey bd.team tid)).trap = none := by
  obtain ⟨th, h1, -, -, h2, h3, h4, -⟩ := h.threads tid hm
  rw [State.thread_of_threadOpt h1]
  exact h.quiet.1 _ (Tbl.get?_mem h1) h2 h3 h4

theorem Issues.ready {s : State} {bd : Bundle} {i : Instr} (h : Issues s bd i) {tid : Nat} (hm : tid ∈ bd.tids) :
    (s.thread (threadKey bd.team tid)).status = .ready := by
  obtain ⟨th, h1, -, -, -, -, -, h2, -⟩ := h.threads tid hm
  rw [State.thread_of_threadOpt h1, h2]

theorem runLanes_ends {s : State} {bd : Bundle} {i : Instr} (lane : LaneFn) (g : Nat → Thread → Prop)
    (l : List Nat) (hsub : ∀ tid ∈ l, tid ∈ bd.tids) (hnd : l.Nodup)
    (hkey : ∀ tid ∈ l, (s.operands bd i tid).key = threadKey bd.team tid)
    (hl : ∀ tid ∈ l, ∀ u, SameBut s u → u.thread (threadKey bd.team tid) = s.thread (threadKey bd.team tid) →
      LaneEnds i lane (s.operands bd i tid) u (g tid))
    (u : State) (hu : SameBut s u)
    (hsame : ∀ tid ∈ l, u.thread (threadKey bd.team tid) = s.thread (threadKey bd.team tid)) :
    ∃ v, (runLanes i lane (l.map (s.operands bd i)) u).1 = v ∧ SameBut s v
      ∧ ((∀ tid ∈ bd.tids, ∀ x, g tid x → x.trap = none) → u.Quiet bd → v.Quiet bd)
      ∧ (∀ k, (∀ tid ∈ l, k ≠ threadKey bd.team tid) → v.thread? k = u.thread? k)
      ∧ ∀ tid ∈ l, g tid (v.thread (threadKey bd.team tid)) := by
  induction l generalizing u with
  | nil => exact ⟨u, rfl, hu, fun _ hq => hq, fun _ _ => rfl, by simp⟩
  | cons tid l ih =>
    have hm : tid ∈ tid :: l := .head _
    obtain ⟨v0, x, ha, h2, h3⟩ := hl tid hm u hu (hsame tid hm)
    have hk := hkey tid hm
    rw [hk] at h2
    have hv0 : SameBut s v0 := by
      unfold SameBut at *; rw [h2, hu]
    have hne : ∀ tid' ∈ l, threadKey bd.team tid' ≠ threadKey bd.team tid := by
      intro tid' h' hc
      have := threadKey_inj hc
      subst this
      exact (List.nodup_cons.1 hnd).1 h'
    have hget : ∀ k, k ≠ threadKey bd.team tid → v0.thread? k = u.thread? k := by
      intro k hk'
      rw [h2]
      exact Tbl.get?_set_ne _ _ _ _ hk'
    have hself : v0.thread? (threadKey bd.team tid) = some x := by rw [h2]; exact Tbl.get?_set_self _ _ _
    have hq0 : (∀ tid ∈ bd.tids, ∀ x, g tid x → x.trap = none) → u.Quiet bd → v0.Quiet bd := by
      intro ht hq
      refine ⟨fun p hp hc hx' hs => ?_, ?_⟩
      · rw [h2] at hp
        rcases Tbl.mem_set hp with h | h
        · subst h; exact ht tid (hsub tid hm) x h3
        · exact hq.1 p h hc hx' hs
      · rw [hv0.team, ← hu.team]; exact hq.2
    obtain ⟨v, e1, e2, e3, e4, e5⟩ := ih (fun t h => hsub t (.tail _ h)) (List.nodup_cons.1 hnd).2
      (fun t h => hkey t (.tail _ h)) (fun t h => hl t (.tail _ h)) v0 hv0 (by
        intro tid' h'
        have := hsame tid' (.tail _ h')
        simp only [State.thread, Tbl.getD] at this ⊢
        have h4 := hget _ (hne tid' h')
        simp only [State.thread?] at h4
        rw [h4, this])
    refine ⟨v, ?_, e2, fun ht hq => e3 ht (hq0 ht hq), ?_, ?_⟩
    · rw [List.map_cons, runLanes]
      exact (congrArg (fun w => (runLanes i lane (l.map (s.operands bd i)) w).1) ha).trans e1
    · intro k hk'
      rw [e4 k (fun t h => hk' t (.tail _ h)), hget k (hk' tid hm)]
    · intro tid' h'
      rcases List.mem_cons.1 h' with h' | h'
      · subst h'
        have h5 : v.thread? (threadKey bd.team tid') = some x :=
          (e4 _ (fun t h => (hne t h).symm)).trans hself
        rw [State.thread_of_threadOpt h5]
        exact h3
      · exact e5 tid' h'

/-- At the issue of `i` every thread goes on to its lane, on the operands it captured. -/
theorem issueBundle_go {s : State} {bd : Bundle} {i : Instr} (h : Issues s bd i) (lane : LaneFn)
    (pre : List Env → State → Option Trap) (post : List Env → List Env → State → State)
    (hpre : pre (s.operandsAll bd i) s.issued = none) :
    issueBundle i pre lane post bd s = noteHalt (takeTraps (post (s.operandsAll bd i)
      (runLanes i lane (s.operandsAll bd i) s.issued).2 (runLanes i lane (s.operandsAll bd i) s.issued).1)
      bd.core bd.ctx bd.slot) bd.team := by
  have hgo : ∀ tid ∈ bd.tids, issueCheck s.issued (s.issued.thread (threadKey bd.team tid)) i = .go := by
    intro tid hm
    obtain ⟨th, h1, -, -, -, -, -, -, h5⟩ := h.threads tid hm
    have : s.issued.thread (threadKey bd.team tid) = th := State.thread_of_threadOpt h1
    rw [this, ← h5]; rfl
  have hall : ∀ (l : List Nat), (∀ tid ∈ l, tid ∈ bd.tids) →
      ((l.map (fun tid => (bundleEnv s.issued bd i s.uid tid,
        issueCheck s.issued (s.issued.thread (threadKey bd.team tid)) i))).filter (fun p => p.2 == .go)).map (fun p => p.1)
        = l.map (s.operands bd i) := by
    intro l hl
    induction l with
    | nil => rfl
    | cons a l ih =>
      have := hgo a (hl a (.head _))
      have h2 := ih (fun t h => hl t (.tail _ h))
      simp only [List.map_cons, List.filter_cons, this, beq_self_eq_true, if_true, h2]
      rfl
  have hfold : ∀ (f : State → Env × Verdict → State), (∀ u p, p.2 = .go → f u p = u) → ∀ (l : List Nat),
      (∀ tid ∈ l, tid ∈ bd.tids) → ∀ u, (l.map (fun tid => (bundleEnv s.issued bd i s.uid tid,
        issueCheck s.issued (s.issued.thread (threadKey bd.team tid)) i))).foldl f u = u := by
    intro f hf l
    induction l with
    | nil => intros; rfl
    | cons a l ih =>
      intro hl u
      rw [List.map_cons, List.foldl_cons, hf u _ (hgo a (hl a (.head _)))]
      exact ih (fun t h => hl t (.tail _ h)) u
  have hs : (({ s with bundle := none } : State).fresh) = (s.uid, s.issued) := rfl
  simp only [issueBundle, hs]
  rw [hall bd.tids (fun _ h => h), hfold _ _ bd.tids (fun _ h => h)]
  · change noteHalt (takeTraps (match pre (s.operandsAll bd i) s.issued with | some tr => _ | none => _) _ _ _) _ = _
    rw [hpre]
    rfl
  · intro u p hp
    simp only [hp]

/-- A form whose lanes only change their own threads, before what it does once for the bundle. -/
theorem runBundle_ends {s : State} {bd : Bundle} {i : Instr} (h : Issues s bd i) (lane : LaneFn)
    (pre : List Env → State → Option Trap) (post : List Env → List Env → State → State) (g : Nat → Thread → Prop)
    (hpre : pre (s.operandsAll bd i) s.issued = none) (ht : ∀ tid ∈ bd.tids, ∀ x, g tid x → x.trap = none)
    (hl : ∀ tid ∈ bd.tids, ∀ u, SameBut s u → u.thread (threadKey bd.team tid) = s.thread (threadKey bd.team tid) →
      LaneEnds i lane (s.operands bd i tid) u (g tid)) :
    ∃ v ds, runBundle i pre lane post s = .next (noteHalt (takeTraps (post (s.operandsAll bd i) ds v) bd.core bd.ctx bd.slot) bd.team)
      ∧ OnlyThreads s v bd ∧ v.Quiet bd ∧ ∀ tid ∈ bd.tids, g tid (v.thread (threadKey bd.team tid)) := by
  obtain ⟨v, h1, h2, h3, h4, h5⟩ := runLanes_ends lane g bd.tids (fun _ h => h) h.nodup (fun _ hm => operands_key h hm)
    hl s.issued (SameBut.issued s) (fun _ _ => rfl)
  refine ⟨v, (runLanes i lane (s.operandsAll bd i) s.issued).2, ?_, ⟨h2, h4⟩, h3 ht h.quiet, h5⟩
  simp only [runBundle, h.bundle]
  rw [issueBundle_go h lane _ _ hpre]
  simp only [State.operandsAll] at h1 ⊢
  rw [h1]

/-- A form with no rule for the bundle as a whole, each of whose lanes only changes its own thread or raises its trap: the slot then
takes its traps. -/
theorem runEach_raises {s : State} {bd : Bundle} {i : Instr} (h : Issues s bd i) (lane : LaneFn) (g : Nat → Thread → Prop)
    (hl : ∀ tid ∈ bd.tids, ∀ u, SameBut s u → u.thread (threadKey bd.team tid) = s.thread (threadKey bd.team tid) →
      LaneEnds i lane (s.operands bd i tid) u (g tid)) :
    ∃ v, runEach i lane s = .next (noteHalt (takeTraps v bd.core bd.ctx bd.slot) bd.team) ∧ OnlyThreads s v bd
      ∧ ((∀ tid ∈ bd.tids, ∀ x, g tid x → x.trap = none) → v.Quiet bd)
      ∧ ∀ tid ∈ bd.tids, g tid (v.thread (threadKey bd.team tid)) := by
  obtain ⟨v, h1, h2, h3, h4, h5⟩ := runLanes_ends lane g bd.tids (fun _ h => h) h.nodup (fun _ hm => operands_key h hm)
    hl s.issued (SameBut.issued s) (fun _ _ => rfl)
  refine ⟨v, ?_, ⟨h2, h4⟩, fun ht => h3 ht h.quiet, h5⟩
  simp only [runEach, runBundle, h.bundle]
  rw [issueBundle_go h lane _ _ rfl]
  simp only [State.operandsAll, h1]

/-- A form with no rule for the bundle as a whole, each of whose lanes only changes its own thread. -/
theorem runEach_ends {s : State} {bd : Bundle} {i : Instr} (h : Issues s bd i) (lane : LaneFn) (g : Nat → Thread → Prop)
    (ht : ∀ tid ∈ bd.tids, ∀ x, g tid x → x.trap = none)
    (hl : ∀ tid ∈ bd.tids, ∀ u, SameBut s u → u.thread (threadKey bd.team tid) = s.thread (threadKey bd.team tid) →
      LaneEnds i lane (s.operands bd i tid) u (g tid)) :
    ∃ t, runEach i lane s = .next t ∧ OnlyThreads s t bd ∧ ∀ tid ∈ bd.tids, g tid (t.thread (threadKey bd.team tid)) := by
  obtain ⟨v, h1, h2, h3, h4⟩ := runEach_raises h lane g hl
  exact ⟨v, by rw [h1, endBundle_quiet (h3 ht)], h2, h4⟩

/-- A form each of whose lanes is done and only changes its own thread. -/
theorem runEach_does {s : State} {bd : Bundle} {i : Instr} (h : Issues s bd i) (lane : LaneFn) (g : Nat → Thread → Prop)
    (ht : ∀ tid ∈ bd.tids, ∀ x, g tid x → x.trap = none)
    (hl : ∀ tid ∈ bd.tids, ∀ u, SameBut s u → u.thread (threadKey bd.team tid) = s.thread (threadKey bd.team tid) →
      LaneDoes lane (s.operands bd i tid) u (g tid)) :
    ∃ t, runEach i lane s = .next t ∧ OnlyThreads s t bd
      ∧ ∀ tid ∈ bd.tids, ∃ x, g tid x ∧ t.thread (threadKey bd.team tid) = x.complete i (s.operands bd i tid) :=
  runEach_ends h lane _ (by
    intro tid hm y hy
    obtain ⟨x, hx, rfl⟩ := hy
    rw [Thread.complete_trap]; exact ht tid hm x hx) (fun tid hm u hu hs => (hl tid hm u hu hs).ends)

end Sys2Proof.Machine
end

