-- ==== Sys2Proof/Laws/Access.lean ====
section
/-! SUPPORT. Threads one after another (R208), and the one way an access goes on to its place. -/

namespace Sys2Proof.Machine

theorem runLanes_of_lanesRun {i : Instr} {lane : LaneFn} {act : Env → State → Option State}
    (hact : ∀ e u v, act e u = some v → lane e u = .done v) (es : List Env) (u t : State)
    (h : lanesRun i act es u = some t) : (runLanes i lane es u).1 = t := by
  induction es generalizing u with
  | nil => simpa [lanesRun, runLanes] using h
  | cons e es ih =>
    simp only [lanesRun, Option.bind_eq_some_iff] at h
    obtain ⟨v, h1, h2⟩ := h
    simp only [runLanes, hact e u v h1, applyLane]
    exact ih _ h2

/-- A form whose lanes do `act` where that is possible. -/
theorem completes_of {s : State} {bd : Bundle} {i : Instr} (h : Issues s bd i) (lane : LaneFn)
    (act : Env → State → Option State) (hrun : exec i s = runEach i lane s)
    (hact : ∀ e u v, act e u = some v → lane e u = .done v) : Completes s bd i act := by
  intro t ht hq
  rw [hrun]
  simp only [runEach, runBundle, h.bundle]
  rw [issueBundle_go h lane _ _ rfl]
  simp only [runLanes_of_lanesRun hact _ _ _ ht, endBundle_quiet hq]

/-- A ready thread that comes to wait at issue has what the spec gives a blocked thread. -/
theorem blockLane_ready {s : State} {i : Instr} {e : Env} {w : Why} (hr : e.replay = false)
    (h : (s.thread e.key).status = .ready) :
    blockLane s i e w = s.updThread e.key (fun th => { th with
      status := .blocked ⟨w, i, e, 0⟩, age := 0, pc := if holdsPc i then e.unit else e.npc
      hints := Hints.empty, unit := none }) := by
  simp only [blockLane, State.updThread, Thread.block, Thread.waitedAt, h, hr, Bool.false_eq_true, if_false]

theorem runLanes_of_lanesGo {i : Instr} {lane : LaneFn} {act : Env → State → Option (State × Option Why)}
    (hdone : ∀ e u v, act e u = some (v, none) → lane e u = .done v)
    (hblock : ∀ e u v w, act e u = some (v, some w) → lane e u = .block v w)
    (es : List Env) (hr : ∀ e ∈ es, e.replay = false) (u t : State)
    (h : lanesGo i act es u = some t) : (runLanes i lane es u).1 = t := by
  induction es generalizing u with
  | nil => simpa [lanesGo, runLanes] using h
  | cons e es ih =>
    simp only [lanesGo, Option.bind_eq_some_iff] at h
    obtain ⟨⟨v, w⟩, h1, h2⟩ := h
    have hr' := fun e h => hr e (.tail _ h)
    cases w with
    | none =>
      simp only [runLanes, hdone e u v h1, applyLane]
      exact ih hr' _ h2
    | some w =>
      dsimp only at h2
      split at h2
      · rename_i h3
        simp only [runLanes, hblock e u v w h1, applyLane, blockLane_ready (hr e (.head _)) h3]
        exact ih hr' _ h2
      · simp at h2

/-- A form whose lanes do `act`, or come to wait for what it says, where that is possible. -/
theorem goes_of {s : State} {bd : Bundle} {i : Instr} (h : Issues s bd i) (lane : LaneFn)
    (act : Env → State → Option (State × Option Why)) (hrun : exec i s = runEach i lane s)
    (hdone : ∀ e u v, act e u = some (v, none) → lane e u = .done v)
    (hblock : ∀ e u v w, act e u = some (v, some w) → lane e u = .block v w) : Goes s bd i act := by
  intro t ht hq
  have hr : ∀ e ∈ s.operandsAll bd i, e.replay = false := by
    intro e he
    simp only [State.operandsAll, List.mem_map] at he
    obtain ⟨tid, -, rfl⟩ := he
    rfl
  rw [hrun]
  simp only [runEach, runBundle, h.bundle]
  rw [issueBundle_go h lane _ _ rfl]
  simp only [runLanes_of_lanesGo hdone hblock _ hr _ _ ht, endBundle_quiet hq]

/-- A thread that holds every ink an access touches is asked for none. -/
theorem withInks_held {e : Env} {va : Word} {js : List Nat} {s : State}
    (h : js.all (fun j => (s.thread e.key).holdsInk j) = true) (k : State → LaneOut) : withInks e (inksAt va js) s k = k s := by
  have : (inksAt va js).all (fun p => (s.thread e.key).holdsInk p.1) = true := by simpa [inksAt, List.all_map] using h
  simp only [withInks, this, if_true]

/-- An access that stands at a place goes on there. -/
theorem withPlace_placed {e : Env} {a : Access} {load store : Bool} {s u : State} {p : Place}
    (h : s.placed e a load store = some (p, u)) (k : Place → State → LaneOut) : withPlace e a load store s k = k p u := by
  simp only [State.placed] at h
  split at h
  · split at h
    · rename_i h1 h2
      simp only [Option.some.injEq, Prod.mk.injEq] at h
      obtain ⟨rfl, rfl⟩ := h
      simp only [Bool.and_eq_true, Option.isNone_iff_eq_none] at h2
      simp only [withPlace, h1, h2.1, withInks_held h2.2]
    · simp at h
  · simp at h

end Sys2Proof.Machine
end

