-- ==== Sys2Proof/Laws/Short.lean ====
section
/-! SUPPORT. The short forms: what a packed word's sub-elements are, what a unit captures, and the one shape of R253. -/

namespace Sys2Proof.Machine

/-! ### Sub-elements -/

theorem elemAt_lt (w : Nat) (x : Word) (j : Nat) : elemAt w x j < 2 ^ w := Nat.mod_lt _ (Nat.two_pow_pos w)

theorem packNat_lt (w : Nat) (xs : List Nat) : packNat w xs < 2 ^ (w * xs.length) := by
  induction xs with
  | nil => simp [packNat]
  | cons x xs ih =>
    have h1 : x % 2 ^ w < 2 ^ w := Nat.mod_lt _ (Nat.two_pow_pos w)
    rw [packNat, List.length_cons, Nat.mul_succ, Nat.pow_add]
    calc x % 2 ^ w + 2 ^ w * packNat w xs < 2 ^ w + 2 ^ w * packNat w xs := by omega
      _ = 2 ^ w * (packNat w xs + 1) := by rw [Nat.mul_succ, Nat.add_comm]
      _ ≤ 2 ^ w * 2 ^ (w * xs.length) := Nat.mul_le_mul_left _ ih
      _ = 2 ^ (w * xs.length) * 2 ^ w := Nat.mul_comm _ _

theorem packNat_elem (w : Nat) (xs : List Nat) (j : Nat) (h : j < xs.length) :
    packNat w xs / 2 ^ (w * j) % 2 ^ w = xs[j] % 2 ^ w := by
  induction xs generalizing j with
  | nil => simp at h
  | cons x xs ih =>
    cases j with
    | zero => simp [packNat]
    | succ j =>
      have h1 : x % 2 ^ w < 2 ^ w := Nat.mod_lt _ (Nat.two_pow_pos w)
      rw [packNat, Nat.mul_succ, Nat.pow_add, Nat.mul_comm (2 ^ (w * j)), ← Nat.div_div_eq_div_mul,
        Nat.add_mul_div_left _ _ (Nat.two_pow_pos w), Nat.div_eq_of_lt h1, Nat.zero_add]
      simpa using ih j (by simpa using h)

theorem elemAt_pack (w : Nat) (xs : List Nat) (j : Nat) (h : j < xs.length) (hw : w * xs.length ≤ 64) :
    elemAt w (pack w xs) j = xs[j] % 2 ^ w := by
  have h1 := packNat_lt w xs
  have h2 : 2 ^ (w * xs.length) ≤ 2 ^ 64 := Nat.pow_le_pow_right (by omega) hw
  rw [elemAt, pack, BitVec.toNat_ofNat, Nat.mod_eq_of_lt (Nat.lt_of_lt_of_le h1 h2), packNat_elem w xs j h]

/-- A masked merge, sub-element by sub-element (R191). -/
theorem elemAt_mergeMask (w : Nat) (m : BitVec 8) (z : Bool) (old : Word) (new : List Nat) (j : Nat) (h : j < new.length)
    (hw : w * new.length ≤ 64) :
    elemAt w (mergeMask w m z old new) j =
      if governed m w j then new[j] % 2 ^ w else if z then 0 else elemAt w old j := by
  rw [mergeMask, elemAt_pack w _ j (by simpa using h) (by simpa using hw)]
  simp only [List.getElem_mapIdx]
  split
  · rfl
  · split
    · simp
    · exact Nat.mod_eq_of_lt (elemAt_lt w old j)

/-! ### What a unit captures (R185) -/

section
variable {s : State} {bd : Bundle} {i : Instr}

theorem operands_hints (tid : Nat) :
    (s.operands bd i tid).hints = (s.thread (threadKey bd.team tid)).hints := rfl

theorem operands_opA {a : BitVec 7} (h : i.aReg = some a) (tid : Nat) :
    (s.operands bd i tid).opA = (s.thread (threadKey bd.team tid)).getV a.toNat := by
  simp only [State.operands, bundleEnv, capture, h]; rfl

theorem operands_opB {b : Opnd} (h : i.opnd = some b) (tid : Nat) :
    (s.operands bd i tid).opB = s.opndB i b (s.thread (threadKey bd.team tid)) := by
  simp only [State.operands, bundleEnv, capture, h, State.opndB]
  cases b <;> rfl

theorem operands_opC {d : BitVec 7} (h : i.dReg = some d) (hl : ∀ sw z d a o p, i ≠ .ldb sw z d a o p) (tid : Nat)
    (hk : i.readsD = true ∨ (i.acceptsMask = true
      ∧ ((s.thread (threadKey bd.team tid)).hints.mask.1 != 0#3
        && !(s.thread (threadKey bd.team tid)).hints.mask.2) = true)) :
    (s.operands bd i tid).opC = (s.thread (threadKey bd.team tid)).getV d.toNat := by
  have hkeep : keepsD (s.thread (threadKey bd.team tid)).hints i = true := by
    rcases hk with hk | ⟨hk1, hk2⟩
    · simp [keepsD, hk]
    · simp only [Bool.and_eq_true, bne_iff_ne, ne_eq, Bool.not_eq_true'] at hk2
      simp [keepsD, hk1, hk2.1, hk2.2]
  have hbase : ∀ t : Thread, t = s.thread (threadKey bd.team tid) → s.issued.thread (threadKey bd.team tid) = t := by
    intro t ht; rw [ht]; rfl
  simp only [State.operands, bundleEnv, capture, hbase _ rfl, h, hkeep, if_true]
  split
  · exact absurd rfl (hl _ _ _ _ _ _)
  · rfl

end

/-! ### The shape of R253 -/

theorem done_writeShort {s u : State} {bd : Bundle} {i : Instr} (h : Issues s bd i) {tid : Nat} (hm : tid ∈ bd.tids)
    (hu : SameBut s u) (hs : u.thread (threadKey bd.team tid) = s.thread (threadKey bd.team tid)) (d : Nat) (x : Word) :
    writeShort u i (s.operands bd i tid) d x = u.setThread (s.operands bd i tid).key
      { (s.thread (threadKey bd.team tid)).setV d x with
        ilock := Tbl.set (s.thread (threadKey bd.team tid)).ilock d (s.now + i.latency) } := by
  simp only [writeShort, updThread_def, operands_key h hm, hs, hu.now]

/-- A lane that writes one short result. -/
theorem runEach_writeV {s : State} {bd : Bundle} {i : Instr} (h : Issues s bd i) (lane : LaneFn) (d : Nat)
    (x : Nat → Word) (hrun : exec i s = runEach i lane s)
    (hl : ∀ tid ∈ bd.tids, ∀ u, SameBut s u → u.thread (threadKey bd.team tid) = s.thread (threadKey bd.team tid) →
      lane (s.operands bd i tid) u = .done (writeShort u i (s.operands bd i tid) d (x tid))) :
    ∃ t, exec i s = .next t ∧ OnlyThreads s t bd ∧ ∀ tid ∈ bd.tids, t.thread (threadKey bd.team tid) =
      (s.thread (threadKey bd.team tid)).wroteV s.now i (s.operands bd i tid) d (x tid) := by
  rw [hrun]
  obtain ⟨t, h1, h2, h3⟩ := runEach_does h lane (fun tid y => y =
      { (s.thread (threadKey bd.team tid)).setV d (x tid) with
        ilock := Tbl.set (s.thread (threadKey bd.team tid)).ilock d (s.now + i.latency) }
      ∧ y.trap = none) (fun tid hm y hy => hy.2) (by
    intro tid hm u hu hs
    rw [LaneDoes, hl tid hm u hu hs, done_writeShort h hm hu hs]
    exact ⟨_, _, rfl, rfl, rfl, h.noTrap hm⟩)
  exact ⟨t, h1, h2, fun tid hm => by obtain ⟨y, ⟨hy, -⟩, h4⟩ := h3 tid hm; rw [h4, hy]; rfl⟩

theorem getM_zero (t : Thread) : t.getM 0 = 0xFF := rfl

theorem bits_ones (k : Nat) (h : k < 8) : (0xFF : BitVec 8).getLsbD k = true := by
  interval_cases k <;> rfl

/-- The old value of d, as the unit captured it, where the mask does not govern and does not zero. -/
theorem old_elem {s : State} {bd : Bundle} {i : Instr} {d : BitVec 7} (hd : i.dReg = some d)
    (hl : ∀ sw z d a o p, i ≠ .ldb sw z d a o p) (hm : i.acceptsMask = true) (tid : Nat) (w j : Nat) (hj : j * w < 64)
    (hg : ¬ governed (s.thread (threadKey bd.team tid)).unitMask w j = true)
    (hz : ¬ (s.thread (threadKey bd.team tid)).unitZ = true) :
    (s.operands bd i tid).opC = (s.thread (threadKey bd.team tid)).getV d.toNat := by
  apply operands_opC hd hl
  right
  refine ⟨hm, ?_⟩
  simp only [Thread.unitZ] at hz
  simp only [hz, Bool.not_false, Bool.and_true, bne_iff_ne, ne_eq]
  intro h0
  apply hg
  simp only [governed, Thread.unitMask, h0]
  exact bits_ones _ (by omega)

/-- The shape of a masked short form (R253). -/
theorem shortOp_form {s : State} {bd : Bundle} {i : Instr} (h : Issues s bd i) (d : BitVec 7) (w : Nat)
    (f' f : Nat → Nat → Nat → Nat) (a b : Thread → Word) (hrun : exec i s = runEach i (shortOp i d w f') s)
    (hd : i.dReg = some d) (hl : ∀ sw z d a o p, i ≠ .ldb sw z d a o p) (hm : i.acceptsMask = true)
    (ha : ∀ tid, (s.operands bd i tid).opA = a (s.thread (threadKey bd.team tid)))
    (hb : ∀ tid, (s.operands bd i tid).opB = b (s.thread (threadKey bd.team tid)))
    (hw : w * (64 / w) ≤ 64)
    (hf : ∀ x y z, x < 2 ^ w → y < 2 ^ w → z < 2 ^ w → f' x y z % 2 ^ w = f x y z)
    (hr : i.readsD = true ∨ ∀ x y z z', f x y z = f x y z') : ShortForm s bd i d w a b f := by
  obtain ⟨t, h1, h2, h3⟩ := runEach_writeV h (shortOp i d w f') d.toNat (fun tid =>
    let e := s.operands bd i tid
    mergeMask w (s.thread (threadKey bd.team tid)).unitMask (s.thread (threadKey bd.team tid)).unitZ e.opC
      ((List.range (64 / w)).map (fun j => f' (elemAt w e.opA j) (elemAt w e.opB j) (elemAt w e.opC j)))) hrun (by
    intro tid hm u hu hs
    simp only [shortOp]
    rfl)
  refine ⟨t, h1, h2, fun tid htid => ⟨_, h3 tid htid, ?_⟩⟩
  intro j hj
  dsimp only
  have hj' : j * w < 64 := by
    have : w * (j + 1) ≤ w * (64 / w) := Nat.mul_le_mul_left _ hj
    have hw0 : 0 < w := by
      rcases Nat.eq_zero_or_pos w with h0 | h0
      · subst h0; simp at hj
      · exact h0
    rw [Nat.mul_comm]; rw [Nat.mul_succ] at this; omega
  rw [elemAt_mergeMask _ _ _ _ _ _ (by simpa using hj) (by simpa using hw)]
  simp only [List.getElem_map, List.getElem_range]
  change (if governed _ w j = true then _ else _) = if governed _ w j = true then _ else _
  by_cases hg : governed (s.thread (threadKey bd.team tid)).unitMask w j = true
  · rw [if_pos hg, if_pos hg, hf _ _ _ (elemAt_lt _ _ _) (elemAt_lt _ _ _) (elemAt_lt _ _ _), ha, hb]
    rcases hr with hr | hr
    · rw [operands_opC hd hl _ (.inl hr)]
    · exact hr _ _ _ _
  · rw [if_neg hg, if_neg hg]
    by_cases hz : (s.thread (threadKey bd.team tid)).unitZ = true
    · rw [if_pos hz, if_pos hz]
    · rw [if_neg hz, if_neg hz, old_elem hd hl hm tid w j hj' hg hz]

/-- A bit of a word by its byte. -/
theorem getLsbD_of_elem (x : Word) (k : Nat) : x.getLsbD k = (elemAt 8 x (k / 8)).testBit (k % 8) := by
  rw [elemAt, Nat.testBit_mod_two_pow, Nat.testBit_div_two_pow]
  have : k % 8 < 8 := Nat.mod_lt _ (by omega)
  simp only [this, decide_true, Bool.true_and, BitVec.getLsbD]
  congr 1
  omega

/-- The shape of a masked form of all 64 bits (R238). -/
theorem wideOp_form {s : State} {bd : Bundle} {i : Instr} (h : Issues s bd i) (d : BitVec 7)
    (f' : Word → Word → Word → Word) (f : Thread → Word) (hrun : exec i s = runEach i (wideOp i d f') s)
    (hd : i.dReg = some d) (hl : ∀ sw z d a o p, i ≠ .ldb sw z d a o p) (hm : i.acceptsMask = true)
    (hf : ∀ tid, f' (s.operands bd i tid).opA (s.operands bd i tid).opB (s.operands bd i tid).opC =
      f (s.thread (threadKey bd.team tid))) : WideForm s bd i d f := by
  obtain ⟨t, h1, h2, h3⟩ := runEach_writeV h (wideOp i d f') d.toNat (fun tid =>
    let e := s.operands bd i tid
    mergeMask 8 (s.thread (threadKey bd.team tid)).unitMask (s.thread (threadKey bd.team tid)).unitZ e.opC
      (elems 8 (f' e.opA e.opB e.opC))) hrun (by
    intro tid hm u hu hs
    simp only [wideOp]
    rfl)
  refine ⟨t, h1, h2, fun tid htid => ⟨_, h3 tid htid, ?_⟩⟩
  intro k hk
  dsimp only
  have hk8 : k / 8 < 8 := by omega
  rw [getLsbD_of_elem, elemAt_mergeMask _ _ _ _ _ _ (by simpa [elems] using hk8) (by simp [elems])]
  simp only [elems, List.getElem_map, List.getElem_range, hf]
  have h8 : (k / 8) * 8 / 8 = k / 8 := by omega
  simp only [governed, h8]
  by_cases hg : (s.thread (threadKey bd.team tid)).unitMask.getLsbD (k / 8) = true
  · rw [if_pos hg, if_pos hg, Nat.mod_eq_of_lt (elemAt_lt _ _ _), ← getLsbD_of_elem]
  · rw [if_neg hg, if_neg hg]
    by_cases hz : (s.thread (threadKey bd.team tid)).unitZ = true
    · rw [if_pos hz, if_pos hz]; simp
    · rw [if_neg hz, if_neg hz,
        old_elem hd hl hm tid 8 (k / 8) (by omega) (by simpa only [governed, h8] using hg) hz, ← getLsbD_of_elem]

/-- The shape of a short form that takes no mask. -/
theorem wordForm_of {s : State} {bd : Bundle} {i : Instr} (h : Issues s bd i) (lane : LaneFn) (d : BitVec 7)
    (f : Env → Thread → Word) (hrun : exec i s = runEach i lane s)
    (hl : ∀ tid ∈ bd.tids, ∀ u, SameBut s u → u.thread (threadKey bd.team tid) = s.thread (threadKey bd.team tid) →
      lane (s.operands bd i tid) u = .done (writeShort u i (s.operands bd i tid) d.toNat
        (f (s.operands bd i tid) (s.thread (threadKey bd.team tid))))) : WordForm s bd i d f :=
  runEach_writeV h lane d.toNat _ hrun hl

/-- The shape of a form that only changes its thread. -/
theorem threadForm_of {s : State} {bd : Bundle} {i : Instr} (h : Issues s bd i) (lane : LaneFn)
    (g : Env → Thread → Thread) (hrun : exec i s = runEach i lane s) (ht : ∀ e th, (g e th).trap = th.trap)
    (hl : ∀ tid ∈ bd.tids, ∀ u, SameBut s u → u.thread (threadKey bd.team tid) = s.thread (threadKey bd.team tid) →
      lane (s.operands bd i tid) u = .done (u.setThread (s.operands bd i tid).key
        (g (s.operands bd i tid) (s.thread (threadKey bd.team tid))))) : ThreadForm s bd i g := by
  obtain ⟨t, h1, h2, h3⟩ := runEach_does h lane (fun tid y =>
      y = g (s.operands bd i tid) (s.thread (threadKey bd.team tid)) ∧ y.trap = none) (fun tid hm y hy => hy.2) (by
    intro tid hm u hu hs
    rw [LaneDoes, hl tid hm u hu hs]
    exact ⟨_, _, rfl, rfl, rfl, (ht _ _).trans (h.noTrap hm)⟩)
  refine ⟨t, hrun ▸ h1, h2, fun tid hm => ?_⟩
  obtain ⟨y, ⟨hy, -⟩, h4⟩ := h3 tid hm
  rw [h4, hy]

@[simp] theorem Thread.setM_trap (t : Thread) (r : Nat) (x : BitVec 8) : (t.setM r x).trap = t.trap := by
  simp only [Thread.setM]; split <;> rfl

/-- The shape of a form that writes a mask register. -/
theorem maskForm_of {s : State} {bd : Bundle} {i : Instr} (h : Issues s bd i) (lane : LaneFn) (r : BitVec 3)
    (x : Nat → BitVec 8) (f : Thread → Nat → Bool) (hrun : exec i s = runEach i lane s)
    (hl : ∀ tid ∈ bd.tids, ∀ u, SameBut s u → u.thread (threadKey bd.team tid) = s.thread (threadKey bd.team tid) →
      lane (s.operands bd i tid) u = .done (writeMask u i (s.operands bd i tid) r.toNat (x tid)))
    (hx : ∀ tid ∈ bd.tids, ∀ k, k < 8 → (x tid).getLsbD k = f (s.thread (threadKey bd.team tid)) k) :
    MaskForm s bd i r f := by
  obtain ⟨t, h1, h2, h3⟩ := runEach_does h lane (fun tid y => y =
      { (s.thread (threadKey bd.team tid)).setM r.toNat (x tid) with
        ilock := Tbl.set (s.thread (threadKey bd.team tid)).ilock (128 + r.toNat) (s.now + i.latency) }
      ∧ y.trap = none) (fun tid hm y hy => hy.2) (by
    intro tid hm u hu hs
    rw [LaneDoes, hl tid hm u hu hs]
    simp only [writeMask, updThread_def, operands_key h hm, hs, hu.now]
    refine ⟨_, _, rfl, rfl, ?_, ?_⟩
    · rfl
    · exact (Thread.setM_trap _ _ _).trans (h.noTrap hm))
  refine ⟨t, hrun ▸ h1, h2, fun tid hm => ?_⟩
  obtain ⟨y, ⟨hy, -⟩, h4⟩ := h3 tid hm
  exact ⟨x tid, by rw [h4, hy]; rfl, hx tid hm⟩

/-- The bits of a compare's mask (R201). -/
theorem getLsbD_maskBits (w : Nat) (f : Nat → Bool) (k : Nat) (hk : k < 8) :
    (maskBits w f).getLsbD k = f (k * 8 / w) := by
  have h := packNat_elem 1 ((List.range 8).map (fun j => if f (j * 8 / w) then 1 else 0)) k (by simpa using hk)
  simp only [List.getElem_map, List.getElem_range, Nat.one_mul, Nat.pow_one] at h
  simp only [maskBits, BitVec.getLsbD, BitVec.toNat_ofNat]
  rw [Nat.testBit_mod_two_pow, Nat.testBit]
  simp only [hk, decide_true, Bool.true_and, Nat.shiftRight_eq_div_pow, Nat.one_and_eq_mod_two]
  rw [h]
  split <;> simp_all

end Sys2Proof.Machine
end

