-- ==== Sys2Proof/Laws/FloatForms.lean ====
section
/-! SUPPORT. The shape of a float form (R288 to R292), and of a long form whose result is ready. -/

namespace Sys2Proof.Machine

theorem te_eq (th : Thread) : trapEnables th.fpctl = th.te := by
  simp only [trapEnables, Thread.te, bitsOf]
  apply BitVec.eq_of_toNat_eq
  simp only [BitVec.toNat_ofNat, BitVec.toNat_setWidth, BitVec.extractLsb'_toNat, Nat.shiftRight_eq_div_pow]

theorem ftz_eq (th : Thread) : ftzOf th.fpctl = th.ftz := rfl

theorem mode_eq (own : RMode) (th : Thread) : roundOf own th.fpctl th.hints = th.mode own := by
  simp only [roundOf, Thread.mode]
  split
  · rfl
  · split
    · congr 1
      simp [bitsOf, Nat.shiftRight_eq_div_pow]
    · rfl

/-- The OR of a list of flags, bit by bit. -/
theorem getLsbD_foldl_or (l : List (BitVec 6)) (z : BitVec 6) (k : Nat) :
    (l.foldl (· ||| ·) z).getLsbD k = (z.getLsbD k || l.any (fun x => x.getLsbD k)) := by
  induction l generalizing z with
  | nil => simp
  | cons x l ih => simp only [List.foldl_cons, ih, BitVec.getLsbD_or, List.any_cons, Bool.or_assoc]

/-- The flags of a float form, bit by bit. -/
theorem getLsbD_floatFlags (w : Nat) (m : BitVec 8) (f : Nat → FRes) (k : Nat) :
    ((floatResults w m f).2).getLsbD k = decide (∃ j, j < 64 / w ∧ governed m w j = true ∧ (f j).flags.getLsbD k = true) := by
  simp only [floatResults, getLsbD_foldl_or]
  rw [show (0 : BitVec 6).getLsbD k = false by simp, Bool.false_or, Bool.eq_iff_iff, List.any_eq_true,
    decide_eq_true_eq]
  constructor
  · rintro ⟨x, hx, hk⟩
    rw [List.mem_mapIdx] at hx
    obtain ⟨j, hj, rfl⟩ := hx
    simp only [List.length_map, List.length_range] at hj
    simp only [List.getElem_map, List.getElem_range] at hk
    refine ⟨j, hj, ?_⟩
    split at hk
    · exact ⟨‹_›, hk⟩
    · simp at hk
  · rintro ⟨j, hj, hg, hk⟩
    refine ⟨(f j).flags, ?_, hk⟩
    rw [List.mem_mapIdx]
    exact ⟨j, by simpa using hj, by simp [hg]⟩

theorem raises_floatFlags (w : Nat) (m : BitVec 8) (f : Nat → FRes) (th : Thread)
    (h : ∀ j, j < 64 / w → governed m w j = true → (f j).flags &&& th.te = 0) :
    raisesFpx th.fpctl (floatResults w m f).2 = false := by
  simp only [raisesFpx, te_eq, bne_eq_false_iff_eq]
  apply BitVec.eq_of_getLsbD_eq
  intro k hk
  simp only [BitVec.getLsbD_and, getLsbD_floatFlags, BitVec.ofNat_eq_ofNat, BitVec.getLsbD_zero, Bool.and_eq_false_iff,
    decide_eq_false_iff_not]
  by_cases hx : ∃ j, j < 64 / w ∧ governed m w j = true ∧ (f j).flags.getLsbD k = true
  · right
    obtain ⟨j, hj, hg, hb⟩ := hx
    have := congrArg (fun x => x.getLsbD k) (h j hj hg)
    simpa [hb] using this
  · exact .inl hx

/-- The shape of a float form. -/
theorem floatOp_form {s : State} {bd : Bundle} {i : Instr} (h : Issues s bd i) (d : BitVec 7) (w : Nat)
    (lane : LaneFn) (r : Thread → Nat → FRes) (hrun : exec i s = runEach i lane s)
    (hd : i.dReg = some d) (hl : ∀ sw z d a o p, i ≠ .ldb sw z d a o p) (hm : i.acceptsMask = true)
    (hw : w * (64 / w) ≤ 64)
    (hlane : ∀ tid ∈ bd.tids, ∀ u, u.thread (threadKey bd.team tid) = s.thread (threadKey bd.team tid) →
      ∃ f : Nat → FRes, (∀ j, j < 64 / w → governed (s.thread (threadKey bd.team tid)).unitMask w j = true →
          f j = r (s.thread (threadKey bd.team tid)) j)
        ∧ lane (s.operands bd i tid) u = withFlags u (s.operands bd i tid)
            (floatResults w (s.thread (threadKey bd.team tid)).unitMask f).2
            (fun u => writeShort u i (s.operands bd i tid) d.toNat
              (mergeMask w (s.thread (threadKey bd.team tid)).unitMask (s.thread (threadKey bd.team tid)).unitZ
                (s.operands bd i tid).opC
                (floatResults w (s.thread (threadKey bd.team tid)).unitMask f).1))) :
    FloatForm s bd i d w r := by
  intro hfpx
  rw [EachThread, EachThreadOn, hrun]
  refine runEach_ends h lane (fun tid y => ∃ (x : Word) (fl : BitVec 6),
    y = ({ s.thread (threadKey bd.team tid) with fpf := fl } : Thread).wroteV s.now i (s.operands bd i tid) d.toNat x
    ∧ (∀ j, j < 64 / w → elemAt w x j =
        if (s.thread (threadKey bd.team tid)).unitMask.getLsbD (j * w / 8) then
          (r (s.thread (threadKey bd.team tid)) j).bits % 2 ^ w
        else if (s.thread (threadKey bd.team tid)).unitZ then 0
        else elemAt w ((s.thread (threadKey bd.team tid)).getV d.toNat) j)
    ∧ ∀ k, k < 6 → fl.getLsbD k = ((s.thread (threadKey bd.team tid)).fpf.getLsbD k || decide (∃ j, j < 64 / w
        ∧ (s.thread (threadKey bd.team tid)).unitMask.getLsbD (j * w / 8) = true
        ∧ (r (s.thread (threadKey bd.team tid)) j).flags.getLsbD k = true))) ?_ ?_
  · rintro tid hm _ ⟨x, fl, rfl, -⟩
    simp only [Thread.wroteV, Thread.complete_trap]
    exact h.noTrap hm
  · intro tid htid u hu hs
    obtain ⟨f, hf, hf2⟩ := hlane tid htid u hs
    have hno : raisesFpx (u.thread (s.operands bd i tid).key).fpctl
        (floatResults w (s.thread (threadKey bd.team tid)).unitMask f).2 = false := by
      rw [operands_key h htid, hs]
      exact raises_floatFlags _ _ _ _ (fun j hj hg => by rw [hf j hj hg]; exact hfpx tid htid j hj hg)
    rw [withFlags, hno] at hf2
    simp only [Bool.false_eq_true, if_false] at hf2
    have hd' : LaneDoes lane (s.operands bd i tid) u (fun y => y =
        { ({ s.thread (threadKey bd.team tid) with
            fpf := (s.thread (threadKey bd.team tid)).fpf ||| (floatResults w (s.thread (threadKey bd.team tid)).unitMask f).2
          } : Thread).setV d.toNat (mergeMask w (s.thread (threadKey bd.team tid)).unitMask
            (s.thread (threadKey bd.team tid)).unitZ (s.operands bd i tid).opC
            (floatResults w (s.thread (threadKey bd.team tid)).unitMask f).1) with
          ilock := Tbl.set (s.thread (threadKey bd.team tid)).ilock d.toNat (s.now + i.latency) }) := by
      rw [LaneDoes, hf2]
      simp only [writeShort, updThread_def, operands_key h htid, State.setThread_thread_self, hs, State.setThread_now,
        hu.now]
      refine ⟨_, _, rfl, ?_, rfl⟩
      simp only [State.setThread, Tbl.set_set]
      rfl
    obtain ⟨u', y, e1, e2, x, rfl, rfl⟩ := hd'.ends (i := i)
    refine ⟨u', _, e1, e2, _, _, rfl, ?_, ?_⟩
    · intro j hj
      have hj' : j * w < 64 := by
        have : w * (j + 1) ≤ w * (64 / w) := Nat.mul_le_mul_left _ hj
        have hw0 : 0 < w := by
          rcases Nat.eq_zero_or_pos w with h0 | h0
          · subst h0; simp at hj
          · exact h0
        rw [Nat.mul_comm]; rw [Nat.mul_succ] at this; omega
      rw [elemAt_mergeMask _ _ _ _ _ _ (by simpa [floatResults] using hj) (by simpa [floatResults] using hw)]
      simp only [floatResults, List.getElem_map, List.getElem_range]
      change (if governed _ w j = true then _ else _) = if governed _ w j = true then _ else _
      by_cases hg : governed (s.thread (threadKey bd.team tid)).unitMask w j = true
      · rw [if_pos hg, if_pos hg, hf j hj hg]
      · rw [if_neg hg, if_neg hg]
        by_cases hz : (s.thread (threadKey bd.team tid)).unitZ = true
        · rw [if_pos hz, if_pos hz]
        · rw [if_neg hz, if_neg hz, old_elem hd hl hm tid w j hj' hg hz]
    · intro k hk
      simp only [BitVec.getLsbD_or, getLsbD_floatFlags]
      congr 1
      simp only [decide_eq_decide]
      constructor
      · rintro ⟨j, hj, hg, hb⟩; exact ⟨j, hj, hg, by rwa [← hf j hj hg]⟩
      · rintro ⟨j, hj, hg, hb⟩; exact ⟨j, hj, hg, by rwa [hf j hj hg]⟩

end Sys2Proof.Machine
end

