-- ==== Sys2Proof/Laws/Launches.lean ====
section
/-! SUPPORT. What the sequencer's book of reservations can change (R375): the reservations of launches, and what is open on a core. -/

namespace Sys2Proof.Machine

/-- `t` is `s` but for its launches and for what is open on its cores. -/
def SameButHolds (s t : State) : Prop :=
  (∃ cores launches, t = { s with cores := cores, launches := launches })
    ∧ ∀ c, t.core c = { s.core c with opens := (t.core c).opens }

theorem SameButHolds.refl (s : State) : SameButHolds s s := ⟨⟨s.cores, s.launches, rfl⟩, fun _ => rfl⟩

theorem SameButHolds.trans {s t u : State} (h : SameButHolds s t) (k : SameButHolds t u) : SameButHolds s u := by
  obtain ⟨⟨cs, ls, rfl⟩, h2⟩ := h
  obtain ⟨⟨ds, ms, rfl⟩, k2⟩ := k
  exact ⟨⟨ds, ms, rfl⟩, fun c => by rw [k2 c, h2 c]⟩

/-- A fold of such changes is one. -/
theorem SameButHolds.foldl {α : Type} (f : State → α → State) (hf : ∀ s a, SameButHolds s (f s a)) (l : List α) (s : State) :
    SameButHolds s (l.foldl f s) := by
  induction l generalizing s with
  | nil => exact .refl s
  | cons a l ih => exact (hf s a).trans (ih (f s a))

/-- setHolds changes the reservations, and what is open on its core. -/
theorem setHolds_same (s : State) (core ctx r taken : Nat) (hs : List (Nat × Nat)) :
    SameButHolds s (setHolds s core ctx r taken hs) := by
  refine ⟨⟨_, _, rfl⟩, fun c => ?_⟩
  simp only [setHolds, State.updCore, State.setCore, State.core, Tbl.getD]
  by_cases h : c = core
  · subst h; simp [Tbl.get?_set_self]
  · simp [Tbl.get?_set_ne _ _ _ _ h]

/-- takeOpen changes nothing else. -/
theorem takeOpen_same (s : State) (id core ctx : Nat) (need : List Nat) : SameButHolds s (takeOpen s id core ctx need) :=
  .foldl _ (fun s r => by
    dsimp only
    split
    · exact .refl s
    · exact setHolds_same ..) _ s

/-- Nor does ageHolds. -/
theorem ageHolds_same (s : State) (id : Nat) (l : Launch) (core r : Nat) : SameButHolds s (ageHolds s id l core r) :=
  setHolds_same ..

/-- A gang that becomes aged changes launches, and what is open on cores; its threads and teams, memories and counts stay. -/
theorem execGangAged_same (s : State) (id : Nat) : ∃ t, execGangAged id s = .next t ∧ SameButHolds s t := by
  refine ⟨_, rfl, ?_⟩
  split
  · split
    · rename_i l _ _
      have h := SameButHolds.foldl (fun (s : State) c => (List.range 6).foldl (fun s r => ageHolds s id l c r) s)
        (fun s c => .foldl _ (fun s r => ageHolds_same s id l c r) _ s) (l.rects.flatMap (rectangle l.record)).dedup s
      dsimp only
      split
      · exact h.trans ⟨⟨_, _, rfl⟩, fun _ => rfl⟩
      · exact h
    · exact .refl s
  · exact .refl s

end Sys2Proof.Machine
end

