-- ==== Sys2Proof/Laws/Memories.lean ====
section
/-! SUPPORT. Every operation over a memory keeps its canonical form. -/

namespace Sys2Proof.Machine

theorem Memory.wfFrom_filter {m : Memory} {lo : Nat} (p : Host.Cell → Bool) (h : Memory.wfFrom lo m = true) :
    Memory.wfFrom lo (List.filter p m) = true := by
  induction m generalizing lo with
  | nil => rfl
  | cons c m ih =>
    obtain ⟨k, b⟩ := c
    have h' := h
    simp only [Memory.wfFrom, Bool.and_eq_true, decide_eq_true_eq] at h'
    rw [List.filter_cons]
    split
    · simp only [Memory.wfFrom, Bool.and_eq_true, decide_eq_true_eq]
      exact ⟨h'.1, ih h'.2⟩
    · exact wfFrom_mono (by omega) (ih h'.2)

/-- Dropping cells keeps the canonical form. -/
theorem Memory.wf_filter {m : Memory} (p : Host.Cell → Bool) (h : m.wf = true) : Memory.wf (List.filter p m) = true :=
  wfFrom_filter p h

theorem Memory.wf_clear {m : Memory} (a n : Nat) (h : m.wf = true) : (m.clear a n).wf = true := wf_filter _ h

theorem Memory.wf_writeCells {m : Memory} (cs : Memory) (h : m.wf = true) : (m.writeCells cs).wf = true := by
  unfold Memory.writeCells
  induction cs generalizing m with
  | nil => exact h
  | cons c cs ih => exact ih (wf_write c.1 c.2 h)

/-- A copy of a range keeps the canonical form. -/
theorem Memory.wf_copy {m : Memory} (src dst n : Nat) (h : m.wf = true) : (m.copy src dst n).wf = true :=
  wf_writeCells _ (wf_clear _ _ h)

theorem Memory.wf_outside {m : Memory} (h : m.wf = true) : (outsideMemory m).wf = true := wf_filter _ h

theorem Memory.readN_length (m : Memory) (a n : Nat) : (m.readN a n).length = n := by
  induction n generalizing a with
  | zero => rfl
  | succ n ih => simp [Memory.readN, ih]

/-- A write of bytes leaves every byte outside them as it was. -/
theorem Memory.read_writeN_outside {m : Memory} (a k : Nat) (bs : List Byte) (h : m.wf = true)
    (hk : k < a ∨ a + bs.length ≤ k) : Memory.read (m.writeN a bs) k = Memory.read m k := by
  induction bs generalizing m a with
  | nil => rfl
  | cons b bs ih =>
    simp only [List.length_cons] at hk
    rw [Memory.writeN, ih (a + 1) (wf_write a b h) (by omega), read_write a k b h, if_neg (by omega)]

/-- A write of bytes stores each at its place. -/
theorem Memory.read_writeN {m : Memory} (a i : Nat) (bs : List Byte) (h : m.wf = true) (hi : i < bs.length) :
    Memory.read (m.writeN a bs) (a + i) = bs[i] := by
  induction bs generalizing m a i with
  | nil => simp at hi
  | cons b bs ih =>
    rw [Memory.writeN]
    cases i with
    | zero => rw [read_writeN_outside (a + 1) (a + 0) bs (wf_write a b h) (by omega), read_write a _ b h]; simp
    | succ i =>
      have hi' : i < bs.length := by simpa using hi
      have := ih (a + 1) i (wf_write a b h) hi'
      rw [show a + (i + 1) = a + 1 + i by omega, this]; simp

/-! ### Memories of the state -/

theorem homeStore_phys (s : State) (die line : Nat) (whole : List Nat) : (homeStore s die line whole).phys = s.phys := rfl

theorem homeStores_phys (s : State) (die : Nat) (f : Nat → List Nat) (ls : List Nat) :
    (ls.foldl (fun u l => homeStore u die l (f l)) s).phys = s.phys := by
  induction ls generalizing s with
  | nil => rfl
  | cons l ls ih => rw [List.foldl_cons, ih, homeStore_phys]

theorem unpoison_phys (s : State) (f : Nat → Nat) (a n : Nat) : (unpoison s f a n).phys = s.phys := by
  unfold unpoison; split <;> rfl

theorem clearTags_phys (s : State) (lo hi : Nat) : (clearTags s lo hi).phys = s.phys := by
  unfold clearTags; split <;> rfl

/-- A write performed at home changes physical memory by its bytes alone. -/
theorem physWrite_phys (s : State) (a : Nat) (bs : List Byte) : (physWrite s a bs).phys = s.phys.writeN a bs := by
  unfold physWrite
  simp only
  split
  · split
    · rfl
    · rw [clearTags_phys, homeStores_phys]
  · rw [unpoison_phys]

theorem physWrite_wf {s : State} (a : Nat) (bs : List Byte) (h : s.phys.wf = true) : (physWrite s a bs).phys.wf = true := by
  rw [physWrite_phys]; exact Memory.wf_writeN a bs h

end Sys2Proof.Machine
end

