-- ==== Sys2Proof/Laws/PerInstr.lean ====
section
/-! SUPPORT. One lemma per instruction about its words: three at most, and none only for a step of the machine's own. -/

namespace Sys2Proof

/-- An instruction has at most three words (R176, R179), and none exactly when no row encodes it. -/
def Laws.Words.Statement (i : Instr) : Prop := i.size ≤ 3 ∧ (i.size = 0 ↔ encodeWord i = none)

theorem Laws.Words.all (i : Instr) : Laws.Words.Statement i := by
  have hl : ∀ b : Opnd, b.literals.length ≤ 2 := fun b => by cases b <;> simp [Opnd.literals]
  unfold Laws.Words.Statement Instr.size encode
  cases encodeWord i with
  | none => simp
  | some w =>
    cases i.opnd with
    | none => simp
    | some b => have := hl b; simp; omega

theorem Laws.Words.br (sw : Bool) (m : BitVec 3) (p : Bool) (o : BitVec 21) :
    Laws.Words.Statement (.br sw m p o) := Laws.Words.all _
theorem Laws.Words.brs (sw : Bool) (m : BitVec 3) (p : Bool) (o : BitVec 21) :
    Laws.Words.Statement (.brs sw m p o) := Laws.Words.all _
theorem Laws.Words.jmp (sw : Bool) (o : BitVec 25) :
    Laws.Words.Statement (.jmp sw o) := Laws.Words.all _
theorem Laws.Words.call (sw : Bool) (o : BitVec 25) :
    Laws.Words.Statement (.call sw o) := Laws.Words.all _
theorem Laws.Words.jmpr (sw : Bool) (a : BitVec 7) :
    Laws.Words.Statement (.jmpr sw a) := Laws.Words.all _
theorem Laws.Words.callr (sw : Bool) (a : BitVec 7) :
    Laws.Words.Statement (.callr sw a) := Laws.Words.all _
theorem Laws.Words.ret (sw : Bool) :
    Laws.Words.Statement (.ret sw) := Laws.Words.all _
theorem Laws.Words.exit (sw : Bool) :
    Laws.Words.Statement (.exit sw) := Laws.Words.all _
theorem Laws.Words.trap (sw : Bool) (b : Opnd) :
    Laws.Words.Statement (.trap sw b) := Laws.Words.all _
theorem Laws.Words.rtt (sw : Bool) :
    Laws.Words.Statement (.rtt sw) := Laws.Words.all _
theorem Laws.Words.bkpt (sw : Bool) :
    Laws.Words.Statement (.bkpt sw) := Laws.Words.all _
theorem Laws.Words.bar (sw : Bool) (i : BitVec 4) :
    Laws.Words.Statement (.bar sw i) := Laws.Words.all _
theorem Laws.Words.cbar (sw : Bool) (i : BitVec 2) :
    Laws.Words.Statement (.cbar sw i) := Laws.Words.all _
theorem Laws.Words.sleep (sw : Bool) (b : Opnd) :
    Laws.Words.Statement (.sleep sw b) := Laws.Words.all _
theorem Laws.Words.nop (sw : Bool) :
    Laws.Words.Statement (.nop sw) := Laws.Words.all _
theorem Laws.Words.mfs (sw : Bool) (d : BitVec 7) (r : BitVec 7) :
    Laws.Words.Statement (.mfs sw d r) := Laws.Words.all _
theorem Laws.Words.mts (sw : Bool) (r : BitVec 7) (b : Opnd) :
    Laws.Words.Statement (.mts sw r b) := Laws.Words.all _
theorem Laws.Words.rdfpf (sw : Bool) (d : BitVec 7) :
    Laws.Words.Statement (.rdfpf sw d) := Laws.Words.all _
theorem Laws.Words.clfpf (sw : Bool) (b : Opnd) :
    Laws.Words.Statement (.clfpf sw b) := Laws.Words.all _
theorem Laws.Words.add (sw : Bool) (w : W) (d : BitVec 7) (a : BitVec 7) (b : Opnd) :
    Laws.Words.Statement (.add sw w d a b) := Laws.Words.all _
theorem Laws.Words.sub (sw : Bool) (w : W) (d : BitVec 7) (a : BitVec 7) (b : Opnd) :
    Laws.Words.Statement (.sub sw w d a b) := Laws.Words.all _
theorem Laws.Words.addSat (sw : Bool) (t : IT) (d : BitVec 7) (a : BitVec 7) (b : Opnd) :
    Laws.Words.Statement (.addSat sw t d a b) := Laws.Words.all _
theorem Laws.Words.subSat (sw : Bool) (t : IT) (d : BitVec 7) (a : BitVec 7) (b : Opnd) :
    Laws.Words.Statement (.subSat sw t d a b) := Laws.Words.all _
theorem Laws.Words.mul (sw : Bool) (w : W) (d : BitVec 7) (a : BitVec 7) (b : Opnd) :
    Laws.Words.Statement (.mul sw w d a b) := Laws.Words.all _
theorem Laws.Words.mad (sw : Bool) (w : W) (d : BitVec 7) (a : BitVec 7) (b : Opnd) :
    Laws.Words.Statement (.mad sw w d a b) := Laws.Words.all _
theorem Laws.Words.mulh (sw : Bool) (t : IT) (d : BitVec 7) (a : BitVec 7) (b : Opnd) :
    Laws.Words.Statement (.mulh sw t d a b) := Laws.Words.all _
theorem Laws.Words.div (sw : Bool) (t : BitVec 2) (d : BitVec 7) (a : BitVec 7) (b : Opnd) :
    Laws.Words.Statement (.div sw t d a b) := Laws.Words.all _
theorem Laws.Words.rem (sw : Bool) (t : BitVec 2) (d : BitVec 7) (a : BitVec 7) (b : Opnd) :
    Laws.Words.Statement (.rem sw t d a b) := Laws.Words.all _
theorem Laws.Words.and (sw : Bool) (d : BitVec 7) (a : BitVec 7) (b : Opnd) :
    Laws.Words.Statement (.and sw d a b) := Laws.Words.all _
theorem Laws.Words.or (sw : Bool) (d : BitVec 7) (a : BitVec 7) (b : Opnd) :
    Laws.Words.Statement (.or sw d a b) := Laws.Words.all _
theorem Laws.Words.xor (sw : Bool) (d : BitVec 7) (a : BitVec 7) (b : Opnd) :
    Laws.Words.Statement (.xor sw d a b) := Laws.Words.all _
theorem Laws.Words.andn (sw : Bool) (d : BitVec 7) (a : BitVec 7) (b : Opnd) :
    Laws.Words.Statement (.andn sw d a b) := Laws.Words.all _
theorem Laws.Words.orn (sw : Bool) (d : BitVec 7) (a : BitVec 7) (b : Opnd) :
    Laws.Words.Statement (.orn sw d a b) := Laws.Words.all _
theorem Laws.Words.xnor (sw : Bool) (d : BitVec 7) (a : BitVec 7) (b : Opnd) :
    Laws.Words.Statement (.xnor sw d a b) := Laws.Words.all _
theorem Laws.Words.not (sw : Bool) (d : BitVec 7) (b : Opnd) :
    Laws.Words.Statement (.not sw d b) := Laws.Words.all _
theorem Laws.Words.mov (sw : Bool) (d : BitVec 7) (b : Opnd) :
    Laws.Words.Statement (.mov sw d b) := Laws.Words.all _
theorem Laws.Words.shl (sw : Bool) (w : W) (d : BitVec 7) (a : BitVec 7) (b : Opnd) :
    Laws.Words.Statement (.shl sw w d a b) := Laws.Words.all _
theorem Laws.Words.shr (sw : Bool) (w : W) (d : BitVec 7) (a : BitVec 7) (b : Opnd) :
    Laws.Words.Statement (.shr sw w d a b) := Laws.Words.all _
theorem Laws.Words.sar (sw : Bool) (w : W) (d : BitVec 7) (a : BitVec 7) (b : Opnd) :
    Laws.Words.Statement (.sar sw w d a b) := Laws.Words.all _
theorem Laws.Words.rol (sw : Bool) (w : W) (d : BitVec 7) (a : BitVec 7) (b : Opnd) :
    Laws.Words.Statement (.rol sw w d a b) := Laws.Words.all _
theorem Laws.Words.min (sw : Bool) (t : IT) (d : BitVec 7) (a : BitVec 7) (b : Opnd) :
    Laws.Words.Statement (.min sw t d a b) := Laws.Words.all _
theorem Laws.Words.max (sw : Bool) (t : IT) (d : BitVec 7) (a : BitVec 7) (b : Opnd) :
    Laws.Words.Statement (.max sw t d a b) := Laws.Words.all _
theorem Laws.Words.cmp (sw : Bool) (t : IT) (c : BitVec 3) (m : BitVec 3) (a : BitVec 7) (b : Opnd) :
    Laws.Words.Statement (.cmp sw t c m a b) := Laws.Words.all _
theorem Laws.Words.abs (sw : Bool) (d : BitVec 7) (t : IT) (b : Opnd) :
    Laws.Words.Statement (.abs sw d t b) := Laws.Words.all _
theorem Laws.Words.neg (sw : Bool) (d : BitVec 7) (t : IT) (b : Opnd) :
    Laws.Words.Statement (.neg sw d t b) := Laws.Words.all _
theorem Laws.Words.clz (sw : Bool) (d : BitVec 7) (t : IT) (b : Opnd) :
    Laws.Words.Statement (.clz sw d t b) := Laws.Words.all _
theorem Laws.Words.popc (sw : Bool) (d : BitVec 7) (t : IT) (b : Opnd) :
    Laws.Words.Statement (.popc sw d t b) := Laws.Words.all _
theorem Laws.Words.cvtInt (sw : Bool) (d : BitVec 7) (u : Bool) (y : IT) (z : IT) (b : Opnd) :
    Laws.Words.Statement (.cvtInt sw d u y z b) := Laws.Words.all _
theorem Laws.Words.sel (sw : Bool) (m : BitVec 3) (d : BitVec 7) (a : BitVec 7) (b : Opnd) :
    Laws.Words.Statement (.sel sw m d a b) := Laws.Words.all _
theorem Laws.Words.bfe (sw : Bool) (d : BitVec 7) (a : BitVec 7) (b : Opnd) :
    Laws.Words.Statement (.bfe sw d a b) := Laws.Words.all _
theorem Laws.Words.bfeI (sw : Bool) (d : BitVec 7) (a : BitVec 7) (b : Opnd) :
    Laws.Words.Statement (.bfeI sw d a b) := Laws.Words.all _
theorem Laws.Words.bfi (sw : Bool) (d : BitVec 7) (a : BitVec 7) (b : Opnd) :
    Laws.Words.Statement (.bfi sw d a b) := Laws.Words.all _
theorem Laws.Words.setc (sw : Bool) (c : BitVec 6) (b : Opnd) :
    Laws.Words.Statement (.setc sw c b) := Laws.Words.all _
theorem Laws.Words.movk (sw : Bool) (d : BitVec 7) (k : BitVec 3) :
    Laws.Words.Statement (.movk sw d k) := Laws.Words.all _
theorem Laws.Words.movm (sw : Bool) (d : BitVec 7) (m : BitVec 3) :
    Laws.Words.Statement (.movm sw d m) := Laws.Words.all _
theorem Laws.Words.setm (sw : Bool) (m : BitVec 3) (b : Opnd) :
    Laws.Words.Statement (.setm sw m b) := Laws.Words.all _
theorem Laws.Words.movq (sw : Bool) (d : BitVec 7) (q : BitVec 3) :
    Laws.Words.Statement (.movq sw d q) := Laws.Words.all _
theorem Laws.Words.setq (sw : Bool) (q : BitVec 3) (b : Opnd) :
    Laws.Words.Statement (.setq sw q b) := Laws.Words.all _
theorem Laws.Words.shuf (sw : Bool) (w : W) (d : BitVec 7) (a : BitVec 7) (b : Opnd) :
    Laws.Words.Statement (.shuf sw w d a b) := Laws.Words.all _
theorem Laws.Words.voteAny (sw : Bool) (d : BitVec 7) (b : Opnd) :
    Laws.Words.Statement (.voteAny sw d b) := Laws.Words.all _
theorem Laws.Words.voteAll (sw : Bool) (d : BitVec 7) (b : Opnd) :
    Laws.Words.Statement (.voteAll sw d b) := Laws.Words.all _
theorem Laws.Words.voteBallot (sw : Bool) (d : BitVec 7) (b : Opnd) :
    Laws.Words.Statement (.voteBallot sw d b) := Laws.Words.all _
theorem Laws.Words.elect (sw : Bool) (d : BitVec 7) :
    Laws.Words.Statement (.elect sw d) := Laws.Words.all _
theorem Laws.Words.matchAny (sw : Bool) (d : BitVec 7) (b : Opnd) :
    Laws.Words.Statement (.matchAny sw d b) := Laws.Words.all _
theorem Laws.Words.redux (sw : Bool) (d : BitVec 7) (o : BitVec 3) (e : BitVec 4) (b : Opnd) :
    Laws.Words.Statement (.redux sw d o e b) := Laws.Words.all _
theorem Laws.Words.scanIncl (sw : Bool) (d : BitVec 7) (o : BitVec 3) (e : BitVec 4) (b : Opnd) :
    Laws.Words.Statement (.scanIncl sw d o e b) := Laws.Words.all _
theorem Laws.Words.scanExcl (sw : Bool) (d : BitVec 7) (o : BitVec 3) (e : BitVec 4) (b : Opnd) :
    Laws.Words.Statement (.scanExcl sw d o e b) := Laws.Words.all _
theorem Laws.Words.pack6 (sw : Bool) (d : BitVec 7) (u : Bool) (f : BitVec 5) (b : Opnd) :
    Laws.Words.Statement (.pack6 sw d u f b) := Laws.Words.all _
theorem Laws.Words.unpack6 (sw : Bool) (d : BitVec 7) (f : BitVec 5) (b : Opnd) :
    Laws.Words.Statement (.unpack6 sw d f b) := Laws.Words.all _
theorem Laws.Words.addF (sw : Bool) (f : FT) (d : BitVec 7) (a : BitVec 7) (b : Opnd) :
    Laws.Words.Statement (.addF sw f d a b) := Laws.Words.all _
theorem Laws.Words.subF (sw : Bool) (f : FT) (d : BitVec 7) (a : BitVec 7) (b : Opnd) :
    Laws.Words.Statement (.subF sw f d a b) := Laws.Words.all _
theorem Laws.Words.mulF (sw : Bool) (f : FT) (d : BitVec 7) (a : BitVec 7) (b : Opnd) :
    Laws.Words.Statement (.mulF sw f d a b) := Laws.Words.all _
theorem Laws.Words.scale (sw : Bool) (f : FT) (d : BitVec 7) (a : BitVec 7) (b : Opnd) :
    Laws.Words.Statement (.scale sw f d a b) := Laws.Words.all _
theorem Laws.Words.fma (sw : Bool) (f : FT) (d : BitVec 7) (a : BitVec 7) (b : Opnd) :
    Laws.Words.Statement (.fma sw f d a b) := Laws.Words.all _
theorem Laws.Words.fms (sw : Bool) (f : FT) (d : BitVec 7) (a : BitVec 7) (b : Opnd) :
    Laws.Words.Statement (.fms sw f d a b) := Laws.Words.all _
theorem Laws.Words.minF (sw : Bool) (f : FT) (d : BitVec 7) (a : BitVec 7) (b : Opnd) :
    Laws.Words.Statement (.minF sw f d a b) := Laws.Words.all _
theorem Laws.Words.minnum (sw : Bool) (f : FT) (d : BitVec 7) (a : BitVec 7) (b : Opnd) :
    Laws.Words.Statement (.minnum sw f d a b) := Laws.Words.all _
theorem Laws.Words.maxF (sw : Bool) (f : FT) (d : BitVec 7) (a : BitVec 7) (b : Opnd) :
    Laws.Words.Statement (.maxF sw f d a b) := Laws.Words.all _
theorem Laws.Words.maxnum (sw : Bool) (f : FT) (d : BitVec 7) (a : BitVec 7) (b : Opnd) :
    Laws.Words.Statement (.maxnum sw f d a b) := Laws.Words.all _
theorem Laws.Words.negF (sw : Bool) (f : FT) (d : BitVec 7) (b : Opnd) :
    Laws.Words.Statement (.negF sw f d b) := Laws.Words.all _
theorem Laws.Words.absF (sw : Bool) (f : FT) (d : BitVec 7) (b : Opnd) :
    Laws.Words.Statement (.absF sw f d b) := Laws.Words.all _
theorem Laws.Words.fclass (sw : Bool) (f : FT) (d : BitVec 7) (b : Opnd) :
    Laws.Words.Statement (.fclass sw f d b) := Laws.Words.all _
theorem Laws.Words.copysign (sw : Bool) (f : FT) (d : BitVec 7) (a : BitVec 7) (b : Opnd) :
    Laws.Words.Statement (.copysign sw f d a b) := Laws.Words.all _
theorem Laws.Words.cmpF (sw : Bool) (f : FT) (c : BitVec 3) (m : BitVec 3) (a : BitVec 7) (b : Opnd) :
    Laws.Words.Statement (.cmpF sw f c m a b) := Laws.Words.all _
theorem Laws.Words.fdot2 (sw : Bool) (f : FT) (d : BitVec 7) (a : BitVec 7) (b : Opnd) :
    Laws.Words.Statement (.fdot2 sw f d a b) := Laws.Words.all _
theorem Laws.Words.fdot4 (sw : Bool) (f : FT) (d : BitVec 7) (a : BitVec 7) (b : Opnd) :
    Laws.Words.Statement (.fdot4 sw f d a b) := Laws.Words.all _
theorem Laws.Words.rsum (sw : Bool) (f : FT) (d : BitVec 7) (b : Opnd) :
    Laws.Words.Statement (.rsum sw f d b) := Laws.Words.all _
theorem Laws.Words.rmax (sw : Bool) (f : FT) (d : BitVec 7) (b : Opnd) :
    Laws.Words.Statement (.rmax sw f d b) := Laws.Words.all _
theorem Laws.Words.rcp (sw : Bool) (d : BitVec 7) (f : FT) (b : Opnd) :
    Laws.Words.Statement (.rcp sw d f b) := Laws.Words.all _
theorem Laws.Words.rsqrt (sw : Bool) (d : BitVec 7) (f : FT) (b : Opnd) :
    Laws.Words.Statement (.rsqrt sw d f b) := Laws.Words.all _
theorem Laws.Words.sqrt (sw : Bool) (d : BitVec 7) (f : FT) (b : Opnd) :
    Laws.Words.Statement (.sqrt sw d f b) := Laws.Words.all _
theorem Laws.Words.exp2 (sw : Bool) (d : BitVec 7) (f : FT) (b : Opnd) :
    Laws.Words.Statement (.exp2 sw d f b) := Laws.Words.all _
theorem Laws.Words.log2 (sw : Bool) (d : BitVec 7) (f : FT) (b : Opnd) :
    Laws.Words.Statement (.log2 sw d f b) := Laws.Words.all _
theorem Laws.Words.tanh (sw : Bool) (d : BitVec 7) (f : FT) (b : Opnd) :
    Laws.Words.Statement (.tanh sw d f b) := Laws.Words.all _
theorem Laws.Words.cvtFloatFloat (sw : Bool) (d : BitVec 7) (y : FT) (z : FT) (b : Opnd) :
    Laws.Words.Statement (.cvtFloatFloat sw d y z b) := Laws.Words.all _
theorem Laws.Words.cvtF32Binary8 (sw : Bool) (d : BitVec 7) (u : Bool) (f : BitVec 5) (b : Opnd) :
    Laws.Words.Statement (.cvtF32Binary8 sw d u f b) := Laws.Words.all _
theorem Laws.Words.cvtF16Binary8 (sw : Bool) (d : BitVec 7) (u : Bool) (f : BitVec 5) (b : Opnd) :
    Laws.Words.Statement (.cvtF16Binary8 sw d u f b) := Laws.Words.all _
theorem Laws.Words.cvtBf16Binary8 (sw : Bool) (d : BitVec 7) (u : Bool) (f : BitVec 5) (b : Opnd) :
    Laws.Words.Statement (.cvtBf16Binary8 sw d u f b) := Laws.Words.all _
theorem Laws.Words.cvtBinary8F32 (sw : Bool) (d : BitVec 7) (f : BitVec 5) (b : Opnd) :
    Laws.Words.Statement (.cvtBinary8F32 sw d f b) := Laws.Words.all _
theorem Laws.Words.cvtBinary8F16 (sw : Bool) (d : BitVec 7) (f : BitVec 5) (b : Opnd) :
    Laws.Words.Statement (.cvtBinary8F16 sw d f b) := Laws.Words.all _
theorem Laws.Words.cvtBinary8Bf16 (sw : Bool) (d : BitVec 7) (f : BitVec 5) (b : Opnd) :
    Laws.Words.Statement (.cvtBinary8Bf16 sw d f b) := Laws.Words.all _
theorem Laws.Words.cvtFloatInteger (sw : Bool) (d : BitVec 7) (y : Bool) (g : FT) (h : Bool) (b : Opnd) :
    Laws.Words.Statement (.cvtFloatInteger sw d y g h b) := Laws.Words.all _
theorem Laws.Words.topk (sw : Bool) (f : FT) (d : BitVec 7) (a : BitVec 7) (b : Opnd) :
    Laws.Words.Statement (.topk sw f d a b) := Laws.Words.all _
theorem Laws.Words.ld (sw : Bool) (z : IT) (d : BitVec 7) (a : BitVec 7) (o : BitVec 2) (c : BitVec 3) (p : BitVec 3) :
    Laws.Words.Statement (.ld sw z d a o c p) := Laws.Words.all _
theorem Laws.Words.st (sw : Bool) (z : IT) (d : BitVec 7) (a : BitVec 7) (o : BitVec 2) (c : BitVec 3) (p : BitVec 3) :
    Laws.Words.Statement (.st sw z d a o c p) := Laws.Words.all _
theorem Laws.Words.ldb (sw : Bool) (z : IT) (d : BitVec 7) (a : BitVec 7) (o : BitVec 2) (p : BitVec 3) :
    Laws.Words.Statement (.ldb sw z d a o p) := Laws.Words.all _
theorem Laws.Words.atom (sw : Bool) (z : IT) (d : BitVec 7) (a : BitVec 7) (o : BitVec 2) (c : BitVec 3) (p : BitVec 3) :
    Laws.Words.Statement (.atom sw z d a o c p) := Laws.Words.all _
theorem Laws.Words.cas (sw : Bool) (z : IT) (d : BitVec 7) (a : BitVec 7) (o : BitVec 2) (c : BitVec 3) :
    Laws.Words.Statement (.cas sw z d a o c) := Laws.Words.all _
theorem Laws.Words.wupd (sw : Bool) (o : BitVec 3) (e : BitVec 4) (a : BitVec 7) (b : Opnd) :
    Laws.Words.Statement (.wupd sw o e a b) := Laws.Words.all _
theorem Laws.Words.wred (sw : Bool) (o : BitVec 3) (e : BitVec 4) (a : BitVec 7) (b : Opnd) :
    Laws.Words.Statement (.wred sw o e a b) := Laws.Words.all _
theorem Laws.Words.fence (sw : Bool) (k : BitVec 2) :
    Laws.Words.Statement (.fence sw k) := Laws.Words.all _
theorem Laws.Words.ink (sw : Bool) (a : BitVec 7) (b : Opnd) :
    Laws.Words.Statement (.ink sw a b) := Laws.Words.all _
theorem Laws.Words.inkq (sw : Bool) (d : BitVec 7) (a : BitVec 7) :
    Laws.Words.Statement (.inkq sw d a) := Laws.Words.all _
theorem Laws.Words.inkwait (sw : Bool) (a : BitVec 7) (b : Opnd) :
    Laws.Words.Statement (.inkwait sw a b) := Laws.Words.all _
theorem Laws.Words.inksig (sw : Bool) (b : Opnd) :
    Laws.Words.Statement (.inksig sw b) := Laws.Words.all _
theorem Laws.Words.pref (sw : Bool) (f : Bool) (a : BitVec 7) :
    Laws.Words.Statement (.pref sw f a) := Laws.Words.all _
theorem Laws.Words.ldround (sw : Bool) (d : BitVec 7) (b : Opnd) :
    Laws.Words.Statement (.ldround sw d b) := Laws.Words.all _
theorem Laws.Words.ldroundAcq (sw : Bool) (d : BitVec 7) (b : Opnd) :
    Laws.Words.Statement (.ldroundAcq sw d b) := Laws.Words.all _
theorem Laws.Words.round (sw : Bool) (d : BitVec 7) (b : Opnd) :
    Laws.Words.Statement (.round sw d b) := Laws.Words.all _
theorem Laws.Words.cpy (sw : Bool) (e : Bool) (h : BitVec 4) (a : BitVec 7) :
    Laws.Words.Statement (.cpy sw e h a) := Laws.Words.all _
theorem Laws.Words.cpyt (sw : Bool) (e : Bool) (h : BitVec 4) (a : BitVec 7) :
    Laws.Words.Statement (.cpyt sw e h a) := Laws.Words.all _
theorem Laws.Words.snap (sw : Bool) (e : Bool) (h : BitVec 4) (a : BitVec 7) :
    Laws.Words.Statement (.snap sw e h a) := Laws.Words.all _
theorem Laws.Words.gath (sw : Bool) (e : Bool) (h : BitVec 4) (a : BitVec 7) :
    Laws.Words.Statement (.gath sw e h a) := Laws.Words.all _
theorem Laws.Words.scatadd (sw : Bool) (e : Bool) (h : BitVec 4) (a : BitVec 7) :
    Laws.Words.Statement (.scatadd sw e h a) := Laws.Words.all _
theorem Laws.Words.waitc (sw : Bool) (c : BitVec 2) (b : Opnd) :
    Laws.Words.Statement (.waitc sw c b) := Laws.Words.all _
theorem Laws.Words.waith (sw : Bool) (h : BitVec 4) :
    Laws.Words.Statement (.waith sw h) := Laws.Words.all _
theorem Laws.Words.testh (sw : Bool) (d : BitVec 7) (h : BitVec 4) :
    Laws.Words.Statement (.testh sw d h) := Laws.Words.all _
theorem Laws.Words.cancelh (sw : Bool) (h : BitVec 4) :
    Laws.Words.Statement (.cancelh sw h) := Laws.Words.all _
theorem Laws.Words.movhToV (sw : Bool) (d : BitVec 7) (h : BitVec 4) :
    Laws.Words.Statement (.movhToV sw d h) := Laws.Words.all _
theorem Laws.Words.movhToH (sw : Bool) (h : BitVec 4) (b : Opnd) :
    Laws.Words.Statement (.movhToH sw h b) := Laws.Words.all _
theorem Laws.Words.rgive (sw : Bool) (r : BitVec 3) (b : Opnd) :
    Laws.Words.Statement (.rgive sw r b) := Laws.Words.all _
theorem Laws.Words.rtake (sw : Bool) (r : BitVec 3) (b : Opnd) :
    Laws.Words.Statement (.rtake sw r b) := Laws.Words.all _
theorem Laws.Words.rfree (sw : Bool) (r : BitVec 3) (b : Opnd) :
    Laws.Words.Statement (.rfree sw r b) := Laws.Words.all _
theorem Laws.Words.emit (sw : Bool) (a : BitVec 7) (b : Opnd) :
    Laws.Words.Statement (.emit sw a b) := Laws.Words.all _
theorem Laws.Words.mma (sw : Bool) (e : Bool) (h : BitVec 4) (a : BitVec 7) :
    Laws.Words.Statement (.mma sw e h a) := Laws.Words.all _
theorem Laws.Words.mmas (sw : Bool) (e : Bool) (h : BitVec 4) (a : BitVec 7) :
    Laws.Words.Statement (.mmas sw e h a) := Laws.Words.all _
theorem Laws.Words.azero (sw : Bool) (e : Bool) (h : BitVec 4) (t : BitVec 3) :
    Laws.Words.Statement (.azero sw e h t) := Laws.Words.all _
theorem Laws.Words.ald (sw : Bool) (e : Bool) (h : BitVec 4) (a : BitVec 7) (b : Opnd) :
    Laws.Words.Statement (.ald sw e h a b) := Laws.Words.all _
theorem Laws.Words.ast (sw : Bool) (e : Bool) (h : BitVec 4) (a : BitVec 7) (b : Opnd) :
    Laws.Words.Statement (.ast sw e h a b) := Laws.Words.all _
theorem Laws.Words.palres (sw : Bool) (r : BitVec 6) (a : BitVec 7) :
    Laws.Words.Statement (.palres sw r a) := Laws.Words.all _
theorem Laws.Words.palrel (sw : Bool) (r : BitVec 6) :
    Laws.Words.Statement (.palrel sw r) := Laws.Words.all _
theorem Laws.Words.mgld (sw : Bool) (e : Bool) (h : BitVec 4) (a : BitVec 7) (b : Opnd) :
    Laws.Words.Statement (.mgld sw e h a b) := Laws.Words.all _
theorem Laws.Words.kstore (sw : Bool) (e : Bool) (h : BitVec 4) (a : BitVec 7) :
    Laws.Words.Statement (.kstore sw e h a) := Laws.Words.all _
theorem Laws.Words.lgather (sw : Bool) (e : Bool) (h : BitVec 4) (a : BitVec 7) :
    Laws.Words.Statement (.lgather sw e h a) := Laws.Words.all _
theorem Laws.Words.lgsig (sw : Bool) (e : Bool) (h : BitVec 4) (a : BitVec 7) :
    Laws.Words.Statement (.lgsig sw e h a) := Laws.Words.all _
theorem Laws.Words.lgproj (sw : Bool) (e : Bool) (h : BitVec 4) (a : BitVec 7) (b : Opnd) :
    Laws.Words.Statement (.lgproj sw e h a b) := Laws.Words.all _
theorem Laws.Words.lgpool (sw : Bool) (e : Bool) (h : BitVec 4) (a : BitVec 7) :
    Laws.Words.Statement (.lgpool sw e h a) := Laws.Words.all _
theorem Laws.Words.lgcfg (sw : Bool) (a : BitVec 7) (b : Opnd) :
    Laws.Words.Statement (.lgcfg sw a b) := Laws.Words.all _
theorem Laws.Words.lgclr (sw : Bool) (b : Opnd) :
    Laws.Words.Statement (.lgclr sw b) := Laws.Words.all _
theorem Laws.Words.lgstat (sw : Bool) (d : BitVec 7) (b : Opnd) :
    Laws.Words.Statement (.lgstat sw d b) := Laws.Words.all _
theorem Laws.Words.movi (sw : Bool) (d : BitVec 7) (i : BitVec 18) :
    Laws.Words.Statement (.movi sw d i) := Laws.Words.all _
theorem Laws.Words.lea (sw : Bool) (d : BitVec 7) (i : BitVec 18) :
    Laws.Words.Statement (.lea sw d i) := Laws.Words.all _
theorem Laws.Words.pre (sw : Bool) (m : BitVec 3) (z : Bool) (r : BitVec 3) (f : Bool) (b : BitVec 8) :
    Laws.Words.Statement (.pre sw m z r f b) := Laws.Words.all _
theorem Laws.Words.live (sw : Bool) (l : BitVec 7) (h : BitVec 7) :
    Laws.Words.Statement (.live sw l h) := Laws.Words.all _
theorem Laws.Words.yield (sw : Bool) (n : BitVec 8) :
    Laws.Words.Statement (.yield sw n) := Laws.Words.all _
theorem Laws.Words.off (sw : Bool) (o : BitVec 22) :
    Laws.Words.Statement (.off sw o) := Laws.Words.all _
theorem Laws.Words.scope (sw : Bool) (c : BitVec 3) :
    Laws.Words.Statement (.scope sw c) := Laws.Words.all _
theorem Laws.Words.longResultReturn (team tid id : Nat) :
    Laws.Words.Statement (.longResultReturn team tid id) := Laws.Words.all _
theorem Laws.Words.shortInterlockEnd (team tid : Nat) :
    Laws.Words.Statement (.shortInterlockEnd team tid) := Laws.Words.all _
theorem Laws.Words.pageWalk (core ctx : Nat) (va : Word) :
    Laws.Words.Statement (.pageWalk core ctx va) := Laws.Words.all _
theorem Laws.Words.faultRecordPost (ctx : Nat) :
    Laws.Words.Statement (.faultRecordPost ctx) := Laws.Words.all _
theorem Laws.Words.frespResolve (ctx id : Nat) :
    Laws.Words.Statement (.frespResolve ctx id) := Laws.Words.all _
theorem Laws.Words.frespRefuse (ctx id : Nat) :
    Laws.Words.Statement (.frespRefuse ctx id) := Laws.Words.all _
theorem Laws.Words.shootdown (ctx : Nat) (v : Word) :
    Laws.Words.Statement (.shootdown ctx v) := Laws.Words.all _
theorem Laws.Words.shootdownComplete (ctx : Nat) :
    Laws.Words.Statement (.shootdownComplete ctx) := Laws.Words.all _
theorem Laws.Words.collectorSend (core n : Nat) :
    Laws.Words.Statement (.collectorSend core n) := Laws.Words.all _
theorem Laws.Words.collectorReply (core n evict : Nat) :
    Laws.Words.Statement (.collectorReply core n evict) := Laws.Words.all _
theorem Laws.Words.homeAccess (n : Nat) :
    Laws.Words.Statement (.homeAccess n) := Laws.Words.all _
theorem Laws.Words.promote (core : Nat) :
    Laws.Words.Statement (.promote core) := Laws.Words.all _
theorem Laws.Words.carveOutComplete :
    Laws.Words.Statement (.carveOutComplete) := Laws.Words.all _
theorem Laws.Words.inkTicket (team tid : Nat) :
    Laws.Words.Statement (.inkTicket team tid) := Laws.Words.all _
theorem Laws.Words.inkGrant (team tid : Nat) :
    Laws.Words.Statement (.inkGrant team tid) := Laws.Words.all _
theorem Laws.Words.inkRelease (team tid : Nat) :
    Laws.Words.Statement (.inkRelease team tid) := Laws.Words.all _
theorem Laws.Words.inkTimeout (team tid : Nat) :
    Laws.Words.Statement (.inkTimeout team tid) := Laws.Words.all _
theorem Laws.Words.inkwaitWake (team tid : Nat) :
    Laws.Words.Statement (.inkwaitWake team tid) := Laws.Words.all _
theorem Laws.Words.beacon (die ctx rgn : Nat) :
    Laws.Words.Statement (.beacon die ctx rgn) := Laws.Words.all _
theorem Laws.Words.roundWake (core : Nat) :
    Laws.Words.Statement (.roundWake core) := Laws.Words.all _
theorem Laws.Words.roundTmo (team tid : Nat) :
    Laws.Words.Statement (.roundTmo team tid) := Laws.Words.all _
theorem Laws.Words.watchdog (core nib : Nat) :
    Laws.Words.Statement (.watchdog core nib) := Laws.Words.all _
theorem Laws.Words.yieldHoldEnd (team tid : Nat) :
    Laws.Words.Statement (.yieldHoldEnd team tid) := Laws.Words.all _
theorem Laws.Words.sleepEnd (team tid : Nat) :
    Laws.Words.Statement (.sleepEnd team tid) := Laws.Words.all _
theorem Laws.Words.quireForm (core : Nat) :
    Laws.Words.Statement (.quireForm core) := Laws.Words.all _
theorem Laws.Words.quirePartialRelease (core : Nat) :
    Laws.Words.Statement (.quirePartialRelease core) := Laws.Words.all _
theorem Laws.Words.collTimeout (team group csn : Nat) :
    Laws.Words.Statement (.collTimeout team group csn) := Laws.Words.all _
theorem Laws.Words.copyRun (core seq : Nat) :
    Laws.Words.Statement (.copyRun core seq) := Laws.Words.all _
theorem Laws.Words.snapCopy (core seq : Nat) :
    Laws.Words.Statement (.snapCopy core seq) := Laws.Words.all _
theorem Laws.Words.gatherRun (core seq : Nat) :
    Laws.Words.Statement (.gatherRun core seq) := Laws.Words.all _
theorem Laws.Words.scataddAppendRun (core seq : Nat) :
    Laws.Words.Statement (.scataddAppendRun core seq) := Laws.Words.all _
theorem Laws.Words.scataddDrainRun (core seq : Nat) :
    Laws.Words.Statement (.scataddDrainRun core seq) := Laws.Words.all _
theorem Laws.Words.mmaRun (core steps : Nat) :
    Laws.Words.Statement (.mmaRun core steps) := Laws.Words.all _
theorem Laws.Words.mmaStop (core : Nat) :
    Laws.Words.Statement (.mmaStop core) := Laws.Words.all _
theorem Laws.Words.tileCommandRun (core : Nat) :
    Laws.Words.Statement (.tileCommandRun core) := Laws.Words.all _
theorem Laws.Words.leaveGrant (die : Nat) :
    Laws.Words.Statement (.leaveGrant die) := Laws.Words.all _
theorem Laws.Words.kstoreRun (core seq : Nat) :
    Laws.Words.Statement (.kstoreRun core seq) := Laws.Words.all _
theorem Laws.Words.lgatherRun (core seq : Nat) :
    Laws.Words.Statement (.lgatherRun core seq) := Laws.Words.all _
theorem Laws.Words.lgsigRun (core seq : Nat) :
    Laws.Words.Statement (.lgsigRun core seq) := Laws.Words.all _
theorem Laws.Words.lgprojRun (core seq : Nat) :
    Laws.Words.Statement (.lgprojRun core seq) := Laws.Words.all _
theorem Laws.Words.lgpoolRun (core seq : Nat) :
    Laws.Words.Statement (.lgpoolRun core seq) := Laws.Words.all _
theorem Laws.Words.eventRecordPost (ctx : Nat) :
    Laws.Words.Statement (.eventRecordPost ctx) := Laws.Words.all _
theorem Laws.Words.lqtailWrite (ctx q : Nat) (v : Word) :
    Laws.Words.Statement (.lqtailWrite ctx q v) := Laws.Words.all _
theorem Laws.Words.launchRecordFetch (ctx q : Nat) :
    Laws.Words.Statement (.launchRecordFetch ctx q) := Laws.Words.all _
theorem Laws.Words.teamPlacement (launch die row col : Nat) :
    Laws.Words.Statement (.teamPlacement launch die row col) := Laws.Words.all _
theorem Laws.Words.gangAged (launch : Nat) :
    Laws.Words.Statement (.gangAged launch) := Laws.Words.all _
theorem Laws.Words.nodeLaunch (ctx node : Nat) :
    Laws.Words.Statement (.nodeLaunch ctx node) := Laws.Words.all _
theorem Laws.Words.coalesceTimeout (ctx node : Nat) :
    Laws.Words.Statement (.coalesceTimeout ctx node) := Laws.Words.all _
theorem Laws.Words.launchComplete (launch : Nat) :
    Laws.Words.Statement (.launchComplete launch) := Laws.Words.all _
theorem Laws.Words.sliceExpiry (core : Nat) :
    Laws.Words.Statement (.sliceExpiry core) := Laws.Words.all _
theorem Laws.Words.contextSwap (core : Nat) :
    Laws.Words.Statement (.contextSwap core) := Laws.Words.all _
theorem Laws.Words.spillRestore (core block : Nat) :
    Laws.Words.Statement (.spillRestore core block) := Laws.Words.all _
theorem Laws.Words.shadowEvict (core : Nat) :
    Laws.Words.Statement (.shadowEvict core) := Laws.Words.all _
theorem Laws.Words.trapEntry (team slot : Nat) :
    Laws.Words.Statement (.trapEntry team slot) := Laws.Words.all _
theorem Laws.Words.timer (team : Nat) :
    Laws.Words.Statement (.timer team) := Laws.Words.all _
theorem Laws.Words.ckreq (ctx : Nat) (v : Word) :
    Laws.Words.Statement (.ckreq ctx v) := Laws.Words.all _
theorem Laws.Words.ckpt (team : Nat) :
    Laws.Words.Statement (.ckpt team) := Laws.Words.all _
theorem Laws.Words.halt (ctx : Nat) (v : Word) :
    Laws.Words.Statement (.halt ctx v) := Laws.Words.all _
theorem Laws.Words.haltRecord (ctx : Nat) :
    Laws.Words.Statement (.haltRecord ctx) := Laws.Words.all _
theorem Laws.Words.resume (ctx : Nat) (v : Word) :
    Laws.Words.Statement (.resume ctx v) := Laws.Words.all _
theorem Laws.Words.debugGrant (ctx : Nat) :
    Laws.Words.Statement (.debugGrant ctx) := Laws.Words.all _
theorem Laws.Words.debugRevoke (ctx : Nat) :
    Laws.Words.Statement (.debugRevoke ctx) := Laws.Words.all _
theorem Laws.Words.editApply (ctx : Nat) :
    Laws.Words.Statement (.editApply ctx) := Laws.Words.all _
theorem Laws.Words.breakpointMatch (team slot : Nat) :
    Laws.Words.Statement (.breakpointMatch team slot) := Laws.Words.all _
theorem Laws.Words.sampleRecord (core : Nat) :
    Laws.Words.Statement (.sampleRecord core) := Laws.Words.all _
theorem Laws.Words.hostMemRead (pa len : Nat) :
    Laws.Words.Statement (.hostMemRead pa len) := Laws.Words.all _
theorem Laws.Words.hostMemWrite (pa : Nat) (bytes : List Byte) :
    Laws.Words.Statement (.hostMemWrite pa bytes) := Laws.Words.all _
theorem Laws.Words.wellApertureAccess (off : Nat) (wr : Bool) (v : Word) :
    Laws.Words.Statement (.wellApertureAccess off wr v) := Laws.Words.all _
theorem Laws.Words.peerRequest (peer pa : Nat) (wr : Bool) (v : Word) :
    Laws.Words.Statement (.peerRequest peer pa wr v) := Laws.Words.all _
theorem Laws.Words.linkDown (link : Nat) :
    Laws.Words.Statement (.linkDown link) := Laws.Words.all _
theorem Laws.Words.moduleReset :
    Laws.Words.Statement (.moduleReset) := Laws.Words.all _
theorem Laws.Words.bringUp (fail : Nat) (code : BitVec 8) :
    Laws.Words.Statement (.bringUp fail code) := Laws.Words.all _
theorem Laws.Words.registerWrite (off : Nat) (v : Word) :
    Laws.Words.Statement (.registerWrite off v) := Laws.Words.all _
theorem Laws.Words.contextBecomesResident (core ctx : Nat) :
    Laws.Words.Statement (.contextBecomesResident core ctx) := Laws.Words.all _
theorem Laws.Words.instructionFetch (team tid : Nat) :
    Laws.Words.Statement (.instructionFetch team tid) := Laws.Words.all _
theorem Laws.Words.softError (unit addr : Nat) (hard : Bool) :
    Laws.Words.Statement (.softError unit addr hard) := Laws.Words.all _

end Sys2Proof
end

