-- ==== Sys2Proof/Tests/Slice0.lean ====
section
/-! SUPPORT. Tests: words of the spec's encodings, ill-formed terms, states that meet the statements' hypotheses, and small
steps. Expected values are worked out by hand from the rules that the comments name. -/

namespace Sys2Proof.Tests

open Sys2Proof Sys2Proof.Machine

set_option maxRecDepth 8192

/-! ### A small machine -/

/-- Bytes put into a memory. -/
def put (m : Memory) (l : List (Nat × Nat × Nat)) : Memory :=
  l.foldl (fun m x => Memory.writeN m x.1 (natToBytes x.2.1 x.2.2)) m

/-- The TLB entry of a 64 KiB page of CTXID 3 (R24): valid, leaf, A and D set; `fl` adds to it. -/
def page (v frame : Nat) (fl : Nat) : TlbEntry := ⟨3, v, 16, BitVec.ofNat 64 (frame * 2 ^ 16 + 0x603 + fl), 0x3000 + 8 * v⟩

/-- Pages 1 to 8 at frames 0x4001 up: code and data, save area, ink table, an inked page, return stacks; and the ink map. -/
def pages : List TlbEntry :=
  [page 1 0x4001 0xC, page 2 0x4002 4, page 3 0x4003 4, page 4 0x4004 4, page 5 0x4005 0x84, page 6 0x4006 4,
   page 0x80 0x4080 4, page 8 0x4008 0]

/-- A thread: general numbers in v1 to v7, addresses in v8 to v15, more from v16 on. -/
def th0 : Thread :=
  { Thread.reset with
    pc := 0x10000, tag := 77
    v := [(1, 5), (2, 0x0000_0003_FFFF_FFFE), (3, 0x4040_0000_3F80_0000), (4, 0x8000_0000_0000_0001), (5, 0x0100_0102), (6, 2),
      (8, 0x0100_0000_0000_1000), (9, 0x0200_0000_00F0_0100), (10, 0x2_0000), (11, 0x5_0000), (12, 0x1_0020), (13, 7),
      (14, 0x0000_0001_0000_0007)] }

def tm0 : Team :=
  { Team.reset with
    groups := [⟨0, 128, none, 0⟩], scrSize := 65536, tiles := 4, palKiB := 1, margBytes := 1024, ringStages := [(0, 2)]
    rstack := 0x6_0000 }

def cx0 : Ctx :=
  { Ctx.reset with
    ctxid := 3, root := 0x10_0000, priv := true, wb := [(0, 0x0010_0000_0000_0000)], trapbase := 0x1_0100
    savebase := 0x3_0000, inkdesc := 0x4_0000, ligbase := 0x0100_0000_0008_0000 }

def co0 : Machine.Core :=
  { Machine.Core.reset with active := some 0, slots := [(0, ⟨0, false, [], false, none⟩)], tlb := pages }

/-- Physical memory: the ink table, and bytes of the data page. -/
def phys0 : Memory :=
  put [] [(0x4002_0000, 8, 0x1122_3344_5566_8788), (0x4002_0050, 4, 9), (0x4004_0038, 8, 0xE000_0000_0000_2000),
    (0x4004_0048, 8, 0xE000_0000_0000_2040), (0x4006_0010, 8, 0x1_0040)]

/-- Where offset `o` of the scratchpad of core 0 stands for CTXID 3. -/
def sk (o : Nat) : Nat := scratchKey 3 0 o

def bd0 : Bundle := ⟨0, 0, 0, 0, [0], 0x10000⟩

/-- One thread of one team, about to issue. -/
def st0 : State :=
  { State.reset with
    phys := phys0, well := put [] [(0x1000, 8, 0x0102_0304_0506_0708)], scratch := put [] [(sk 0x100, 8, 0xF1F2_F3F4_F5F6_F7F8)]
    ctxs := [(0, cx0)], cores := [(0, co0)], diesT := [(0, { Die.reset with tlb := pages })], teams := [(0, tm0)]
    threads := [(0, th0)], bundle := some bd0, uid := 1, steps := 127, ports := [0, 1] }

/-- `st0` with changes to its thread. -/
def stT (f : Thread → Thread) : State := { st0 with threads := [(0, f th0)] }

/-! ### Hypotheses of the statements about an issue -/

/-- What `State.Quiet` asks, as a test. -/
def quietB (s : State) (bd : Bundle) : Bool :=
  s.threads.all (fun p => !(p.2.core == bd.core && p.2.ctx == bd.ctx && p.2.slot == bd.slot) || p.2.trap == none)
    && (s.team bd.team).haltReason == none

theorem quiet_of {s : State} {bd : Bundle} (h : quietB s bd = true) : s.Quiet bd := by
  simp only [quietB, Bool.and_eq_true, List.all_eq_true, beq_iff_eq] at h
  exact ⟨fun p hp a b c => by simpa [a, b, c] using h.1 p hp, h.2⟩

/-- What `Issues` asks, as a test. -/
def issuesB (s : State) (bd : Bundle) (i : Instr) : Bool :=
  s.bundle == some bd && decide bd.tids.Nodup && bd.tids.all (fun tid => match s.thread? (threadKey bd.team tid) with
    | some th => th.team == bd.team && th.tid == tid && th.core == bd.core && th.ctx == bd.ctx && th.slot == bd.slot
      && th.status == .ready && issueCheck s th i == .go
    | none => false)
  && quietB s bd

theorem issues_of {s : State} {bd : Bundle} {i : Instr} (h : issuesB s bd i = true) : Issues s bd i := by
  simp only [issuesB, Bool.and_eq_true, List.all_eq_true, beq_iff_eq, decide_eq_true_eq] at h
  obtain ⟨⟨⟨h1, h2⟩, h3⟩, h4⟩ := h
  refine ⟨h1, h2, fun tid hm => ?_, quiet_of h4⟩
  · have h5 := h3 tid hm
    split at h5
    · rename_i th hth
      simp only [Bool.and_eq_true, beq_iff_eq] at h5
      exact ⟨th, hth, h5.1.1.1.1.1.1, h5.1.1.1.1.1.2, h5.1.1.1.1.2, h5.1.1.1.2, h5.1.1.2, h5.1.2, h5.2⟩
    · simp at h5

/-- Every instruction of a list issues to a bundle. -/
def IssuesAll (s : State) (bd : Bundle) (l : List Instr) : Prop := ∀ i ∈ l, Issues s bd i

theorem issuesAll_of {s : State} {bd : Bundle} {l : List Instr} (h : l.all (issuesB s bd) = true) : IssuesAll s bd l :=
  fun i hi => issues_of (List.all_eq_true.1 h i hi)

/-- An instruction issues, each thread can do its act at its turn, and no thread is then to trap. -/
def Meets (s : State) (bd : Bundle) (i : Instr) (act : Env → State → Option State) : Prop :=
  Issues s bd i ∧ ∃ t, lanesRun i act (s.operandsAll bd i) s.issued = some t ∧ t.Quiet bd

def meetsB (s : State) (bd : Bundle) (i : Instr) (act : Env → State → Option State) : Bool :=
  issuesB s bd i && (match lanesRun i act (s.operandsAll bd i) s.issued with
    | some t => quietB t bd
    | none => false)

theorem meets_of {s : State} {bd : Bundle} {i : Instr} {act : Env → State → Option State} (h : meetsB s bd i act = true) :
    Meets s bd i act := by
  simp only [meetsB, Bool.and_eq_true] at h
  refine ⟨issues_of h.1, ?_⟩
  have h2 := h.2
  split at h2
  · rename_i t ht
    exact ⟨t, ht, quiet_of h2⟩
  · simp at h2

/-- An instruction issues, each thread can do its act or come to wait at its turn, and no thread is then to trap; `p` holds of
the state after. -/
def MeetsGo (s : State) (bd : Bundle) (i : Instr) (act : Env → State → Option (State × Option Why)) (p : State → Bool) : Prop :=
  Issues s bd i ∧ ∃ t, lanesGo i act (s.operandsAll bd i) s.issued = some t ∧ t.Quiet bd ∧ p t = true

def meetsGoB (s : State) (bd : Bundle) (i : Instr) (act : Env → State → Option (State × Option Why)) (p : State → Bool) : Bool :=
  issuesB s bd i && (match lanesGo i act (s.operandsAll bd i) s.issued with
    | some t => quietB t bd && p t
    | none => false)

theorem meetsGo_of {s : State} {bd : Bundle} {i : Instr} {act : Env → State → Option (State × Option Why)} {p : State → Bool}
    (h : meetsGoB s bd i act p = true) : MeetsGo s bd i act p := by
  simp only [meetsGoB, Bool.and_eq_true] at h
  refine ⟨issues_of h.1, ?_⟩
  have h2 := h.2
  split at h2
  · rename_i t ht
    simp only [Bool.and_eq_true] at h2
    exact ⟨t, ht, quiet_of h2.1, h2.2⟩
  · simp at h2

/-- The state after a step, and a test of it. -/
def after (o : Host.Outcome State Fault Refusal) (p : State → Bool) : Bool := match o with | .next t => p t | _ => false

/-! ### Words written out from the encodings of the opcode table (R176 to R181), one for every row that has bits -/

/-- Each word decodes to its instruction. -/
def decodeAs (l : List (W32 × Instr)) : Bool :=
  l.all (fun p => match decodeWords [p.1] with | .ok (i, ws) => i == p.2 && ws.isEmpty | .error _ => false)

theorem test_words_control : decodeAs [
    (0b0_000001_000_0_001011010110001110110, .br false 0 false 371830),
    (0b1_000010_101_1_001011010110010011011, .brs true 5 true 371867),
    (0b0_000011_0000001011010011100000010, .jmp false 370434),
    (0b1_000100_0000001011010011100100111, .call true 370471),
    (0b0_0001010000000000_1001100_00000000, .jmpr false 76),
    (0b1_0001010010000000_1110001_00000000, .callr true 113),
    (0b0_0001010100000000000000000000000, .ret false),
    (0b1_0001010110000000000000000000000, .exit true),
    (0b0_00010110000000000000000_11100010, .trap false .lane),
    (0b1_0001011010000000000000000000000, .rtt true),
    (0b0_0001011100000000000000000000000, .bkpt false)] = true := by decide

theorem test_words_waits_and_system : decodeAs [
    (0b1_000110000000_1111_000000000000000, .bar true 15),
    (0b0_00011000100000_00_000000000000000, .cbar false 0),
    (0b1_00011001000000000000000_10111111, .sleep true (.c 63)),
    (0b0_0001100110000000000000000000000, .nop false),
    (0b1_000111000_1100011_0100001_00000000, .mfs true 99 33),
    (0b0_000111001_0011000_0000000_00010011, .mts false 24 (.v 19)),
    (0b1_000111010_0101101_000000000000000, .rdfpf true 45),
    (0b0_00011101100000000000000_11011110, .clfpf false (.imm 30))] = true := by decide

theorem test_words_integer_1 : decodeAs [
    (0b1_0010000_11_0000111_0110101_01101010, .add true .w64 7 53 (.v 106)),
    (0b0_0010001_00_0101100_1011010_11100100, .sub false .w8 44 90 .zero),
    (0b1_001001_001_1010001_1111111_01000001, .addSat true .n16 81 127 (.v 65)),
    (0b0_001010_110_1110110_0100100_11100010, .subSat false .i32 118 36 .lane),
    (0b1_0010110_11_0011011_1001001_01111111, .mul true .w64 27 73 (.v 127)),
    (0b0_0010111_00_1000000_1101110_11100011, .mad false .w8 64 110 .tid),
    (0b1_001100_101_1100101_0010011_00110101, .mulh true .i16 101 19 (.v 53)),
    (0b0_0011010_10_0001010_0111000_11100101, .div false 2 10 56 .grp),
    (0b1_0011011_11_0101111_1011101_10111111, .rem true 3 47 93 (.c 63)),
    (0b0_001110000_1000100_1010100_00101100, .and false 68 84 (.v 44)),
    (0b1_001110001_1101001_1111001_11000101, .or true 105 121 (.imm 5)),
    (0b0_001110010_0001110_0011110_00010011, .xor false 14 30 (.v 19))] = true := by decide

theorem test_words_integer_2 : decodeAs [
    (0b1_001110011_0110011_1000011_10010111, .andn true 51 67 (.c 23)),
    (0b0_001110100_1011000_1101000_11011110, .orn false 88 104 (.imm 30)),
    (0b1_001110101_1111101_0001101_01101010, .xnor true 125 13 (.v 106)),
    (0b0_001110110_0100010_0000000_11100100, .not false 34 .zero),
    (0b1_001110111_1000111_0000000_01000001, .mov true 71 (.v 65)),
    (0b0_0011110_00_1111100_0101010_11100010, .shl false .w8 124 42 .lane),
    (0b1_0011111_01_0100001_1001111_01111111, .shr true .w16 33 79 (.v 127)),
    (0b0_0100000_10_1000110_1110100_11100011, .sar false .w32 70 116 .tid),
    (0b1_0100001_11_1101011_0011001_00110101, .rol true .w64 107 25 (.v 53)),
    (0b0_010001_000_0010000_0111110_11100101, .min false .n8 16 62 .grp),
    (0b1_010010_101_0110101_1100011_10111111, .max true .i16 53 99 (.c 63)),
    (0b0_010011_010_0_010_000_1011110_00101100, .cmp false .n32 2 0 94 (.v 44))] = true := by decide

theorem test_words_integer_3 : decodeAs [
    (0b1_010100000_1101111_0000_111_11000101, .abs true 111 .i64 (.imm 5)),
    (0b0_010100001_0010100_0000_100_00010011, .neg false 20 .i8 (.v 19)),
    (0b1_010100010_0111001_0000_001_10010111, .clz true 57 .n16 (.c 23)),
    (0b0_010100011_1011110_0000_110_11011110, .popc false 94 .i32 (.imm 30)),
    (0b1_010100100_0000011_1_001_111_01101010, .cvtInt true 3 true .n16 .i64 (.v 106)),
    (0b0_010101_000_0111000_1100110_11100100, .sel false 0 56 102 .zero),
    (0b1_010110000_1001101_1011101_01000001, .bfe true 77 93 (.v 65)),
    (0b0_010110001_1110010_0000010_11100010, .bfeI false 114 2 .lane),
    (0b1_010110010_0010111_0100111_01111111, .bfi true 23 39 (.v 127))] = true := by decide

theorem test_words_register_moves : decodeAs [
    (0b0_0101110000_111100_0000000_11100011, .setc false 60 .tid),
    (0b1_010111001_1100001_0000_001_00000000, .movk true 97 1),
    (0b0_010111010_0000110_0000_110_00000000, .movm false 6 6),
    (0b1_0101110110000_011_0000000_10111111, .setm true 3 (.c 63)),
    (0b0_010111100_1010000_0000_000_00000000, .movq false 80 0),
    (0b1_0101111010000_101_0000000_11000101, .setq true 5 (.imm 5))] = true := by decide

theorem test_words_collectives : decodeAs [
    (0b0_0110000_10_0101010_1011000_00010011, .shuf false .w32 42 88 (.v 19)),
    (0b1_011001000_0111111_0000000_10010111, .voteAny true 63 (.c 23)),
    (0b0_011001001_1100100_0000000_11011110, .voteAll false 100 (.imm 30)),
    (0b1_011001010_0001001_0000000_01101010, .voteBallot true 9 (.v 106)),
    (0b0_011001011_0101110_000000000000000, .elect false 46),
    (0b1_011001100_1010011_0000000_01000001, .matchAny true 83 (.v 65)),
    (0b0_011010000_1111000_000_0110_11100010, .redux false 120 0 6 .lane),
    (0b1_011010001_0011101_101_1011_01111111, .scanIncl true 29 5 11 (.v 127)),
    (0b0_011010010_1000010_010_0000_11100011, .scanExcl false 66 2 0 .tid),
    (0b1_011011000_1100111_0_1_10011_00110101, .pack6 true 103 true 19 (.v 53)),
    (0b0_011011001_0001100_00_01011_11100101, .unpack6 false 12 11 .grp)] = true := by decide

theorem test_words_float_1 : decodeAs [
    (0b1_0111000_01_1000001_1101111_10111111, .addF true .f16 65 111 (.c 63)),
    (0b0_0111001_10_1100110_0010100_00101100, .subF false .bf16 102 20 (.v 44)),
    (0b1_0111010_10_0001011_0111001_11000101, .mulF true .bf16 11 57 (.imm 5)),
    (0b0_0111011_00_0110000_1011110_00010011, .scale false .f32 48 94 (.v 19)),
    (0b1_0111100_01_1010101_0000011_10010111, .fma true .f16 85 3 (.c 23)),
    (0b0_0111101_10_1111010_0101000_11011110, .fms false .bf16 122 40 (.imm 30)),
    (0b1_0111110_10_0011111_1001101_01101010, .minF true .bf16 31 77 (.v 106)),
    (0b0_0111111_00_1000100_1110010_11100100, .minnum false .f32 68 114 .zero),
    (0b1_1000000_01_1101001_0010111_01000001, .maxF true .f16 105 23 (.v 65)),
    (0b0_1000001_10_0001110_0111100_11100010, .maxnum false .bf16 14 60 .lane),
    (0b1_1000010_10_0110011_0000000_01111111, .negF true .bf16 51 (.v 127)),
    (0b0_1000010_00_1011000_0000001_11100011, .absF false .f32 88 .tid)] = true := by decide

theorem test_words_float_2 : decodeAs [
    (0b1_1000010_01_1111101_0000010_00110101, .fclass true .f16 125 (.v 53)),
    (0b0_1000011_10_0100010_1010000_11100101, .copysign false .bf16 34 80 .grp),
    (0b1_1000100_10_0_111_101_1001011_10111111, .cmpF true .bf16 7 5 75 (.c 63)),
    (0b0_1000110_00_1101100_0011010_00101100, .fdot2 false .f32 108 26 (.v 44)),
    (0b1_1000111_01_0010001_0111111_11000101, .fdot4 true .f16 17 63 (.imm 5)),
    (0b0_1001000_10_0110110_0000000_00010011, .rsum false .bf16 54 (.v 19)),
    (0b1_1001001_10_1011011_0000000_10010111, .rmax true .bf16 91 (.c 23))] = true := by decide

theorem test_words_special_and_conversions_1 : decodeAs [
    (0b0_100101000_1110000_00000_00_11011110, .rcp false 112 .f32 (.imm 30)),
    (0b1_100101001_0010101_00000_01_01101010, .rsqrt true 21 .f16 (.v 106)),
    (0b0_100101010_0111010_00000_10_11100100, .sqrt false 58 .bf16 .zero),
    (0b1_100101011_1011111_00000_10_01000001, .exp2 true 95 .bf16 (.v 65)),
    (0b0_100101100_0000100_00000_00_11100010, .log2 false 4 .f32 .lane),
    (0b1_100101101_0101001_00000_01_01111111, .tanh true 41 .f16 (.v 127)),
    (0b0_100110000_1001110_000_10_00_11100011, .cvtFloatFloat false 78 .bf16 .f32 .tid),
    (0b1_100110001_1110011_0_1_11010_00110101, .cvtF32Binary8 true 115 true 26 (.v 53)),
    (0b0_100110010_0011000_0_0_10110_11100101, .cvtF16Binary8 false 24 false 22 .grp),
    (0b1_100110011_0111101_0_1_11011_10111111, .cvtBf16Binary8 true 61 true 27 (.c 63)),
    (0b0_100110100_1100010_00_10010_00101100, .cvtBinary8F32 false 98 18 (.v 44)),
    (0b1_100110101_0000111_00_10111_11000101, .cvtBinary8F16 true 7 23 (.imm 5))] = true := by decide

theorem test_words_special_and_conversions_2 : decodeAs [
    (0b0_100110110_0101100_00_11100_00010011, .cvtBinary8Bf16 false 44 28 (.v 19)),
    (0b1_100110111_1010001_1_10_1_000_10010111, .cvtFloatInteger true 81 true .bf16 true (.c 23)),
    (0b0_1001110_10_0000110_0110100_11011110, .topk false .bf16 6 52 (.imm 30))] = true := by decide

theorem test_words_memory : decodeAs [
    (0b1_101000_011_0101011_1011001_11_111_011, .ld true .n64 43 89 3 7 3),
    (0b0_101001_000_1010000_1111110_00_100_000, .st false .n8 80 126 0 4 0),
    (0b1_101010_101_1110101_0100011_01_000_001, .ldb true .i16 117 35 1 1),
    (0b0_101011_010_0011010_1001000_10_110_010, .atom false .n32 26 72 2 6 2),
    (0b1_101100_111_0111111_1101101_11_011_000, .cas true .i64 63 109 3 3),
    (0b0_101101000_100_0100_0010010_11100011, .wupd false 4 4 18 .tid),
    (0b1_101101001_001_1001_0110111_00110101, .wred true 1 9 55 (.v 53)),
    (0b0_10111000000000_10_000000000000000, .fence false 2)] = true := by decide

theorem test_words_inks_and_rounds : decodeAs [
    (0b1_1011100010000000_1000011_10111111, .ink true 67 (.c 63)),
    (0b0_101110010_1101000_1111000_00000000, .inkq false 104 120),
    (0b1_1011100110000000_0001101_11000101, .inkwait true 13 (.imm 5)),
    (0b0_10111010000000000000000_00010011, .inksig false (.v 19)),
    (0b1_101110101000000_1_1100111_00000000, .pref true true 103),
    (0b0_101111000_1111100_0000000_11011110, .ldround false 124 (.imm 30)),
    (0b1_101111001_0100001_0000000_01101010, .ldroundAcq true 33 (.v 106)),
    (0b0_101111010_1000110_0000000_11100100, .round false 70 .zero)] = true := by decide

theorem test_words_engine_commands : decodeAs [
    (0b1_11000000000_1_1011_0101001_00000000, .cpy true true 11 41),
    (0b0_11000000100_0_0000_1001110_00000000, .cpyt false false 0 78),
    (0b1_11000001000_1_0101_1110011_00000000, .snap true true 5 115),
    (0b0_11000001100_0_1010_0011000_00000000, .gath false false 10 24),
    (0b1_11000010000_1_1111_0111101_00000000, .scatadd true true 15 61),
    (0b0_110001000000000000000_00_11100101, .waitc false 0 .grp),
    (0b1_1100010010000000000_1001_00000000, .waith true 9),
    (0b0_110001010_1101110_000_1110_00000000, .testh false 110 14),
    (0b1_1100010110000000000_0011_00000000, .cancelh true 3),
    (0b0_110001100_0111000_000_1000_00000000, .movhToV false 56 8),
    (0b1_110001101000_1101_0000000_10010111, .movhToH true 13 (.c 23))] = true := by decide

theorem test_words_rings_and_records : decodeAs [
    (0b0_11001000000000000000_010_11011110, .rgive false 2 (.imm 30)),
    (0b1_11001000100000000000_111_01101010, .rtake true 7 (.v 106)),
    (0b0_11001001000000000000_100_11100100, .rfree false 4 .zero),
    (0b1_1100110000000000_1110001_01000001, .emit true 113 (.v 65))] = true := by decide

theorem test_words_matrix : decodeAs [
    (0b0_11011000000_0_0110_1010100_00000000, .mma false false 6 84),
    (0b1_11011000100_1_1011_1111001_00000000, .mmas true true 11 121),
    (0b0_11011100000_0_0000_0000_110_00000000, .azero false false 0 6),
    (0b1_11011100100_1_0101_1000011_00110101, .ald true true 5 67 (.v 53)),
    (0b0_11011101000_0_1010_1101000_11100101, .ast false false 10 104 .grp),
    (0b1_1110000000_001111_1011111_00000000, .palres true 15 95),
    (0b0_1110000010_110100_000000000000000, .palrel false 52),
    (0b1_11100001000_1_1001_1010111_11000101, .mgld true true 9 87 (.imm 5))] = true := by decide

theorem test_words_ligature : decodeAs [
    (0b0_11101000000_0_1110_1111100_00000000, .kstore false false 14 124),
    (0b1_11101000100_1_0011_0100001_00000000, .lgather true true 3 33),
    (0b0_11101001000_0_1000_1000110_00000000, .lgsig false false 8 70),
    (0b1_11101001100_1_1101_1101011_01101010, .lgproj true true 13 107 (.v 106)),
    (0b0_11101010000_0_0010_0010000_00000000, .lgpool false false 2 16),
    (0b1_1110110000000000_1110111_01000001, .lgcfg true 119 (.v 65)),
    (0b0_11101100100000000000000_11100010, .lgclr false .lane),
    (0b1_111011010_1000001_0000000_01111111, .lgstat true 65 (.v 127))] = true := by decide

theorem test_words_immediates_and_hints : decodeAs [
    (0b0_111100_1100110_011011111001110110, .movi false 102 114294),
    (0b1_111101_0001011_011011111010011011, .lea true 11 114331),
    (0b0_111110000_000_0_101_000000_0_11001100, .pre false 0 false 5 false 204),
    (0b1_111110001_0000011_1000101_00000000, .live true 3 69),
    (0b0_11111001000000000000000_11111010, .yield false 250),
    (0b1_111110011_0001011011110100011111, .off true 376095),
    (0b0_1111101000000000000000000000_100, .scope false 4)] = true := by decide

/-! ### Ill-formed units (R178) -/

/-- Each unit fails the check named. -/
def illAs (l : List (Hints × Instr × IllForm)) : Bool := l.all (fun p => formCheck p.1 p.2.1 == some p.2.2)

def hPre (p : PreHint) : Hints := { Hints.empty with pre := some p }

theorem test_illFormed_words : illAs [
    (Hints.empty, .addF false .rsv 1 2 (.v 3), .floatType),
    (Hints.empty, .fdot2 false .f32 1 2 (.v 3), .floatType),
    (Hints.empty, .add false .w8 1 2 (.rsv 0xE6), .operandCode),
    (Hints.empty, .cmp false .n8 0 0 1 (.v 2), .writesM0),
    (Hints.empty, .setm false 0 (.v 2), .writesM0),
    (Hints.empty, .cmp false .n8 6 1 1 (.v 2), .condition),
    (Hints.empty, .cvtF32Binary8 false 1 false 0x18 (.v 2), .f8Code),
    (Hints.empty, .pack6 false 1 false 1 (.v 2), .f8Code),
    (Hints.empty, .abs false 1 .n8 (.v 2), .absUnsigned),
    (Hints.empty, .redux false 1 7 0 (.v 2), .opType),
    (Hints.empty, .wupd false 1 8 1 (.v 2), .opType),
    (Hints.empty, .ld false .n8 1 2 0 2 0, .memForm),
    (Hints.empty, .st false .i8 1 2 0 3 0, .memForm),
    (Hints.empty, .atom false .n16 1 2 0 3 0, .memForm),
    (Hints.empty, .cas false .n32 127 2 0 3, .casPair),
    (Hints.empty, .mfs false 1 0x04, .systemReg),
    (Hints.empty, .fence false 0, .fenceKind)] = true := by decide

theorem test_illFormed_hints : illAs [
    ({ Hints.empty with scope := some 0 }, .fence false 1, .scopeCode),
    (hPre ⟨1, false, 0, false, 0⟩, .nop false, .preUnaccepted),
    (hPre ⟨1, false, 0, true, 3⟩, .ldb false .n8 1 2 0 0, .preMask),
    (hPre ⟨0, false, 1, false, 0⟩, .add false .w8 1 2 (.v 3), .preRound),
    (hPre ⟨0, false, 0, true, 3⟩, .add false .w8 1 2 (.v 3), .preFourth),
    (Hints.empty, .ldb false .n8 1 2 0 0, .fourthMissing),
    (hPre ⟨0, false, 0, true, 0x7F⟩, .ldb false .n8 1 2 1 0, .ldbOperand),
    ({ Hints.empty with off := some 1 }, .add false .w8 1 2 (.v 3), .offUnaccepted),
    ({ Hints.empty with scope := some 2 }, .add false .w8 1 2 (.v 3), .scopeUnaccepted),
    ({ Hints.empty with live := [(1, 2)] }, .add false .w8 1 2 (.v 3), .liveUnaccepted),
    (Hints.empty, .pre false 0 false 7 false 0, .preWord),
    (Hints.empty, .live false 3 2, .liveRange),
    (Hints.empty, .yield false 0, .yieldCount)] = true := by decide

/-- Neither an ill-formed word, nor an operand written as a reserved code, nor a step of the machine's own is well formed or
encodable; a word of R177 is. -/
theorem test_wellFormed : ¬ WellFormed (.setm false 0 (.v 2)) ∧ ¬ WellFormed (.mov false 1 (.rsv 5))
    ∧ ¬ Encodable (.mov false 1 (.rsv 5)) ∧ ¬ Encodable (.promote 0)
    ∧ WellFormed (.add false .w32 3 1 (.imm 5)) ∧ Encodable (.add false .w32 3 1 (.imm 5)) := by decide

/-! ### The hypotheses of the register forms: each issues, to one thread or under a mask -/

/-- A second bundle: a thread whose unit stands under PRE with mask 1, zeroing. -/
def stMask : State := stT (fun t => { t with hints := hPre ⟨1, true, 0, false, 0⟩, unit := some 0xFFFC, m := [(1, 0x0F)] })

theorem test_issues_integer : IssuesAll st0 bd0 [
    .add false .w8 7 1 (.v 2), .sub false .w64 0 1 (.imm 15), .mul true .w16 127 127 (.lit32 7), .mad false .w32 1 1 (.v 1),
    .addSat false .i8 7 1 (.v 2), .subSat false .n64 7 1 (.zero), .mulh false .i64 7 1 (.v 4), .min false .n8 7 1 .lane,
    .max false .i16 7 1 .tid, .div false 0 7 2 (.v 6), .rem false 3 7 2 (.v 6), .div false 0 7 2 .zero,
    .and false 7 1 (.v 2), .or false 7 1 (.c 0), .xor false 7 1 (.c 63), .andn false 7 1 (.lit64 1), .orn false 7 1 (.imm 31),
    .xnor false 7 1 (.v 2), .not false 7 (.v 2), .mov true 7 .grp,
    .shl false .w8 7 1 (.imm 8), .shr false .w16 7 1 (.v 1), .sar false .w32 7 2 (.lit32 32), .rol false .w64 7 4 (.imm 1),
    .cmp false .i32 5 7 1 (.v 2), .cmp false .n8 0 1 1 (.v 1), .sel false 1 7 1 (.v 2), .bfe false 7 4 (.lit32 0x13F),
    .bfeI false 7 4 (.v 5), .bfi false 7 1 (.v 5), .abs false 7 .i64 (.v 4), .neg false 7 .n8 (.v 2), .clz false 7 .n16 (.v 1),
    .popc false 7 .i32 (.v 2), .cvtInt false 7 true .i8 .n64 (.v 2), .cvtInt false 7 false .n64 .i8 (.v 2)] :=
  issuesAll_of (by decide)

theorem test_issues_masked : IssuesAll stMask bd0 [
    .add false .w8 7 1 (.v 2), .mad false .w64 7 1 (.v 2), .addSat false .i8 7 1 (.v 2), .div false 0 7 2 (.v 6),
    .and false 7 1 (.v 2), .shl false .w8 7 1 (.v 6), .bfe false 7 4 (.v 5), .abs false 7 .i32 (.v 4),
    .cvtInt false 7 true .i8 .n64 (.v 2), .addF false .f16 7 3 (.v 3), .rcp false 7 .f32 (.v 3)] := issuesAll_of (by decide)

/-- R255: no governed divisor of v6 is 0 below the highest sub-element of 32 bits; with IDZ at 0 a zero one raises nothing. -/
theorem test_division_hyp : ∀ tid ∈ bd0.tids, ¬ divTraps st0 (.div false 0 7 2 .zero) .zero 0 (st0.thread (threadKey bd0.team tid)) := by
  intro tid ht hd
  have h : ∀ t ∈ bd0.tids, (st0.thread (threadKey bd0.team t)).fpctl.getLsbD 8 = false := by decide
  exact absurd ((h tid ht).symm.trans hd.1) (by decide)

theorem test_issues_moves : IssuesAll st0 bd0 [
    .movk false 7 0, .movk false 7 7, .movm false 7 0, .movm false 7 7, .movq false 7 7, .movi false 7 0x20000, .lea false 7 0x3FFFF,
    .rdfpf false 7, .setm false 7 (.v 2), .clfpf false .tid, .mfs false 7 0x00, .mfs false 7 0x03, .mfs false 7 0x18,
    .mfs false 7 0x1A, .mfs false 7 0x20, .mfs false 7 0x21, .mfs false 7 0x29, .mts false 0x18 (.v 1), .mts false 0x19 (.v 1),
    .setc false 63 (.v 1), .setq false 7 (.v 1)] := issuesAll_of (by decide)

theorem test_issues_float : IssuesAll st0 bd0 [
    .addF false .f32 7 3 (.v 3), .subF false .f16 7 3 (.imm 1), .mulF false .bf16 7 3 (.v 3), .scale false .f32 7 3 (.v 6),
    .fma false .f32 7 3 (.v 3), .fms false .f16 7 3 (.v 3), .minF false .f32 7 3 (.v 3), .minnum false .f16 7 3 (.v 3),
    .maxF false .bf16 7 3 (.v 3), .maxnum false .f32 7 3 (.v 3), .negF false .f16 7 (.v 3), .absF false .bf16 7 (.v 3),
    .fclass false .f32 7 (.v 3), .copysign false .f16 7 3 (.v 4), .cmpF false .f32 7 7 3 (.v 3), .cmpF false .f16 0 1 3 (.v 3),
    .fdot2 false .f16 7 3 (.v 3), .fdot4 false .bf16 7 3 (.v 3), .rsum false .f32 7 (.v 3), .rmax false .f16 7 (.v 3),
    .rcp false 7 .f32 (.v 3), .rsqrt false 7 .f16 (.v 3), .sqrt false 7 .bf16 (.v 3), .exp2 false 7 .f32 (.v 3),
    .log2 false 7 .f16 (.v 3), .tanh false 7 .bf16 (.v 3), .cvtFloatFloat false 7 .f32 .f16 (.v 3),
    .cvtF32Binary8 false 7 true 0x1A (.v 3), .cvtF16Binary8 false 7 false 0x0B (.v 3), .cvtBf16Binary8 false 7 true 1 (.v 3),
    .cvtBinary8F32 false 7 0x1F (.v 3), .cvtBinary8F16 false 7 2 (.v 3), .cvtBinary8Bf16 false 7 3 (.v 3),
    .cvtFloatInteger false 7 false .f32 true (.v 3), .cvtFloatInteger false 7 true .f16 false (.v 3)] := issuesAll_of (by decide)

/-- With no trap enabled (R287: TE is 0 at creation) no flag is trapped. -/
theorem test_float_hyp : ∀ tid ∈ bd0.tids, (st0.thread (threadKey bd0.team tid)).te = 0 := by decide

/-- R301: each kind of special input. -/
theorem test_specialInputs_hyp : (FT.f32.source false 0x7FC00000).1 = .nan false ∧ (FT.f32.source false 0x7F800001).1 = .nan true
    ∧ (FT.f16.source false 0xFC00).1 = .inf true ∧ (FT.bf16.source false 0x7F80).1 = .inf false
    ∧ (FT.f32.source false 0x8000_0000).1 = .fin true 0 (-149) ∧ (FT.f32.source true 1).1 = .fin false 0 (-149)
    ∧ (FT.f32.source false 0xC040_0000).1 = .fin true 0xC00000 (-22) := by decide

/-- R300: the brackets of 3.0 for rcp, sqrt and rsqrt; 3.0 and −3.0 are integers and 1.0 a power of two. -/
theorem test_specialRoots_hyp : let m : Nat := 0xC00000
    (FT.f32.source false 0x4040_0000).1 = .fin false m (-22) ∧ Nat.log2 m + 1 = 24 ∧ ((-22 : Int) % 2).toNat = 0
    ∧ 0x15555555555555555555555 * m ≤ 2 ^ 112 ∧ 2 ^ 112 < (0x15555555555555555555555 + 1) * m
    ∧ 0xddb3d742c265539d92b * 0xddb3d742c265539d92b ≤ m * 2 ^ 128 ∧ m * 2 ^ 128 < (0xddb3d742c265539d92b + 1) * (0xddb3d742c265539d92b + 1)
    ∧ 0x1279a74590331c4d218f * 0x1279a74590331c4d218f * m ≤ 2 ^ 176 ∧ 2 ^ 176 < (0x1279a74590331c4d218f + 1) * (0x1279a74590331c4d218f + 1) * m
    ∧ m * 2 ^ (-22 : Int).toNat = (3 : Int).natAbs * 2 ^ (-(-22) : Int).toNat
    ∧ (FT.f32.source false 0x3F80_0000).1 = .fin false (2 ^ 23) (-23) := by decide

/-- R280: the least and the greatest code of a format decode to numbers. -/
theorem test_exact_hyp : (0 < 2 ^ FT.f16.bits ∧ (FT.decode .f16 0).isNan = false)
    ∧ 0xFBFF < 2 ^ FT.f16.bits ∧ (FT.decode .f16 0xFBFF).isNan = false := by decide

/-- R15, R183, R251: each kind of register that mts writes, with the privilege it asks for. -/
theorem test_issues_mts : IssuesAll st0 bd0
    ([0x00, 0x01, 0x02, 0x03, 0x08, 0x09, 0x0A, 0x0C, 0x0D, 0x0E, 0x0F, 0x10, 0x11, 0x12, 0x13, 0x1A, 0x20, 0x21, 0x22, 0x28,
      0x29].map (fun r => Instr.mts false r (.v 1)))
    ∧ (st0.ctx bd0.ctx).priv = true ∧ bd0.tids = [0]
    ∧ ∀ tid ∈ bd0.tids, st0.opndB (.mts false 0x01 (.v 1)) (.v 1) (st0.thread (threadKey bd0.team tid)) = 5 :=
  ⟨issuesAll_of (by decide), by decide, by decide, by decide⟩

theorem test_late_hyp : (3 : Nat) < 7
    ∧ ({ st0 with late := [(3, 0, 63, 1), (7, 0, 63, 2)] } : State).late = [(3, 0, (63#6).toNat, 1), (7, 0, (63#6).toNat, 2)] := by
  decide

theorem test_issues_hints : IssuesAll st0 bd0 [
    .pre false 7 true 6 true 0x85, .live false 0 127, .off false 0x200000, .scope false 5, .yield false 255, .nop true,
    .br false 1 true 0x100000, .jmp false 0x1000000, .jmpr false 12, .sleep false .zero, .sleep false (.v 1), .bkpt false] :=
  issuesAll_of (by decide)

theorem test_jmpr_hyp : ∀ tid ∈ bd0.tids, ((st0.thread (threadKey bd0.team tid)).getV 12).toNat % 4 = 0 := by decide

/-! ### The hypotheses of the memory forms -/

/-- A unit under PRE whose fourth operand is v1, or v13 with its pair. -/
def stLdb (r : BitVec 8) : State := stT (fun t => { t with hints := hPre ⟨0, false, 0, true, r⟩, unit := some 0xFFFC })

/-- Scratchpad, Well and, under the policy of the Well, the Well: plain and bounded loads find their bytes there (R209). -/
theorem test_loadsNear_hyp : IssuesAll st0 bd0 [.ld false .i64 7 9 0 0 0, .ld false .n8 7 8 0 0 3]
    ∧ Issues (stLdb 1) bd0 (.ldb false .n16 7 9 0 0)
    ∧ (st0.near (st0.operands bd0 (.ld false .i64 7 9 0 0 0) 0) 8 1).map (fun q => (q, st0.nearPoisoned q 8))
      = some ((false, sk 0x100), false)
    ∧ (st0.near (st0.operands bd0 (.ld false .n8 7 8 0 0 3) 0) 1 1).map (fun q => (q, st0.nearPoisoned q 1))
      = some ((true, 0x1000), false)
    ∧ ((stLdb 1).near ((stLdb 1).operands bd0 (.ldb false .n16 7 9 0 0) 0) 2 1).map (fun q => (q, st0.nearPoisoned q 2))
      = some ((false, sk 0x100), false) :=
  ⟨issuesAll_of (by decide), issues_of (by decide), by decide, by decide, by decide⟩

/-- R209: four bytes of a signed load. -/
theorem test_loadValue_hyp :
    (⟨9, .ld false .i32 7 8 0 0 0, st0.operands bd0 (.ld false .i32 7 8 0 0 0) 0, [1, 2, 3, 0x80].map some, none, 0, false, false, false⟩ : Outst).value
      = some 0xFFFF_FFFF_8003_0201 := by decide

theorem test_storesNear_hyp : IssuesAll st0 bd0 [.st false .n64 2 9 0 0 0, .st false .n8 2 8 0 0 3]
    ∧ (st0.near (st0.operands bd0 (.st false .n64 2 9 0 0 0) 0) 8 1) = some (false, sk 0x100)
    ∧ (st0.near (st0.operands bd0 (.st false .n8 2 8 0 0 3) 0) 1 1) = some (true, 0x1000)
    ∧ st0.well.wf = true ∧ st0.scratch.wf = true := ⟨issuesAll_of (by decide), by decide, by decide, by decide, by decide⟩

/-- Plain, bounded and acquiring loads of the three windows, and of the far and bypass policies. -/
theorem test_meets_loads :
    Meets st0 bd0 (.ld false .n64 7 10 0 0 0) (loadAct (.ld false .n64 7 10 0 0 0) .n64 0 (.rel 0))
    ∧ Meets st0 bd0 (.ld false .i8 7 10 0 0 1) (loadAct (.ld false .i8 7 10 0 0 1) .i8 1 (.rel 0))
    ∧ Meets st0 bd0 (.ld false .n16 7 8 0 0 3) (loadAct (.ld false .n16 7 8 0 0 3) .n16 3 (.rel 0))
    ∧ Meets (stLdb 1) bd0 (.ldb false .n32 7 10 0 2) (fun e => loadAct (.ldb false .n32 7 10 0 2) .n32 2 (ldbBoundOf 0 e) e)
    ∧ Meets (stLdb 13) bd0 (.ldb false .n32 7 9 1 0) (fun e => loadAct (.ldb false .n32 7 9 1 0) .n32 0 (ldbBoundOf 1 e) e)
    ∧ Meets st0 bd0 (.ld false .n32 7 10 1 2 0) (acquireAct (.ld false .n32 7 10 1 2 0) .n32 2 0)
    ∧ Meets st0 bd0 (.ld false .n32 7 8 1 5 3) (acquireAct (.ld false .n32 7 8 1 5 3) .n32 5 3) := by
  refine ⟨?_, ?_, ?_, ?_, ?_, ?_, ?_⟩ <;> exact meets_of (by decide)

/-- A line that the core's L1 has of VA 0x2_0000, for CTXID 3, and no TLB entry: an acquire of team scope and a plain load hit it
(R42, R90). -/
def stHit : State :=
  { st0 with
    cores := [(0, { co0 with tlb := [], l1 := [⟨3, 0x400, true, true, false, 0, 0, none, List.replicate 128 7, [], false, false⟩] })]
    diesT := [] }

theorem test_meets_hits :
    Meets stHit bd0 (.ld false .n32 7 10 1 1 0) (acquireAct (.ld false .n32 7 10 1 1 0) .n32 1 0)
    ∧ Meets stHit bd0 (.ld false .n64 7 10 0 0 0) (loadAct (.ld false .n64 7 10 0 0 0) .n64 0 (.rel 0)) := by
  refine ⟨?_, ?_⟩ <;> exact meets_of (by decide)

/-- Plain stores, and releases at the least and the greatest scope. -/
theorem test_meets_stores :
    Meets st0 bd0 (.st false .n64 2 10 0 0 0) (storeAct .n64 0 0 0)
    ∧ Meets st0 bd0 (.st false .n8 2 9 0 0 2) (storeAct .n8 0 0 2)
    ∧ Meets st0 bd0 (.st false .n32 2 10 2 1 1) (storeAct .n32 2 1 1)
    ∧ Meets st0 bd0 (.st false .n32 2 8 2 5 3) (storeAct .n32 2 5 3) := by
  refine ⟨?_, ?_, ?_, ?_⟩ <;> exact meets_of (by decide)

/-- Atomics in the three windows, in every order. -/
theorem test_meets_atomics :
    Meets st0 bd0 (.atom false .n32 2 8 0 3 7) (atomicNearAct .n32 (.atom false .n32 2 8 0 3 7)
      (fun e old => some (atomValue 7 .n32 old (e.opC.toNat % 2 ^ IT.n32.bits))))
    ∧ Meets st0 bd0 (.cas false .n64 2 9 0 3) (atomicNearAct .n64 (.cas false .n64 2 9 0 3)
      (fun e old => if old = e.opC.toNat % 2 ^ IT.n64.bits then some (e.opE.toNat % 2 ^ IT.n64.bits) else none))
    ∧ Meets st0 bd0 (.atom false .i64 2 10 3 5 1) (atomicAct .i64 3 5 (.atom false .i64 2 10 3 5 1)
      (fun e old => some (atomValue 1 .i64 old (e.opC.toNat % 2 ^ IT.i64.bits))))
    ∧ Meets st0 bd0 (.cas false .n32 2 10 1 1) (atomicAct .n32 1 1 (.cas false .n32 2 10 1 1)
      (fun e old => if old = e.opC.toNat % 2 ^ IT.n32.bits then some (e.opE.toNat % 2 ^ IT.n32.bits) else none)) := by
  refine ⟨?_, ?_, ?_, ?_⟩ <;> exact meets_of (by decide)

/-- wupd and wred of a Well block; the state after wred's one reduction is quiet. -/
theorem test_meets_updates : Meets st0 bd0 (.wupd false 0 8 8 (.v 3)) (wupdAct 0 8)
    ∧ Meets st0 bd0 (.wupd false 6 3 8 (.v 2)) (wupdAct 6 3) ∧ Meets st0 bd0 (.wred false 1 4 8 (.v 2)) (wredAct 4)
    ∧ (3 : BitVec 3) ≠ 7#3 ∧ (10 : BitVec 4).toNat ≤ 10 ∧ 0xFFFF < 2 ^ (elemOfCode 10).bits := by
  refine ⟨?_, ?_, ?_, by decide, by decide, by decide⟩ <;> exact meets_of (by decide)

theorem test_meets_fences : Meets st0 bd0 (.fence false 1) (fenceAct 1) ∧ Meets st0 bd0 (.fence false 2) (fenceAct 2)
    ∧ Meets st0 bd0 (.fence false 3) (fenceAct 3) ∧ IssuesAll st0 bd0 [.pref false true 10, .pref false false 8]
    ∧ window (st0.operands bd0 (.pref false false 8) 0).addr ≠ .glob :=
  ⟨meets_of (by decide), meets_of (by decide), meets_of (by decide), issuesAll_of (by decide), by decide⟩

/-- `st0` with the page of VA 0x2_0000 on die 1. -/
def stRemote : State :=
  { st0 with cores := [(0, { co0 with tlb := [page 2 0x80_0002 4] })], diesT := [(0, { Die.reset with tlb := [page 2 0x80_0002 4] })] }

/-- A line of the device is at hand for a pref, in the core's own die and in another; then the L1, and the far ways, hold it. -/
theorem test_pref_hyp : Meets st0 bd0 (.pref false false 10) (prefAct false) ∧ Meets stRemote bd0 (.pref false true 10) (prefAct true)
    ∧ (∃ t, tlbOnly st0 0 0 0x2_0000 = some t ∧ prefable (st0.operands bd0 (.pref false false 10) 0) st0 t = true)
    ∧ (∃ t, tlbOnly stRemote 0 0 0x2_0000 = some t ∧ prefable (stRemote.operands bd0 (.pref false true 10) 0) stRemote t = true)
    ∧ farCacheable 0 0x80_0002_0000 = true ∧ fillable stRemote .far ≠ [] ∧ l1Find st0 0 0 0x2_0000 = none
    ∧ ((prefAct false (st0.operands bd0 (.pref false false 10) 0) st0).bind (fun v => l1Find v 0 0 0x2_0000)).map
      (fun k => k.bytes.take 8) = some (natToBytes 8 0x1122_3344_5566_8788)
    ∧ ((prefAct true (stRemote.operands bd0 (.pref false true 10) 0) stRemote).map (fun v =>
      ((v.die 0).far.map (fun l => l.line), (v.core 0).l1.length))) = some ([0x80_0002_0000 / 128], 0) :=
  ⟨meets_of (by decide), meets_of (by decide), ⟨_, rfl, by decide⟩, ⟨_, rfl, by decide⟩, by decide, by decide, by decide, by decide,
    by decide⟩

/-- The counters of region 5, at Well offset 320, and of the greatest region. -/
theorem test_meets_rounds : Meets st0 bd0 (.ldround false 7 (.v 1)) (roundReadAct (.ldround false 7 (.v 1)) false)
    ∧ Meets st0 bd0 (.ldroundAcq false 7 (.lit32 1023)) (roundReadAct (.ldroundAcq false 7 (.lit32 1023)) true)
    ∧ Meets st0 bd0 (.round false 7 (.v 1)) (roundAct (.round false 7 (.v 1))) :=
  ⟨meets_of (by decide), meets_of (by decide), meets_of (by decide)⟩

/-- Two granules of the inked page get ink 7; a query there; a signal. -/
theorem test_meets_inks : Meets st0 bd0 (.ink false 11 (.lit64 0x2_0000_0007)) inkAct
    ∧ Meets st0 bd0 (.inkq false 7 11) (inkqAct (.inkq false 7 11)) ∧ Meets st0 bd0 (.inksig false (.v 13)) inksigAct :=
  ⟨meets_of (by decide), meets_of (by decide), meets_of (by decide)⟩

/-- A holder of ink 7, its highest, waits for a change of a word. -/
def stHeld : State := stT (fun t => { t with holds := [⟨7, 0, false, false, []⟩] })

/-- Another thread of the bundle, that holds ink 7 too as far as its own record goes. -/
def stHeldTwo : State :=
  { stHeld with
    threads := [(0, stHeld.thread 0), (1, { stHeld.thread 0 with tid := 1, pos := 1, tag := 78 })]
    bundle := some { bd0 with tids := [0, 1] } }

/-- R133 and R229: inkwait of one thread, which waits for a change of the word, and of a bundle of two. -/
theorem test_inkwait_hyp :
    MeetsGo stHeld bd0 (.inkwait false 10 (.v 13)) inkwaitAct (fun t =>
      (t.thread 0).why? == some (.watch 0x2_0000 0x1122_3344_5566_8788 7 0))
    ∧ MeetsGo stHeldTwo { bd0 with tids := [0, 1] } (.inkwait false 10 (.v 13)) inkwaitAct (fun t =>
      (t.thread 0).why?.isSome && (t.thread 1).why?.isSome) := ⟨meetsGo_of (by decide), meetsGo_of (by decide)⟩

/-- Calls at the least frame depth. -/
theorem test_meets_calls :
    Meets st0 bd0 (.call false 0x1FFFFFF) (callAct (fun e => e.npc + 4 * (0x1FFFFFF#25).signExtend 64))
    ∧ Meets st0 bd0 (.callr false 12) (callAct (fun e => e.opA)) := ⟨meets_of (by decide), meets_of (by decide)⟩

/-- Holds at depths 2 and 0; the handler's are marked. -/
def stFrames (h : Bool) : State :=
  stT (fun t => { t with fd := 2, handler := h, holds := [⟨7, 2, false, false, []⟩, ⟨8, 0, false, false, []⟩, ⟨9, 2, false, true, []⟩] })

/-- R126, R138, R243 and R244: returns from depth 2 without inks, with two of them, and in a handler with one; an exit without holds,
and with three. -/
theorem test_returns_hyp :
    MeetsGo (stT (fun t => { t with fd := 2 })) bd0 (.ret false) retAct (fun t => (t.thread 0).pc == 0x1_0040 && (t.thread 0).fd == 1)
    ∧ MeetsGo (stFrames false) bd0 (.ret false) retAct (fun t => (t.thread 0).why? == some (.releasing [9, 7] (.ret 0x1_0040)))
    ∧ MeetsGo (stFrames true) bd0 (.ret false) retAct (fun t => (t.thread 0).why? == some (.releasing [9] (.ret 0x1_0040)))
    ∧ MeetsGo st0 bd0 (.exit false) exitAct (fun t => (t.thread 0).status == .exited)
    ∧ MeetsGo (stFrames false) bd0 (.exit false) exitAct (fun t => (t.thread 0).why? == some (.releasing [9, 8, 7] .exit)) :=
  ⟨meetsGo_of (by decide), meetsGo_of (by decide), meetsGo_of (by decide), meetsGo_of (by decide), meetsGo_of (by decide)⟩

theorem test_exit_hyp : st0.thread? 0 = some th0 ∧ threadKey th0.team th0.tid = 0
    ∧ st0.threads.all (fun p => p.1 == 0) = true ∧ st0.threads.length = 1 := ⟨rfl, by decide, by decide, by decide⟩


/-- R222: contributions of each operation; −100 + 100 + 100 of i8 is not saturated on the way, and 1 + 2²⁴ + 1 of f32 is rounded
once. -/
theorem test_red_hyp :
    redElem 1 4 0x9C [100, 100] = 100 ∧ redElem 1 4 100 [100, 0x9C] = 100 ∧ redElem 0 0 0xFF [2] = 1
    ∧ redElem 2 4 5 [0x80, 7] = 0x80 ∧ redElem 3 0 5 [0x80, 7] = 0x80
    ∧ redElem 4 2 12 [10, 9] = 8 ∧ redElem 5 2 12 [10] = 14 ∧ redElem 6 2 12 [10] = 6
    ∧ redElem 0 8 0x3F80_0000 [0x4B80_0000, 0x3F80_0000] = 0x4B80_0001
    ∧ redElem 2 9 0 [0x8000, 1] = 0x8000 ∧ redElem 3 10 0x7FC1 [0] = FT.qnan .bf16 := by decide
/-! ### The hypotheses of barriers, splits, traps, returns and collectives -/

/-- Two threads of the team: the second one is at rest, or in the bundle too. -/
def stTwo (tids : List Nat) (f : Thread → Thread) : State :=
  { st0 with threads := [(0, f th0), (1, f { th0 with tid := 1, pos := 1, tag := 78 })], bundle := some { bd0 with tids := tids } }

def bdOf (tids : List Nat) : Bundle := { bd0 with tids := tids }

/-- R245: the first of two threads arrives and waits; the last one arrives; the two of one bundle arrive in turn, and both go on. -/
theorem test_barrier_hyp :
    MeetsGo (stTwo [0] id) (bdOf [0]) (.bar false 15) (barAct 15) (fun t => (t.thread 0).why? == some (.bar 15))
    ∧ MeetsGo st0 bd0 (.bar false 0) (barAct 0) (fun t => (t.thread 0).pc == 0x1_0004 && (barOf t 0 0).phase == 1)
    ∧ MeetsGo (stTwo [0, 1] id) (bdOf [0, 1]) (.bar false 3) (barAct 3) (fun t =>
      (t.thread 0).why?.isNone && (t.thread 1).pc == 0x1_0004 && (barOf t 0 3).arrived.isEmpty)
    ∧ MeetsGo (stTwo [0] id) (bdOf [0]) (.cbar false 3) (cbarAct 3) (fun t => (t.thread 0).why? == some (.cbar 3))
    ∧ MeetsGo st0 bd0 (.cbar false 0) (cbarAct 0) (fun t => (t.thread 0).pc == 0x1_0004)
    ∧ MeetsGo (stTwo [0, 1] id) (bdOf [0, 1]) (.cbar false 2) (cbarAct 2) (fun t =>
      (t.thread 0).why?.isNone && (t.thread 1).pc == 0x1_0004 && (cbarOf t 0 2).arrived.isEmpty) := by
  refine ⟨?_, ?_, ?_, ?_, ?_, ?_⟩ <;> exact meetsGo_of (by decide)

/-- R167: two threads that disagree, in a team with spawn slots and in one without. -/
def stSplit (spawn : Bool) : State :=
  { stTwo [0, 1] id with
    threads := [(0, { th0 with m := [(1, 1)] }), (1, { th0 with tid := 1, pos := 1 })], teams := [(0, { tm0 with hadSpawn := spawn })] }

theorem test_brs_hyp : Issues (stSplit true) (bdOf [0, 1]) (.brs false 1 true 0x100000)
    ∧ Issues (stSplit false) (bdOf [0, 1]) (.brs false 1 true 4) ∧ ((stSplit false).team 0).hadSpawn = false
    ∧ ((stSplit true).team 0).hadSpawn = true ∧ (∀ tid ∈ [0, 1], ((stSplit true).thread (threadKey 0 tid)).outs = [])
    ∧ (∀ tid ∈ [0, 1], ((stSplit true).thread (threadKey 0 tid)).replay = [])
    ∧ [0, 1].filter (fun tid => (((stSplit true).thread (threadKey 0 tid)).getM 1).getLsbD 0 == true) = [0]
    ∧ quireUsed (stSplit true) 0 + 1 * (256 + 8 * (liveRegs (stSplit true)
        ((stSplit true).operands (bdOf [0, 1]) (.brs false 1 true 0x100000) 0)).length) ≤ Config.quireBytes :=
  ⟨issues_of (by decide), issues_of (by decide), by decide, by decide, by decide, by decide, by decide, by decide⟩

/-- R249 and R386: a free frame, no handler, and a save slot that translates and may be written. -/
theorem test_trap_hyp : Issues (stTwo [0, 1] id) (bdOf [0, 1]) (.trap false (.v 1)) ∧ Issues st0 bd0 (.bkpt false)
    ∧ (slotInfo st0 0 0 0).frame = [] ∧ (∀ tid ∈ [0, 1], ((stTwo [0, 1] id).thread (threadKey 0 tid)).handler = false)
    ∧ (saveSlotVa (stTwo [0, 1] id) 0 0 0).toNat < 2 ^ 56
    ∧ (match lookup (stTwo [0, 1] id) 0 0 (saveSlotVa (stTwo [0, 1] id) 0 0 0).toNat with
      | (.ok p, u) => leafW p.leaf && (snapKey u 0 p).1.isNone
      | _ => false) = true ∧ (st0.ctx 0).dbgctl.getLsbD 0 = false :=
  ⟨issues_of (by decide), issues_of (by decide), by decide, by decide, by decide, by decide, by decide⟩

/-- R249 and R399: breakpoints that halt. -/
def stDbg : State := { st0 with ctxs := [(0, { cx0 with dbgctl := 0xF })] }

theorem test_bkpt_hyp : Issues stDbg bd0 (.bkpt false)
    ∧ (stDbg.ctx 0).dbgctl.getLsbD 0 = true ∧ (stDbg.ctx 0).dbgctl.getLsbD 3 = true
    ∧ (match lanesRun (.bkpt false) (fun e u =>
        let v := u.updTeam e.team (fun tm => if tm.halted then tm else { tm with halted := true, haltReason := some 2 })
        some (noteHalt { v with
          threads := v.threads.map (fun p => if p.2.team = e.team then (p.1, { p.2 with age := 0 }) else p) } e.team))
        (stDbg.operandsAll bd0 (.bkpt false)) stDbg.issued with
      | some t => t.threads.all (fun p => p.2.trap.isNone)
      | none => false) = true := ⟨issues_of (by decide), by decide, by decide, by decide⟩

/-- R424: the halt is complete with the unit, and waits to be queued. -/
theorem test_bkptHalts : after (exec (.bkpt false) stDbg) (fun t =>
    (t.team 0).halted && (t.team 0).haltReason == none && (t.ctx 0).halts == [(0, 2)]) = true := by decide

/-- A thread in its handler, with a lane record and one replay entry in the save slot (R383, R384). -/
def stHandler : State :=
  { stT (fun t => { t with handler := true }) with
    phys := put phys0 [(0x4003_0100, 8, 0x1_0040), (0x4003_0108, 2, 3), (0x4003_010A, 2, 3), (0x4003_0110, 8, 99),
      (0x4003_1000, 4, 0x108181C5), (0x4003_1004, 4, 1)]
    cores := [(0, { co0 with slots := [(0, ⟨0, false, [0], false, none⟩)] })] }

/-- R167: the quire memory is full, so that brs acts as br. -/
def stFull : State :=
  { stSplit true with
    teams := [(0, { tm0 with hadSpawn := true, spawns := [⟨5, 0x1_0100, [], Config.quireBytes, 0⟩] })] }

theorem test_brsFull_hyp : Issues stFull (bdOf [0, 1]) (.brs false 1 true 4)
    ∧ Config.quireBytes < quireUsed stFull 0 + (([0] : List Nat).map (fun tid => 256 + 8 * (liveRegs stFull
        (stFull.operands (bdOf [0, 1]) (.brs false 1 true 4) tid)).length)).sum
    ∧ after (exec (.brs false 1 true 4) stFull) (fun t => (t.team 0).spawns.length == 1 && (t.thread 0).pc == 0x1_0014
      && (t.thread 1).pc == 0x1_0004) = true := ⟨issues_of (by decide), by decide, by decide⟩

/-- The same handler, in a KEEP frame or not, with two inks taken there. -/
def stHandlerInks (keep : Bool) : State :=
  { stHandler with
    threads := [(0, { th0 with handler := true, holds := [⟨7, 3, false, true, []⟩, ⟨9, 4, false, true, []⟩] })]
    cores := [(0, { co0 with slots := [(0, ⟨0, false, [0], keep, none⟩)] })] }

/-- R138, R387 and R393: rtt with nothing to release, with both inks of the handler, and with the one a KEEP frame does not keep. -/
theorem test_rtt_hyp :
    MeetsGo stHandler bd0 (.rtt false) rttAct (fun t => !(t.thread 0).handler && (t.thread 0).fd == 3)
    ∧ MeetsGo (stHandlerInks false) bd0 (.rtt false) rttAct (fun t => (t.thread 0).why? == some (.releasing [9, 7] .rtt))
    ∧ MeetsGo (stHandlerInks true) bd0 (.rtt false) rttAct (fun t => (t.thread 0).why? == some (.releasing [9] .rtt)) :=
  ⟨meetsGo_of (by decide), meetsGo_of (by decide), meetsGo_of (by decide)⟩

/-- After a KEEP frame a hold is the thread's own. -/
theorem test_rttKeeps :
    (((returnThread (stHandlerInks true) 0 [] []).thread 0).holds.map (fun k => k.h)) = [false, false]
    ∧ (((returnThread (stHandlerInks false) 0 [] []).thread 0).holds.map (fun k => k.h)) = [true, true] := by decide

theorem test_record_hyp : causeCkpt ≠ causeFpx ∧ (9 : Nat) ≤ 9 ∧ stHandler.thread? 0 = some { th0 with handler := true } :=
  ⟨by decide, by decide, rfl⟩

/-- R170: both live members of home group 0 stand at one collective. -/
theorem test_collectives_hyp : IssuesAll (stTwo [0, 1] id) (bdOf [0, 1]) [
    .shuf false .w8 7 1 (.v 2), .voteAny false 7 (.v 2), .voteAll false 7 .lane, .voteBallot false 7 (.v 2), .elect false 7,
    .matchAny false 7 (.v 2), .redux false 7 6 7 (.v 2), .scanIncl false 7 0 8 (.v 2), .scanExcl false 7 3 10 (.v 2),
    .pack6 false 7 true 3 (.v 2), .unpack6 false 7 2 (.v 2), .topk false .f32 7 3 (.v 6)]
    ∧ (∀ tid ∈ [0, 1], homeGroup tid = 0 ∧ ((stTwo [0, 1] id).thread (threadKey 0 tid)).csn = 0
      ∧ ((stTwo [0, 1] id).thread (threadKey 0 tid)).replay = []
      ∧ effectiveMask ((stTwo [0, 1] id).operands (bdOf [0, 1]) (.topk false .f32 7 3 (.v 6)) tid) = 0xFFFFFFFF)
    ∧ (∀ tid ∈ [0, 1], ((stTwo [0, 1] id).operands (bdOf [0, 1]) (.topk false .f32 7 3 (.v 6)) tid).opB.extractLsb' 0 32 = 2)
    ∧ ((stTwo [0, 1] id).team 0).rendezvous = [] ∧ [0, 1].Pairwise (fun x y => x < y)
    ∧ (stTwo [0, 1] id).threads.map (fun p => p.1) = [threadKey 0 0, threadKey 0 1] :=
  ⟨issuesAll_of (by decide), by decide, by decide, by decide, by decide, by decide⟩

/-- Members at the lowest and the highest home lane. -/
def members : List Member :=
  [⟨0, { st0.operands bd0 (.nop false) 0 with opA := 1, opB := 0xFF }⟩, ⟨31, { st0.operands bd0 (.nop false) 0 with opA := 2, opB := 0x80 }⟩]

theorem test_members_hyp : (∀ m ∈ members, m.lane < 32 ∧ (0x80000001#32).getLsbD m.lane = true)
    ∧ members.Pairwise (fun x y => x.lane ≠ y.lane) ∧ members.length = 2 ∧ (6 : BitVec 3) ≠ 7#3 ∧ (7 : BitVec 4).toNat < 8
    ∧ 7 < 64 / (IT.ofBits ((4 : BitVec 4).extractLsb' 0 3)).bits
    ∧ (3 : BitVec 3) ≠ 0#3 ∧ 8 ≤ (8 : BitVec 4).toNat ∧ (10 : BitVec 4).toNat ≤ 10
    ∧ (∀ b, b < 6 → (3 : Nat).testBit b = ((capturedAt Env.opB members (0 / 4 * 4 + (6 * (8 * 0 + 1) + b) / 64)).getD 0).getLsbD
      ((6 * (8 * 0 + 1) + b) % 64)) := by decide

/-- The members of R305's example, for a given k: home lanes 0, 1 and 3. -/
def topMembers (k : Word) : List Member :=
  [(0, 0x7FC0_0000_3F00_0000), (1, 0xBF80_0000_4000_0000), (3, 0x3F00_0000_4000_0000)].map (fun p =>
    ⟨p.1, { st0.operands bd0 (.nop false) 0 with opA := p.2, opB := k }⟩)

/-- R305's example: with k 2, and with k 6, where the pair of rank 2 reaches no lane. -/
theorem test_topk : (topMembers 2).map (topkResult .f32 (topMembers 2)) = [0x0000_0002_4000_0000, 0x0000_0006_4000_0000, 0xFFFF_FFFF_FF80_0000]
    ∧ ((topMembers 6).map (topkResult .f32 (topMembers 6)))[2]? = some 0x0000_0007_3F00_0000 := by decide

/-- Position 6 has one valid candidate before it, and there are five in all. -/
theorem test_topk_hyp : let ms := topMembers 2
    let bits (p : Nat) : Nat := elemAt 32 ((capturedAt Env.opA ms (p / 2)).getD 0) (p % 2)
    let valid (p : Nat) : Bool := (capturedAt Env.opA ms (p / 2)).isSome && !(FT.f32.decode (bits p)).isNan
    valid 6 = true ∧ (List.range 64).countP valid = 5
      ∧ (List.range 64).countP (fun q => valid q && (!FVal.le (FT.f32.decode (bits q)) (FT.f32.decode (bits 6))
        || (FVal.le (FT.f32.decode (bits 6)) (FT.f32.decode (bits q)) && decide (q < 6)))) = 1 := by decide


/-! ### Where forms trap (R15, R36, R176, R183, R207, R255, R290) -/

/-- Two threads of one bundle; the second has 0 in v6, 0x1_0002 in v12 and the reset value in v1; both have IDZ and the trap of NV enabled. -/
def stRaise : State :=
  { stTwo [0, 1] id with
    threads := [(0, { th0 with fpctl := 0x2101 }), (1, ({ th0 with tid := 1, pos := 1, tag := 78, fpctl := 0x2101 } : Thread).setV 6 0
      |>.setV 12 0x1_0002 |>.setV 1 0 |>.setV 3 0xFF80_0000)] }

/-- What a thread's bytes of the save area record of a trap that it took alone: the cause. -/
def tookCause (s : State) (n : Nat) : Bool := Memory.nat s.phys 0x4003_0000 2 == n && (s.thread 1).handler

theorem test_raises_hyp : IssuesAll stRaise (bdOf [0, 1]) [.div false 1 7 2 (.v 6), .rem false 1 7 2 (.v 6), .jmpr false 12,
      .mts false 0x0A (.v 1), .setc false 3 (.v 1), .setq false 3 (.v 1), .addF false .f32 7 3 (.lit32 0x7F80_0000)]
    ∧ (stRaise.thread 1).fpctl.getLsbD 8 = true ∧ stRaise.opndB (.div false 1 7 2 (.v 6)) (.v 6) (stRaise.thread 1) = 0
    ∧ ((stRaise.thread 1).getV 12).toNat % 4 ≠ 0 ∧ (stRaise.thread 1).te = 16
    ∧ ((sumTerms [.val (FT.decode .f32 0xFF80_0000), .val (FT.decode .f32 0x7F80_0000)]).round .f32 .rne false).flags = 16
    ∧ stRaise.opndB (.setc false 3 (.v 1)) (.v 1) (stRaise.thread 0) ≠ stRaise.opndB (.setc false 3 (.v 1)) (.v 1) (stRaise.thread 1) :=
  ⟨issuesAll_of (by decide), by decide, by decide, by decide, by decide, by decide, by decide⟩

/-- DIV0, ALIGN and FPX of the second thread; the first has its result. -/
theorem test_raises : after (exec (.div false 1 7 2 (.v 6)) stRaise) (fun t => tookCause t 8 && !(t.thread 0).handler
      && (t.thread 0).getV 7 == 0x1_FFFF_FFFF) = true
    ∧ after (exec (.jmpr false 12) stRaise) (fun t => tookCause t 4 && Memory.nat t.phys 0x4003_0010 8 == 0x1_0002
      && (t.thread 0).pc == 0x1_0020) = true
    ∧ after (exec (.addF false .f32 7 3 (.lit32 0x7F80_0000)) stRaise) (fun t => tookCause t 9 && Memory.nat t.phys 0x4003_0018 8 == 16) = true
    ∧ after (exec (.setq false 3 (.v 1)) stRaise) (fun t => tookCause t 18 && (t.thread 0).handler && t.late.isEmpty) = true :=
  ⟨by decide, by decide, by decide, by decide⟩

/-- A user context. -/
def stUser : State := { stTwo [0, 1] id with ctxs := [(0, { cx0 with priv := false })] }

theorem test_priv_hyp : IssuesAll stUser (bdOf [0, 1]) [.mts false 0x29 (.v 1)] ∧ (stUser.ctx 0).priv = false
    ∧ after (exec (.mts false 0x29 (.v 1)) stUser) (fun t => tookCause t 3 && Memory.nat t.phys 0x4003_0018 8 == 0x29) = true :=
  ⟨issuesAll_of (by decide), by decide, by decide⟩

/-- R36 and R207: an address at each check: no window, past the Well bounds, past the allocation; a Well address and an acquire's and a
release's that are not aligned. -/
def stAddr (a : Word) : State := stT (fun t => t.setV 8 a)

theorem test_address_issues : [(0x4000_0000_0000_0000 : Word), 0x0100_0000_7000_0000, 0x0200_0000_00F1_0000, 0x0100_0000_0000_1002].all
    (fun a => issuesB (stAddr a) bd0 (.ld false .n32 7 8 0 0 0) && issuesB (stAddr a) bd0 (.st false .n32 2 8 0 0 0)) = true := by decide

theorem test_address_hyp :
    addressTrap st0 bd0 4 false 0x4000_0000_0000_0000 = some (record 5 8 0x4000_0000_0000_0000 0)
    ∧ addressTrap st0 bd0 4 false 0x0100_0000_7000_0000 = some (record 5 9 0x0100_0000_7000_0000 0)
    ∧ addressTrap st0 bd0 4 false 0x0200_0000_00F1_0000 = some (record 5 10 0x0200_0000_00F1_0000 0)
    ∧ addressTrap st0 bd0 4 false 0x0100_0000_0000_1002 = some (record 4 0 0x0100_0000_0000_1002 0)
    ∧ addressTrap st0 bd0 4 true 0x2_0002 = some (record 4 0 0x2_0002 0) :=
  ⟨by decide, by decide, by decide, by decide, by decide⟩

theorem test_ordered_issues : issuesB (stAddr 0x2_0002) bd0 (.ld false .n32 7 8 1 2 0) = true
    ∧ issuesB (stAddr 0x2_0002) bd0 (.st false .n32 2 8 2 2 0) = true
    ∧ ((stAddr 0x2_0002).operands bd0 (.ld false .n32 7 8 1 2 0) 0).addr = 0x2_0002 := ⟨by decide, by decide, by decide⟩

theorem test_address : after (exec (.ld false .n32 7 8 0 0 0) (stAddr 0x0100_0000_0000_1002)) (fun t =>
    Memory.nat t.phys 0x4003_0000 2 == 4 && Memory.nat t.phys 0x4003_0010 8 == 0x0100_0000_0000_1002 && (t.thread 0).outs.isEmpty) = true := by
  decide
/-! ### The hypotheses of the command forms -/

/-- An address of the own scratchpad. -/
def scr (o : Nat) : Nat := 0x0200_0000_00F0_0000 + o

/-- A configuration record of a head-set (R349): D 8, one table of one bit, KMAX 2, MAXCH 1, one head, its pool at 0x1000. -/
def lgRec : List Byte := natToBytes 2 8 ++ [1, 1] ++ natToBytes 2 2 ++ [1, 0] ++ natToBytes 2 0 ++ natToBytes 2 1
  ++ natToBytes 4 0x1000 ++ List.replicate 16 0

/-- Descriptors, one every 64 bytes from 0x200: cpy, cpyt, gath, scatadd that appends and that drains, snap, mma, mma with a
false predicate, mmas, a palette image, kstore, lgather, lgsig, lgpool, and lgcfg's record. -/
def descs : Memory := put [] (([
    (0x200, 8, 0x2_0000), (0x208, 8, scr 0x800), (0x210, 4, 16), (0x214, 4, 1),
    (0x240, 8, 0x2_0000), (0x248, 8, scr 0x800), (0x250, 4, 2), (0x254, 4, 2), (0x258, 4, 2), (0x25C, 4, 2),
    (0x280, 8, 0x2_0000), (0x288, 8, scr 0x800), (0x290, 8, scr 0x900), (0x298, 2, 2), (0x29A, 2, 4), (0x29C, 4, 4),
    (0x2A0, 2, 4), (0x2A2, 2, 4), (0x900, 4, 3), (0x904, 4, 0xFFFF_FFFF),
    (0x2C0, 8, 0x2_0040), (0x2C8, 8, scr 0x800), (0x2D0, 8, scr 0x900), (0x2D8, 2, 1),
    (0x300, 8, 0x2_0040), (0x31A, 1, 1),
    (0x340, 8, 0x2_0100), (0x348, 2, 1),
    (0x380, 8, scr 0x800), (0x388, 8, scr 0x800), (0x398, 2, 16), (0x39A, 2, 2), (0x39C, 2, 1), (0x39E, 2, 8), (0x3A2, 1, 1), (0x3A3, 1, 1),
    (0x3E6, 1, 8),
    (0x400, 8, scr 0x800), (0x408, 8, 0x2_0000), (0x418, 2, 16), (0x41A, 2, 2), (0x41C, 2, 1), (0x41E, 2, 8), (0x422, 1, 1), (0x423, 1, 1),
    (0x440, 1, 0x21),
    (0x480, 8, scr 0x800), (0x488, 8, 0x2_0000), (0x490, 2, 16), (0x492, 2, 16), (0x498, 2, 1),
    (0x4C0, 8, scr 0x800), (0x4C8, 8, scr 0xA00), (0x4E2, 1, 1), (0x4E0, 2, 16),
    (0x500, 8, scr 0x800), (0x508, 8, scr 0xA00), (0x510, 2, 16), (0x512, 2, 1),
    (0x540, 8, 0x2_0000), (0x548, 4, 2)]
  ++ [(0x580, 32, bytesToNat lgRec)]).map (fun (x : Nat × Nat × Nat) => (sk x.1, x.2)))

/-- Their addresses in v16 up, ald's address in v31 and operands of the tile and margin commands in v32 and v33. -/
def stCmd : State :=
  { st0 with
    scratch := descs
    phys := put phys0 [(0x4002_0100, 8, 0x2_0000), (0x4002_0108, 8, 0x1_0000), (0x4002_0110, 8, 0x3_0000)]
    palette := [(1, ⟨0x21, 0, 0, 0, [], false⟩)]
    ctxs := [(0, { cx0 with heads := [(0, ⟨some lgRec, 1, false, []⟩)] })]
    threads := [(0, { th0 with v := th0.v ++ ((List.range 15).map (fun i => (16 + i, BitVec.ofNat 64 (scr (0x200 + 64 * i)))))
      ++ [(31, 0x2_0000), (32, 0x00_7F_00_03), (33, 0x0008_03F8)] })] }

/-- R328, R332, R335, R339 and R341: the commands of classes 0 and 2. -/
theorem test_meets_feed :
    Meets stCmd bd0 (.cpy false true 15 16) (copyAct 15 true .cpy) ∧ Meets stCmd bd0 (.cpyt false false 0 17) (copyAct 0 false .cpyt)
    ∧ Meets stCmd bd0 (.gath false false 1 18) (gathAct 1 false) ∧ Meets stCmd bd0 (.scatadd false false 1 19) (scataddAct 1 false)
    ∧ Meets stCmd bd0 (.scatadd false true 1 20) (scataddAct 1 true) ∧ Meets stCmd bd0 (.snap false true 1 21) (snapAct 1 true) := by
  refine ⟨?_, ?_, ?_, ?_, ?_, ?_⟩ <;> exact meets_of (by decide)

/-- R309, R311 to R314 and R325: the commands of class 1, palres and palrel. -/
theorem test_meets_matrix :
    Meets stCmd bd0 (.mma false false 1 22) (matrixAct 1 false .mma) ∧ Meets stCmd bd0 (.mma false false 1 23) (matrixAct 1 false .mma)
    ∧ Meets stCmd bd0 (.mmas false false 1 24) (matrixAct 1 false .mmas) ∧ Meets stCmd bd0 (.azero false false 1 3) (azeroAct 1 false 3)
    ∧ Meets stCmd bd0 (.ald false false 1 31 (.v 32)) (tileAct 1 false .ald rowsOk)
    ∧ Meets stCmd bd0 (.ast false true 1 31 (.v 32)) (tileAct 1 true .ast rowsOk)
    ∧ Meets stCmd bd0 (.mgld false false 1 31 (.v 33)) (tileAct 1 false .mgld marginOk)
    ∧ Meets stCmd bd0 (.palres false 63 25) (palresAct 63) ∧ Meets stCmd bd0 (.palrel false 1) (palrelAct 1) := by
  refine ⟨?_, ?_, ?_, ?_, ?_, ?_, ?_, ?_, ?_⟩ <;> exact meets_of (by decide)

/-- R351, R353 to R355, R360, R362, R366, R367: the Ligature forms of set 0, and lgstat of a set that none has configured. -/
theorem test_meets_ligature :
    Meets stCmd bd0 (.kstore false false 1 26) (ligAct 1 false .kstore 64 28 true (fun e => kstoreFields e.team)
      (fun bs => [BitVec.ofNat 64 (fieldAt bs 8 8)]))
    ∧ Meets stCmd bd0 (.lgather false false 1 27) (ligAct 1 false .lgather 64 35 true (fun e => lgatherFields e.team)
      (fun bs => if fieldAt bs 16 8 = 0 then [] else [BitVec.ofNat 64 (fieldAt bs 24 8)]))
    ∧ Meets stCmd bd0 (.lgsig false false 1 28) (ligAct 1 false .lgsig 64 20 true (fun e => lgsigFields e.team) (fun _ => []))
    ∧ Meets stCmd bd0 (.lgpool false false 1 29) (ligAct 1 false .lgpool 16 12 false (fun _ => lgpoolFields) (fun _ => []))
    ∧ Meets stCmd bd0 (.lgproj false false 1 10 .zero) (lgprojAct 1 false) ∧ Meets stCmd bd0 (.lgcfg false 30 .zero) lgcfgAct
    ∧ Meets stCmd bd0 (.lgclr false .zero) lgclrAct ∧ Issues stCmd bd0 (.lgstat false 7 (.lit32 0x70F)) := by
  refine ⟨?_, ?_, ?_, ?_, ?_, ?_, ?_, issues_of (by decide)⟩ <;> exact meets_of (by decide)

/-- A command of class 1 on core 0, of thread 0. -/
def cmd1 (st : Nat) (rec_ : Bool) : Cmd :=
  { Cmd.fresh 1 4 0 .azero th0 false with status := st, recorded := rec_ }

/-- Its core has it; h1 names it. -/
def stHandle (c : Cmd) : State :=
  { stT (fun t => { t with h := [(1, handleWord 3 0 1 0 4)] }) with
    cores := [(0, { co0 with seqs := [(1, 4)], cmds := [(cmdKey 1 4, c)] })] }

/-- R108, R331, R343 to R345: waits for a command that is recorded, its status, a cancel of one that is not, a null handle. -/
theorem test_meets_handles : Meets (stHandle (cmd1 2 true)) bd0 (.waitc false 1 .zero) (waitcAct 1)
    ∧ Meets (stHandle (cmd1 2 true)) bd0 (.waith false 1) waithAct ∧ Meets st0 bd0 (.waith false 0) waithAct
    ∧ Meets (stHandle (cmd1 2 true)) bd0 (.testh false 7 1) (testhAct (.testh false 7 1) 7)
    ∧ Meets (stHandle (cmd1 1 false)) bd0 (.testh false 7 1) (testhAct (.testh false 7 1) 7)
    ∧ Meets (stHandle (cmd1 0 false)) bd0 (.cancelh false 1) cancelhAct
    ∧ IssuesAll st0 bd0 [.movhToV false 7 15, .movhToH false 15 (.v 1)] := by
  refine ⟨?_, ?_, ?_, ?_, ?_, ?_, issuesAll_of (by decide)⟩ <;> exact meets_of (by decide)

/-- Stage 1 of ring 0 in a state. -/
def stRing (g : Stage) : State := { st0 with teams := [(0, { tm0 with rings := [(1, (g, true))] })] }

/-- A launch whose record names node 7 as a successor, and the node, its queue of 2 at VA 0x2_0400. -/
def stEmit : State :=
  { st0 with
    launches := [(0, ⟨0, 0, 0, List.replicate 88 0 ++ natToBytes 2 7 ++ List.replicate 166 0, [], 1, 1, 0, some 0, 0, 0, false, [], [],
      0, (0, 0), none, false⟩)]
    ctxs := [(0, { cx0 with nodes := [(7, ⟨List.replicate 76 0 ++ natToBytes 8 0x2_0400 ++ natToBytes 4 2 ++ List.replicate 168 0, [],
      0, 0, 0, [], [], 0, 0⟩)] })] }

/-- R174 and R347: ring 0 has 2 stages; ring 1 has none, and a stage that is not taken is not freed. -/
theorem test_ringTraps_hyp : IssuesAll (stRing .full) bd0
      [.rgive false 0 (.imm 2), .rtake false 1 (.imm 0), .rfree false 0 (.v 13), .rfree false 0 (.imm 1)]
    ∧ Tbl.getD ((stRing .full).team 0).ringStages 0 0 = 2 ∧ Tbl.getD ((stRing .full).team 0).ringStages 1 0 = 0
    ∧ ((stRing .full).operands bd0 (.rgive false 0 (.imm 2)) 0).opB.toNat = 2
    ∧ ((stRing .full).operands bd0 (.rfree false 0 (.imm 1)) 0).opB.toNat = 1
    ∧ (Tbl.getD ((stRing .full).team 0).rings 1 (.free, false)).1 ≠ .taken :=
  ⟨issuesAll_of (by decide), by decide, by decide, by decide, by decide, by decide⟩

/-- R386: the thread stands in its handler, for ILLEGAL. -/
theorem test_ringTrap : after (exec (.rgive false 0 (.imm 2)) (stRing .free)) (fun t =>
    (t.thread 0).handler && (t.thread 0).pc == 0x1_0100 && Memory.nat t.phys 0x4003_0000 2 == causeIllegal) = true := by decide

/-- R174, R347 and R348: a ring's stage 1 of 2 in each state, and a record to a node that has room. -/
theorem test_meets_rings : Meets (stRing .free) bd0 (.rgive false 0 (.imm 1)) (ringAct 0 .free (fun p => (.full, p)) true takers)
    ∧ Meets (stRing .full) bd0 (.rtake false 0 (.imm 1)) (ringAct 0 .full (fun p => (.taken, p)) false (fun _ _ _ _ => []))
    ∧ Meets (stRing .taken) bd0 (.rfree false 0 (.imm 1)) (ringAct 0 .taken (fun p => (.free, !p)) false givers)
    ∧ Meets stEmit bd0 (.emit false 10 (.v 13)) emitAct := by
  refine ⟨?_, ?_, ?_, ?_⟩ <;> exact meets_of (by decide)


/-! ### The hypotheses of the waits that end, the monitors and the traps between units -/

def env0 : Env := st0.operands bd0 (.nop false) 0

/-- A wait of thread 0, for `n` cycles so far. -/
def waitFor (w : Why) (n : Nat) : Blocked := ⟨w, .ink false 11 (.imm 7), env0, n⟩
def stWait (w : Why) (n : Nat) (f : Thread → Thread) : State := stT (fun t => f { t with status := .blocked (waitFor w n) })

/-- It is blocked there. -/
theorem test_blockedAt (w : Why) (n : Nat) (f : Thread → Thread)
    (hf : ∀ t, (f t).status = t.status ∧ (f t).team = t.team ∧ (f t).tid = t.tid) :
    BlockedAt (stWait w n f) 0 0 (f { th0 with status := .blocked (waitFor w n) }) (waitFor w n) :=
  ⟨rfl, (hf _).1, (hf _).2.1, (hf _).2.2⟩

/-- R185, R290: a result and its flags, FPX not enabled. -/
def outLong : Outst := ⟨9, .fma false .f32 7 1 (.v 2), env0, [], some 0x40000000, 16, false, false, false⟩

theorem test_longResult_hyp : ((stT (fun t => { t with outs := [outLong] })).thread 0).outs.find? (fun p => p.id == 9) = some outLong
    ∧ outLong.value = some 0x40000000 ∧ outLong.flags &&& (stT (fun t => { t with outs := [outLong] }) |>.thread 0).te = 0 := by decide

/-- R133, R164, R184 and R248. -/
theorem test_waitsEnd_hyp : (stT (fun t => { t with ilock := [(7, 0)], status := .yielding 0 })).thread? (threadKey 0 0)
      = some { th0 with ilock := [(7, 0)], status := .yielding 0 }
    ∧ (stWait (.sleep 31) 31 id).thread? 0 = some { th0 with status := .blocked (waitFor (.sleep 31) 31) }
    ∧ monSig (stWait (.watch 0x2_0000 0 7 1) 0 id) (heldDesc (stWait (.watch 0x2_0000 0 7 1) 0 id) 0 0 7).blk ≠ 1
    ∧ watchedWord (stWait (.watch 0x2_0000 0 7 0) 0 id) 0 0 0 0x2_0000 = some 0x1122_3344_5566_8788 := by decide

/-- R168: 32 records of one PC, and one that has waited 64 cycles. -/
def stQuire (n w : Nat) : State :=
  { st0 with
    teams := [(0, { tm0 with spawnSlots := [5], hadSpawn := true, spawns := (List.range n).map (fun i => ⟨i, 0x1_0100, [], 256, w⟩) })] }

theorem test_quire_hyp : (stQuire 32 0).cycle.toNat % 8 = 0
    ∧ (quireFind (stQuire 32 0) 0 fullSet).map (fun x => (x.1, x.2.1, x.2.2.map Spawn.tid)) = some (0, 5, List.range 32)
    ∧ (quireFind (stQuire 1 64) 0 oldSet).map (fun x => (x.1, x.2.1, x.2.2.map Spawn.tid)) = some (0, 5, [0])
    ∧ ((quireFind (stQuire 32 0) 0 fullSet).map (fun x => decide (x.2.2.Pairwise (fun a b => a.tid ≠ b.tid)))) = some true := by decide

/-- R145, R147 and R150: a beacon and a wake on their way to a known entry, and a load that stalls there at its minimum. -/
def stRounds : State :=
  { stWait (.round 5 9 100) 3 id with
    cores := [(0, { co0 with observed := [(roundKey 0 5, 4)], wakes := [(0, 5, 9)] })]
    diesT := [(0, { Die.reset with tlb := pages, beacons := [(0, 5, 9)] })] }

theorem test_rounds_hyp : (stRounds.die 0).beacons.find? (fun b => b.1 == 0 && b.2.1 == 5) = some (0, 5, 9)
    ∧ coresWith stRounds 0 0 = [0] ∧ (stRounds.core 0).wakes = [(0, 5, 9)] ∧ observed stRounds 0 0 5 = some 4
    ∧ stRounds.thread? 0 = some { th0 with status := .blocked (waitFor (.round 5 9 100) 3) } := by decide

/-- R147: the entry is then 9, and the load goes on. -/
theorem test_beacon : after (exec (.beacon 0 0 5) stRounds) (fun t => observed t 0 0 5 == some 9
    && (t.thread 0).status == .waking (waitFor (.round 5 9 100) 3)) = true := by decide

/-- The monitor of ink 7 at Well offset 0x2000: word 0, and SERVE and NEXT. -/
def stMon (w : Why) (n w0 w1 : Nat) (f : Thread → Thread) : State :=
  { stWait w n f with well := put [] [(0x2000, 8, w0), (0x2008, 8, w1)] }

/-- R121, R127 and R130: a request to a free monitor and to a held one, a granted ticket, a release. -/
theorem test_ink_hyp :
    [stMon (.inkReq 7 0 0x5_0000) 0 0 0x0000_0003_0000_0003 id, stMon (.inkReq 7 0 0x5_0000) 0 (2 ^ 63 + 78) 0x0000_0003_0000_0004 id].all (fun s =>
      sameMessage s 0 7 0 == [(0, 0x5_0000, waitFor (.inkReq 7 0 0x5_0000) 0)] && s.well.wf && !(s.thread 0).holdsInk 7
        && (match inkDesc s 0 0 0x5_0000 false 7 with
          | (.ok d, u) => d.blk == 0x2000 && !(wellFilling u (d.mon + 63)) && monHeld u 0x2000 == monHeld s 0x2000
          | _ => false)) = true
    ∧ (let s := stMon (.inkTicket 7 4 0x2000 0x5_0000) 9 (2 ^ 63 + 2 ^ 62) 0x0000_0004_0000_0005 id
      monGrant s 0x2000 && (monServe s 0x2000 == 4) && s.well.wf && !(s.thread 0).holdsInk 7) = true
    ∧ [[7, 3], [7]].all (fun js =>
      let s := stMon (.releasing js .exit) 0 (2 ^ 63 + 77) 0x0000_0004_0000_0006 (fun t => { t with holds := [⟨7, 0, false, false, []⟩] })
      s.well.wf && s.voids.isEmpty && ((s.thread 0).holds.all (fun h => h.cmds.isEmpty))) = true := by decide

/-- A free monitor is held at once, NEXT up by 1; the next ticket of a held one waits as number 4. -/
theorem test_inkTicket :
    after (exec (.inkTicket 0 0) (stMon (.inkReq 7 0 0x5_0000) 0 0 0x0000_0003_0000_0003 id)) (fun t =>
      monHeld t 0x2000 && monNext t 0x2000 == 4 && monOwner t 0x2000 == 77 && (t.thread 0).holdsInk 7) = true
    ∧ after (exec (.inkTicket 0 0) (stMon (.inkReq 7 0 0x5_0000) 0 (2 ^ 63 + 78) 0x0000_0003_0000_0004 id)) (fun t =>
      monOwner t 0x2000 == 78 && monNext t 0x2000 == 5 && (t.thread 0).why? == some (.inkTicket 7 4 0x2000 0x5_0000)) = true := by decide

/-- A thread in the handler of a KEEP frame whose lane record has FD 3. -/
def stKeep : State :=
  { stMon (.inkTicket 7 4 0x2000 0x5_0000) 9 (2 ^ 63 + 2 ^ 62) 0x0000_0004_0000_0005 (fun t => { t with handler := true }) with
    phys := put phys0 [(0x4003_0108, 2, 3)], cores := [(0, { co0 with slots := [(0, ⟨0, false, [0], true, none⟩)] })] }

/-- R138 and R393: the ink it is granted is a hold of depth 3, marked H. -/
theorem test_keepGrant : ((slotInfo stKeep 0 0 0).keep && decide (laneVa stKeep (stKeep.thread 0) + 8 < 2 ^ 56)
      && ((stKeep.core 0).tlb.find? (fun x => x.covers (stKeep.cid 0) (laneVa stKeep (stKeep.thread 0) + 8))).isSome) = true
    ∧ after (exec (.inkGrant 0 0) stKeep) (fun t => (t.thread 0).holds == [⟨7, 3, false, true, []⟩]) = true := by decide

/-- R386: thread 0 of `s` can enter its handler; what the clauses on traps ask in common. -/
def canEnterB (s : State) : Bool :=
  (slotInfo s 0 0 0).frame.isEmpty && s.threads.all (fun p => p.2.trap.isNone)
    && ((match (s.core 0).tlb.find? (fun t => t.covers (s.cid 0) (saveSlotVa s 0 0 0).toNat) with
      | some x => leafW x.leaf && (match x.reached s with | .ok y => y == x | _ => false) && (snapKey s 0 x).1.isNone
      | none => false)
    && (let th := s.thread 0
      !th.handler && th.unit.isNone && th.team == 0 && th.tid == 0 && th.slot == 0 && th.core == 0 && th.ctx == 0)
    && (s.team 0).core == 0 && (s.team 0).ctx == 0 && s.well.wf && (s.core 0).active == some 0 && (s.core 0).swapping == 0
    && !(s.ctx 0).stopped && decide ((saveSlotVa s 0 0 0).toNat < 2 ^ 56))

theorem canEnter_of {s : State} (h : canEnterB s = true) : CanEnter s 0 0 0 := by
  simp only [canEnterB, Bool.and_eq_true, List.isEmpty_iff, List.all_eq_true, Option.isNone_iff_eq_none] at h
  obtain ⟨⟨h1, h2⟩, h3⟩ := h
  refine ⟨h1, fun p hp _ _ _ => h2 p hp, of_decide_eq_true h3.2, ?_⟩
  have h4 := h3.1.1.1.1.1.1.1.1
  split at h4
  · rename_i x hx
    simp only [Bool.and_eq_true, Option.isNone_iff_eq_none] at h4
    refine ⟨x, hx, h4.1.1, ?_, h4.2⟩
    have h5 := h4.1.2
    split at h5
    · rename_i y hy; rw [hy, eq_of_beq h5]
    · simp at h5
  · simp at h4

/-- R132: a ticket that has waited for INKTMO cycles, of an ink with TE. -/
def stInkTmo : State :=
  { stMon (.inkTicket 7 4 0x2000 0x5_0000) 50 (2 ^ 63 + 78) 0x0000_0003_0000_0005 id with
    ctxs := [(0, { cx0 with inktmo := 50 })] }

/-- R151: a minimum round not met by its timeout. -/
def stRoundTmo : State := stWait (.round 5 9 100) 100 id

/-- R171: one of two members at a rendezvous for COLLTMO cycles. -/
def rdv : Rendezvous := ⟨0, 0, 0x1_0000, 3, [0], 60⟩
def stCollTmo : State :=
  { stWait .coll 60 id with
    ctxs := [(0, { cx0 with colltmo := 60 })]
    teams := [(0, { tm0 with rendezvous := [rdv] })] }

/-- R422: a lane waits for open fault 3. -/
def fault3 : PageFault := ⟨8, 0, 9, 16, 0x9_0000, 1, 0, 0, [0], some 3⟩
def stFault : State := { stWait (.fault 8 0x9_0000) 0 id with ctxs := [(0, { cx0 with faults := [fault3] })] }

theorem test_timeouts_hyp : (canEnterB stInkTmo && canEnterB stRoundTmo && canEnterB stCollTmo && canEnterB stFault
      && env0.key == threadKey 0 0) = true
    ∧ (stInkTmo.ctx 0).inktmo.extractLsb' 0 32 = 50 ∧ monGrant stInkTmo 0x2000 = false ∧ (heldDesc stInkTmo 0 0 7).te = true
    ∧ ((observed stRoundTmo 0 0 5).getD 0).toNat < 9 ∧ (stRoundTmo.core 0).wakes = []
    ∧ (stCollTmo.team 0).rendezvous.find? (fun q => q.group == 0 && q.csn.toNat == rdv.csn.toNat) = some rdv
    ∧ rdv.arrived = [0] ∧ (stCollTmo.ctx 0).colltmo.extractLsb' 0 32 = 60
    ∧ openFaultOf stFault 0 3 = some fault3
    ∧ faultThreads stFault 8 = [(0, { th0 with status := .blocked (waitFor (.fault 8 0x9_0000) 0) })] ∧ faultCmds stFault 8 = []
    ∧ hostCan stFault = true ∧ faultSlots stFault 8 = [] ∧ faultQueues (stFault.ctx 0) 8 = [] ∧ stFault.cores.all (fun p => p.2.spillWait == none) = true := by
  decide

/-- R165, R386, R392, R405: an overdue thread; one with a trap to take; one that CKPT finds settled; a TIMER that is due. -/
def stAge : State := { stT (fun t => { t with age := 9, watchdog := true }) with ctxs := [(0, { cx0 with wdlim := 9 })] }
def stCkpt : State := stT (fun t => { t with ckptPend := some 1 })
def stTimer : State := { st0 with teams := [(0, { tm0 with gtime := 7, gtcmp := 7 })] }

theorem test_between_hyp : (canEnterB stAge && canEnterB st0 && canEnterB stCkpt && canEnterB stTimer) = true
    ∧ overdue stAge 0 (0 % 8) = [(0, { th0 with age := 9, watchdog := true })]
    ∧ haltAt stAge (stAge.thread 0) = none ∧ haltAt stCkpt (stCkpt.thread 0) = none
    ∧ (stCkpt.threadsOf 0).filter (fun p => p.2.live) = [(0, { th0 with ckptPend := some 1 })]
    ∧ (stCkpt.team 0).spawns = [] ∧ (stCkpt.team 0).halted = false ∧ (stCkpt.team 0).exited = false
    ∧ framesBusy stCkpt 0 = false ∧ (stCkpt.core 0).cmds = []
    ∧ (stTimer.team 0).gtcmp.toNat ≤ (stTimer.team 0).gtime.toNat ∧ lowestSlot stTimer 0 = some 0 := by decide

/-- R386 and R387: the watchdog takes the thread to TRAPBASE, its frame busy. -/
theorem test_watchdog : after (exec (.watchdog 0 0) stAge) (fun t =>
    (t.thread 0).pc == 0x1_0100 && (t.thread 0).handler && (slotInfo t 0 0 0).frame == [0]) = true := by decide

/-! ### The hypotheses of the memory system and of host's requests -/

/-- R23 to R28: tables at 0x10_0000 (the root) to 0x13_0000, and a leaf for VA 0x9_0000. -/
def stWalk : State :=
  { st0 with phys := put phys0 [(0x10_0000, 8, 0x11_0001), (0x11_0000, 8, 0x12_0001), (0x12_0000, 8, 0x13_0001), (0x13_0048, 8, 0x4009_0607)] }

theorem test_walk_hyp : (stWalk.die (dieOf 0)).tlb.find? (fun t => t.covers 3 (0x9_0000 : Word).toNat) = none
    ∧ window 0x9_0000 = .glob
    ∧ (match walk stWalk 0 (0x9_0000 : Word).toNat with | (.ok pg, _) => pg == ⟨3, 9, 16, 0x4009_0607, 0x13_0048⟩ | _ => false) = true := by
  decide

/-- R46: a shootdown of page 1, one under way, and one whose old accesses are over. -/
def stDown : State := { st0 with ctxs := [(0, { cx0 with sd := some ⟨1, 1, 0⟩, sdctl := setBits 0 62 62 1 })] }

theorem test_shootdown_hyp : hostCan st0 = true ∧ (st0.ctx 0).sd = none ∧ (BitVec.ofNat 64 (2 ^ 63 + 1)).getLsbD 63 = true
    ∧ (stDown.ctx 0).sd = some ⟨1, 1, 0⟩ ∧ shootdownDone stDown 0 ⟨1, 1, 0⟩ = true := by decide

/-- R71 to R74: stores for a line of die 0 or of die 1; a reply for one load of 4 bytes. -/
def entryOf (pl : Nat) (stores : List (Nat × Byte)) (loads : List Waiter) (r : Option Reply) : Entry :=
  ⟨0, 0x400, pl, 1, 0, stores, false, loads, true, false, false, 0, none, false, true, false, r⟩
def outLoad : Outst := ⟨9, .ld false .n32 7 10 0 0 0, env0, [none, none, none, none], none, 0, false, false, false⟩
def stColl (e : Entry) : State :=
  { stT (fun t => { t with outs := [outLoad] }) with cores := [(0, { co0 with coll := [e] })] }
def storesE : List (Nat × Byte) := [(0, 1), (127, 2), (0, 3)]
def replyE : Entry := entryOf 0x80_0400 [] [⟨0, 9, 0, 124, 4, [], false⟩] (some ⟨List.replicate 128 7, [], 5, 1, 0⟩)

theorem test_collector_hyp : ((stColl (entryOf 0x80_0400 storesE [] none)).core 0).coll[0]? = some (entryOf 0x80_0400 storesE [] none)
    ∧ homeOf (0x80_0400 * 128) = .hbm (dieOf 0) ∧ homeOf (0x1_0000_0000 * 128) ≠ .hbm (dieOf 0) ∧ phys0.wf = true
    ∧ (∀ p ∈ storesE, p.1 < 128) ∧ ((stColl replyE).core 0).coll[0]? = some replyE
    ∧ outLoad ∈ ((stColl replyE).thread 0).outs ∧ 0 + 4 ≤ outLoad.data.length ∧ 124 + 4 ≤ (List.replicate 128 (7 : Byte)).length := by
  decide

/-- The last store of an offset counts. -/
theorem test_collectorSend : after (exec (.collectorSend 0 0) (stColl (entryOf 0x80_0400 storesE [] none))) (fun t =>
    Memory.read t.phys (0x80_0400 * 128) == 3 && Memory.read t.phys (0x80_0400 * 128 + 127) == 2) = true := by decide

/-- R92: a store on its way. R77: a carve-out under way, and a thread that waits for it. -/
def stFlight : State := { st0 with flights := [⟨1, 0, 0, 0x80_0400, storesE, false⟩] }
def stCarve : State := { stWait .carve 0 id with wellStatus := 1, wellFrom := some 8, farReq := 2 }

theorem test_flight_hyp : stFlight.flights = [⟨1, 0, 0, 0x80_0400, storesE, false⟩] ∧ stFlight.phys.wf = true
    ∧ stCarve.wellStatus = 1 ∧ (stCarve.thread 0).why? = some .carve ∧ (2 : Nat) < 3 ∧ (5 : Nat) < 6 := by decide

theorem test_softError : after (exec (.softError 1 0x4001_0000 true) st0) (fun t =>
    (0x4001_0000 / 64) ∈ t.poison && Tbl.getD (t.die 0).errors 3 0 == 1) = true := by decide

/-- R421 and R422: a fault that is not posted yet, for a queue of 16 at PA 0x4000_0000, empty; one that is open. -/
def stPost : State := { st0 with ctxs := [(0, { cx0 with fqcfg := 0x4000_0000, faults := [{ fault3 with id := none }] })] }

theorem test_faultPost_hyp : faultToPost stPost 0 = some { fault3 with id := none } ∧ stPost.phys.wf = true
    ∧ homeOf ((((stPost.ctx 0).fqcfg.extractLsb' 12 40).toNat * 2 ^ 12 + 0)) ≠ .hole ∧ openFaultOf stFault 0 3 = some fault3
    ∧ (stFault.thread 0).why? = some (.fault 8 0x9_0000) := by decide

/-- The record's VA and number stand in the queue; FQTAIL is 1, and vector 1 is signalled. -/
theorem test_faultPost : after (exec (.faultRecordPost 0) stPost) (fun t =>
    Memory.nat t.phys 0x4000_0000 8 == 0x9_0000 && Memory.nat t.phys 0x4000_0010 4 == 1 && (t.ctx 0).fqtail == 1 && t.msix == [(0, 1)])
    = true := by decide

/-- R38: a fetch whose fault host has answered. -/
theorem test_fetch_hyp : faultOpen (stWait (.fetch 8) 0 id) env0.ctx 8 = false
    ∧ (match fetchWord (stWait (.fetch 8) 0 id) env0.core env0.ctx env0.pc with | (.ok _, _) => true | _ => false) = true := by decide

/-- R402 and R423: queue 0's record 0 has team 0; TEAMSEL names it; the debug right is held. -/
def launch0 : Launch := ⟨0, 0, 0, List.replicate 256 0, [], 1, 1, 0, some 0, 0, 0, false, [], [], 0, (0, 0), none, false⟩
def stHost (f : Ctx → Ctx) (g : Team → Team) : State :=
  { st0 with
    ctxs := [(0, f { cx0 with dbgctl := 8, hqcfg := 0x4000_0000, edqcfg := 0x4000_1000 })]
    teams := [(0, g tm0)], launches := [(0, launch0)] }
def halted (r : Option Nat) (t : Team) : Team := { t with halted := true, haltReason := r }

theorem test_requests_hyp : hostCan (stHost id id) = true ∧ selectedTeam ((stHost id id).updCtx 0 (fun c => { c with ckreq := 0 })) 0 0 = some 0
    ∧ selectedTeam (stHost id id) 0 0 = some 0 ∧ ((stHost id id).team 0).halted = false ∧ ((stHost id id).ctx 0).dbgctl.getLsbD 3 = true
    ∧ (BitVec.ofNat 64 (2 ^ 63)).getLsbD 62 = false ∧ (BitVec.ofNat 64 (2 ^ 63)).getLsbD 61 = false
    ∧ (BitVec.ofNat 64 (2 ^ 62)).getLsbD 63 = false
    ∧ selectedTeam (stHost id (halted none)) 0 0 = some 0 ∧ ((stHost id (halted none)).team 0).halted = true
    ∧ ((stHost id (halted none)).team 0).haltReason = none ∧ ((stHost id (halted none)).team 0).ctx = 0
    ∧ ((stHost id (halted (some 0))).ctx 0).halts ++ haltsToQueue (stHost id (halted (some 0))) 0 = [(0, 0)]
    ∧ haltComplete (stHost id id) 0 = true ∧ (stHost id id).launch ((stHost id id).team 0).launch = some launch0
    ∧ ringRoom 0 0 (2 ^ (((stHost id id).ctx 0).hqcfg.extractLsb' 0 4).toNat) = true := by decide

/-- R402 and R403: an edit of v15 of thread 0, at PA 0x4000_1000. -/
def stEdit : State :=
  { stHost (fun c => { c with edqtail := 1 }) (halted none) with phys := put phys0 [(0x4000_100C, 2, 15), (0x4000_1010, 8, 99)] }

theorem test_edit_hyp : (stEdit.ctx 0).edqtail.extractLsb' 0 32 ≠ (stEdit.ctx 0).edqhead.extractLsb' 0 32
    ∧ homeOf 0x4000_1000 ≠ .hole ∧ namedTeam stEdit 0 false 0 0 0 = some 0 ∧ fieldAt (physRead stEdit 0x4000_1000 32) 12 2 = 15
    ∧ haltComplete stEdit 0 = true ∧ 15 < (groupOf stEdit th0).allot ∧ (stEdit.team 0).resume = false ∧ th0.status ≠ .exited := by decide

theorem test_edit : after (exec (.editApply 0) stEdit) (fun t => (t.thread 0).getV 15 == 99 && (t.ctx 0).edqhead == 1) = true := by decide

/-- R400: breakpoint 2 at the thread's PC, with the right held. -/
def stBreak : State := stHost (fun c => { c with dbgctl := 10, bp := [(2, 0x1_0001)] }) id

theorem test_break_hyp : (breakChoice stBreak (stBreak.team 0).core (0 % 8)).map (fun x => (x.1.team, x.1.slot, x.1.ctx, x.2)) = some (0, 0, 0, 2)
    ∧ (stBreak.ctx 0).dbgctl.getLsbD 3 = true ∧ (stBreak.team 0).halted = false := by decide

/-! ### The hypotheses of the statements about engines -/

/-- What a relation over rows needs of each row, done one row after another. -/
def rowsDo (row : Nat → State → Option State) : Nat → Nat → State → Option State
  | 0, _, s => some s
  | n + 1, r, s => (row r s).bind (rowsDo row n (r + 1))

theorem rowsOver_of {R : Nat → State → State → Prop} {row : Nat → State → Option State}
    (h : ∀ r s t, row r s = some t → R r s t) : ∀ n r s, (rowsDo row n r s).isSome = true → ∃ t, RowsOver R n r s t
  | 0, _, s, _ => ⟨s, rfl⟩
  | n + 1, r, s, hs => by
    simp only [rowsDo] at hs
    cases hr : row r s with
    | none => simp [hr] at hs
    | some u =>
      obtain ⟨t, ht⟩ := rowsOver_of h n (r + 1) u (by simpa [hr] using hs)
      exact ⟨t, u, h _ _ _ hr, ht⟩

/-- A move, done. -/
def moveDo (c : Cmd) (src n : Nat) (out : List Byte → List (Word × List Byte)) (s : State) : Option State :=
  match engRead c (BitVec.ofNat 64 src) n s with
  | .ok bs u => match engWrites c (out bs) u with
    | .ok () t => some t
    | _ => none
  | _ => none

theorem moved_of {c : Cmd} {src n : Nat} {out : List Byte → List (Word × List Byte)} {s t : State}
    (h : moveDo c src n out s = some t) : Moved c src n out s t := by
  unfold moveDo at h
  split at h
  · rename_i bs u hr
    split at h
    · rename_i hw; exact ⟨bs, u, hr, by rw [hw]; simp at h; rw [h]⟩
    · simp at h
  · simp at h

/-- A writes done. -/
def writeDo (c : Cmd) (ws : List (Word × List Byte)) (s : State) : Option State :=
  match engWrites c ws s with
  | .ok () t => some t
  | _ => none

theorem write_of {c : Cmd} {ws : List (Word × List Byte)} {s t : State} (h : writeDo c ws s = some t) :
    engWrites c ws s = .ok () t := by
  unfold writeDo at h
  split at h
  · rename_i hw; rw [hw]; simp at h; rw [h]
  · simp at h

/-- A command of core 0 with its descriptor at `o` in `descs`, SEQ 4. -/
def cmdAt (cls : Nat) (op : Op) (o n : Nat) (f : Cmd → Cmd) : Cmd :=
  f { Cmd.fresh cls 4 0 op th0 false with addr := BitVec.ofNat 64 (scr o), desc := Memory.readN descs (sk o) n }
def stEng (c : Cmd) (f : State → State) : State :=
  f { stCmd with cores := [(0, { co0 with seqs := [(c.cls, 4)], cmds := [(cmdKey c.cls 4, c)] })] }

/-- R333: a row of 16 bytes; two rows of two elements, transposed, in 2 by 2 bytes. -/
def cCpy : Cmd := cmdAt 0 .cpy 0x200 64 id
def cCpyt : Cmd := cmdAt 0 .cpyt 0x240 64 id

theorem test_copies_hyp :
    (∀ c ∈ [cCpy, cCpyt], canRun (stEng c id) c = true ∧ getCmd (stEng c id) 0 0 4 = some c ∧ backgroundTurn (stEng c id) c = true)
    ∧ (∃ t, RowsOver (fun _ => Moved (begun cCpy) 0x2_0000 16 (fun bs => [(BitVec.ofNat 64 (scr 0x800), bs)])) 1 0
      (beginning (stEng cCpy id) cCpy) t)
    ∧ ∃ t, RowsOver (fun r => Moved (begun cCpyt) (0x2_0000 + 2 * r) 2 (fun bs =>
      [(BitVec.ofNat 64 (scr 0x800 + r), bs.take 1), (BitVec.ofNat 64 (scr 0x802 + r), (bs.drop 1).take 1)])) 2 0
      (beginning (stEng cCpyt id) cCpyt) t :=
  ⟨by decide,
    rowsOver_of (row := fun _ => moveDo (begun cCpy) 0x2_0000 16 (fun bs => [(BitVec.ofNat 64 (scr 0x800), bs)]))
      (fun _ _ _ h => moved_of h) 1 0 (beginning (stEng cCpy id) cCpy) (by decide),
    rowsOver_of (row := fun r => moveDo (begun cCpyt) (0x2_0000 + 2 * r) 2 (fun bs =>
      [(BitVec.ofNat 64 (scr 0x800 + r), bs.take 1), (BitVec.ofNat 64 (scr 0x802 + r), (bs.drop 1).take 1)]))
      (fun _ _ _ h => moved_of h) 2 0 (beginning (stEng cCpyt id) cCpyt) (by decide)⟩

/-- The bytes at VA 0x2_0000 stand at 0x800 of the scratchpad: 88 87 66 55 ...; transposed, 88 66 87 55. -/
theorem test_copyRun :
    after (exec (.copyRun 0 4) (stEng cCpy id)) (fun t => Memory.nat t.scratch (sk 0x800) 8 == 0x1122_3344_5566_8788) = true
    ∧ after (exec (.copyRun 0 4) (stEng cCpyt id)) (fun t => Memory.nat t.scratch (sk 0x800) 4 == 0x5587_6688) = true := by decide

/-- R41 and R331: a source page that does not translate, and a source outside the scratchpad. -/
def cFault (src : Nat) : Cmd := { cCpy with desc := natToBytes 8 src ++ cCpy.desc.drop 8 }

theorem test_copyStops_hyp :
    (match engRead (begun (cFault 0x9_0000)) 0x9_0000 16 (beginning (stEng (cFault 0x9_0000) id) (cFault 0x9_0000)) with
      | .fault _ _ _ => true
      | _ => false) = true
    ∧ (match engRead (begun (cFault (scr 0xF_0000))) (BitVec.ofNat 64 (scr 0xF_0000)) 16
          (beginning (stEng (cFault (scr 0xF_0000)) id) (cFault (scr 0xF_0000))) with
      | .fail _ _ _ _ => true
      | _ => false) = true
    ∧ canRun (stEng (cFault 0x9_0000) id) (cFault 0x9_0000) = true := by decide

/-- R339: rows for the indexes 3 and 0xFFFF_FFFF. -/
def cGath : Cmd := cmdAt 2 .gath 0x280 64 (fun c => { c with idx := [3, 0xFFFF_FFFF] })

theorem test_gath_hyp : canRun (stEng cGath id) cGath = true ∧ getCmd (stEng cGath id) 0 2 4 = some cGath
    ∧ ∃ t, RowsOver (fun i u v =>
        if (cGath.idx[i]?).getD 0xFFFF_FFFF = 0xFFFF_FFFF then
          engWrites (begun cGath) [(BitVec.ofNat 64 (scr 0x800 + 4 * i), List.replicate 4 0)] u = .ok () v
        else Moved (begun cGath) (0x2_0000 + (cGath.idx[i]?).getD 0xFFFF_FFFF * 4) 4
          (fun bs => [(BitVec.ofNat 64 (scr 0x800 + 4 * i), bs)]) u v) 2 0 (beginning (stEng cGath id) cGath) t := by
  refine ⟨by decide, by decide, rowsOver_of (row := fun i u =>
    if (cGath.idx[i]?).getD 0xFFFF_FFFF = 0xFFFF_FFFF then
      writeDo (begun cGath) [(BitVec.ofNat 64 (scr 0x800 + 4 * i), List.replicate 4 0)] u
    else moveDo (begun cGath) (0x2_0000 + (cGath.idx[i]?).getD 0xFFFF_FFFF * 4) 4
      (fun bs => [(BitVec.ofNat 64 (scr 0x800 + 4 * i), bs)]) u) (fun r s t h => ?_) _ _ _ (by decide)⟩
  split at h <;> rename_i hi <;> simp only [hi, if_true, if_false]
  · exact write_of h
  · exact moved_of h

/-- R338: one page of a snap. -/
def cSnap : Cmd := cmdAt 0 .snap 0x340 10 id
def snOne : Snap := ⟨0, 4, [(2, 3)], 0, [], [], []⟩
def stSnap : State := stEng cSnap (fun s => { s with ctxs := [(0, { cx0 with snap := some snOne })] })

theorem settle_quiet {s : State} {core : Nat} (hc : (s.core core).coll = []) (hf : s.flights = []) (pa n : Nat) :
    settleRange s core pa n = s := by
  have h0 : ({ s with flights := [] } : State) = s := by rw [← hf]
  have h1 : ∀ l, settleLine s core l = s := fun l => by simpa [settleLine, settleFlights, hc, hf, sendEntries, sendPicked, performFlights, splitFlights] using h0
  unfold settleRange
  induction plines pa n with
  | nil => rfl
  | cons l ls ih => rw [List.foldl_cons, h1]; exact ih

/-- One more page, 5, is to copy: none waits; or a write waits for the leaf of page 2. -/
def stSnapTwo (ahead : List (Nat × Nat)) : State :=
  { stSnap with ctxs := [(0, { cx0 with snap := some ⟨0, 4, [(2, 3), (5, 4)], 0, ahead, [], []⟩ })] }

theorem test_snapTwo_hyp : [[], [(0x3010, 9)]].all (fun a =>
      let s := stSnapTwo a
      let sn : Snap := ⟨0, 4, [(2, 3), (5, 4)], 0, a, [], []⟩
      canRun s cSnap && (getCmd s 0 0 4 == some cSnap) && (snapOf s cSnap == some sn) && (nextPage s 0 sn == some (2, 3))
        && (sn.pages.filter (fun q => q != (2, 3)) == [(5, 4)])) = true := by decide

/-- A page of 64 KiB that stands in HBM and is not poisoned, read by a snap of a core that has nothing collected. -/
theorem snapRead {s : State} {va pa : Nat} {pg : TlbEntry} (hc : (s.core cSnap.core).coll = []) (hf : s.flights = [])
    (h1 : engPlace cSnap false (BitVec.ofNat 64 va) (2 ^ 16) s = .ok (.glob [⟨va, 2 ^ 16, pa, pg⟩] []) s)
    (hb : placePoisoned s (.glob [⟨va, 2 ^ 16, pa, pg⟩] []) (2 ^ 16) = false) (hr : replyFrom s cSnap.core (homeCode pa) = s) :
    engRead cSnap (BitVec.ofNat 64 va) (2 ^ 16) s = .ok (physRead s pa (2 ^ 16)) s := by
  have hq := settle_quiet hc hf
  rw [engRead, if_neg (by decide), h1]
  simp only [Eng.bind, placeSettle, List.foldl_cons, List.foldl_nil, hq, hb, Bool.false_eq_true, if_false]
  simp only [placeRead, readHome, List.foldl_cons, List.foldl_nil, hq, List.nil_append, hr]

/-- A write of the 64 KiB read from one page to another. -/
theorem snapWrite {s : State} {va pa : Nat} {pl : Place}
    (h2 : engPlace cSnap true (BitVec.ofNat 64 va) (2 ^ 16) s = .ok pl s) :
    ∃ t, engWrites cSnap [(BitVec.ofNat 64 va, physRead s pa (2 ^ 16))] s = .ok () t := by
  have hl : (physRead s pa (2 ^ 16)).length = 2 ^ 16 := Memory.readN_length _ _ _
  have he : (physRead s pa (2 ^ 16)).isEmpty = false := by
    cases hp : physRead s pa (2 ^ 16) with
    | nil => rw [hp] at hl; simp at hl
    | cons _ _ => rfl
  simp only [engWrites, engPlaces, he, hl, h2, Eng.bind, Bool.false_eq_true, if_false]
  exact ⟨_, rfl⟩

/-- R337: two pages whose images lie in each other's frames. -/
def snRing : Snap := ⟨0, 4, [(2, 3), (3, 2)], 0, [], [], []⟩
def stImages : State := stEng cSnap (fun s => { s with
  ctxs := [(0, { cx0 with snap := some snRing })]
  phys := put s.phys [(0x10_0000, 8, 0x11_0001), (0x11_0000, 8, 0x12_0001), (0x12_0000, 8, 0x13_0001),
    (0x13_0010, 8, 0x4002_0607), (0x13_0018, 8, 0x4003_0607)] })

theorem test_images_hyp : canRun stImages cSnap = true ∧ getCmd stImages 0 0 4 = some cSnap ∧ snapOf stImages cSnap = some snRing
    ∧ nextPage stImages 0 snRing = some (2, 3) ∧ ∃ xs t,
      PageBytes cSnap snRing (2, 3) (physRead stImages 0x4002_0000 (2 ^ 16)) stImages stImages
      ∧ PagesRead cSnap snRing (imageHits stImages cSnap.ctx snRing (2, 3)) xs stImages stImages
      ∧ engWrites cSnap [(BitVec.ofNat 64 (3 * 2 ^ 16), physRead stImages 0x4002_0000 (2 ^ 16))] stImages = .ok () t := by
  refine ⟨by decide, by decide, by decide, by decide, ?_⟩
  obtain ⟨t, ht⟩ := snapWrite (s := stImages) (va := 3 * 2 ^ 16) (pa := 0x4002_0000)
    (pl := .glob [⟨0x3_0000, 2 ^ 16, 0x4003_0000, page 3 0x4003 4⟩] []) rfl
  rw [show imageHits stImages cSnap.ctx snRing (2, 3) = [(3, 2)] by decide]
  exact ⟨_, t, snapRead (pg := page 2 0x4002 4) rfl rfl rfl (by decide) rfl,
    ⟨_, _, [], snapRead (va := 3 * 2 ^ 16) (pa := 0x4003_0000) (pg := page 3 0x4003 4) rfl rfl rfl (by decide) rfl, rfl, rfl, rfl⟩, ht⟩

theorem test_snap_hyp : canRun stSnap cSnap = true ∧ getCmd stSnap 0 0 4 = some cSnap
    ∧ snapOf stSnap cSnap = some snOne ∧ imageHits stSnap cSnap.ctx snOne (2, 3) = [] ∧ ∃ t,
      PageBytes cSnap snOne (2, 3) (physRead stSnap 0x4002_0000 (2 ^ 16)) stSnap stSnap
      ∧ engWrites cSnap [(BitVec.ofNat 64 (3 * 2 ^ 16), physRead stSnap 0x4002_0000 (2 ^ 16))] stSnap = .ok () t := by
  refine ⟨by decide, by decide, by decide, by decide, ?_⟩
  obtain ⟨t, ht⟩ := snapWrite (s := stSnap) (va := 3 * 2 ^ 16) (pa := 0x4002_0000)
    (pl := .glob [⟨0x3_0000, 2 ^ 16, 0x4003_0000, page 3 0x4003 4⟩] []) rfl
  exact ⟨t, snapRead (pg := page 2 0x4002 4) rfl rfl rfl (by decide) rfl, ht⟩

/-- Whether an access of an engine goes through, what it gives and the state after it. -/
def okB {α : Type} (x : Eng α) : Bool := match x with | .ok _ _ => true | _ => false
def val {α : Type} (x : Eng α) (d : α) : α := match x with | .ok a _ => a | _ => d
def st {α : Type} (x : Eng α) : State := match x with | .ok _ t => t | .wait t => t | .fault _ _ t => t | .fail _ _ _ t => t

theorem ok_of {α : Type} {x : Eng α} (d : α) (h : okB x = true) : x = .ok (val x d) (st x) := by
  cases x <;> simp [okB] at h; rfl

/-- R340: a set at VA 0x2_0040: a buffer of 4 entries at 0x2_0800, `n` of them filled, 16 elements of INT32 at 0x2_0900. -/
def setBytes (n : Nat) : List (Nat × Nat × Nat) :=
  [(0x4002_0040, 8, 0x2_0800), (0x4002_0048, 4, 4), (0x4002_004C, 4, n), (0x4002_0050, 8, 0x2_0900), (0x4002_0058, 4, 16),
    (0x4002_0800, 8, 0x0000_0000_0000_0005), (0x4002_0808, 8, 0x0000_0003_0000_0000), (0x4002_0914, 4, 40)]

/-- An append of the value 7 to element 5, and a drain. -/
def cApp : Cmd := cmdAt 2 .scatadd 0x2C0 64 (fun c => { c with idx := [5] })
def cDrain : Cmd := cmdAt 2 .scatadd 0x300 64 id
def stBin (c : Cmd) (n : Nat) : State :=
  stEng c (fun s => { s with phys := put phys0 (setBytes n), scratch := put descs [(sk 0x800, 4, 7)] })

/-- The set as it is read. -/
def setOfBin (c : Cmd) (n : Nat) : Eng (List Byte) := engRead (begun c) 0x2_0040 64 (beginning (stBin c n) c)
def begunBin (c : Cmd) (n : Nat) : Cmd := { begun c with cfg := val (setOfBin c n) [] }
def stateBin (c : Cmd) (n : Nat) : State := setCmd (st (setOfBin c n)) (begunBin c n)

theorem test_setRead_hyp : SetRead (stBin cApp 0) cApp (begunBin cApp 0) (stateBin cApp 0)
    ∧ SetRead (stBin cDrain 1) cDrain (begunBin cDrain 1) (stateBin cDrain 1)
    ∧ canRun (stBin cApp 0) cApp = true ∧ getCmd (stBin cApp 0) 0 2 4 = some cApp
    ∧ canRun (stBin cDrain 1) cDrain = true ∧ getCmd (stBin cDrain 1) 0 2 4 = some cDrain :=
  ⟨.inr ⟨rfl, _, _, ok_of [] (by decide), by decide, rfl, rfl⟩, .inr ⟨rfl, _, _, ok_of [] (by decide), by decide, rfl, rfl⟩,
    by decide, by decide, by decide, by decide⟩

/-- The count, the value and the writes of the append. -/
def appN : Eng (List Byte) := engRead (begunBin cApp 0) 0x2_004C 4 (stateBin cApp 0)
def appX : Eng (List Byte) := engRead (begunBin cApp 0) (BitVec.ofNat 64 (scr 0x800)) 4 (st appN)
def appW : Eng Unit :=
  engWrites (begunBin cApp 0) [(0x2_0800, natToBytes 4 5 ++ natToBytes 4 0 ++ natToBytes 4 0 ++ natToBytes 4 7), (0x2_004C, natToBytes 4 1)]
    (st appX)

theorem test_append_hyp : okB appN = true ∧ okB appX = true ∧ okB appW = true ∧ bytesToNat (val appN []) = 0
    ∧ bytesToNat (val appX []) = 7 ∧ fieldAt (begunBin cApp 0).cfg 24 4 = 16 ∧ fieldAt (begunBin cApp 0).cfg 8 4 = 4 := by decide

/-- The set and its one entry, the element it adds to, and the writes of the drain. -/
def drNow : Eng (List Byte) := engRead (begunBin cDrain 1) 0x2_0040 64 (stateBin cDrain 1)
def drEs : Eng (List Byte) := engRead (begunBin cDrain 1) 0x2_0800 16 (st drNow)
def drOld : Eng (List Byte) := engRead (begunBin cDrain 1) 0x2_0914 4 (st drEs)
def drW : Eng Unit := engWrites (begunBin cDrain 1) [(0x2_0914, natToBytes 4 43), (0x2_004C, natToBytes 4 0)] (st drOld)

theorem test_drain_hyp : okB drNow = true ∧ okB drEs = true ∧ okB drOld = true ∧ okB drW = true
    ∧ binEntries 1 (val drEs []) = [⟨5, 0, 0, 3⟩] ∧ bytesToNat (val drOld []) = 40 := by decide

theorem test_drain_old : OldValues (begunBin cDrain 1) 0x2_0900 4 [5] [bytesToNat (val drOld [])] (st drEs) (st drOld) :=
  ⟨_, _, [], ok_of [] (by decide), rfl, rfl, rfl⟩

/-- 40 and 3 make 43; the append fills the first entry. -/
theorem test_bins :
    after (exec (.scataddDrainRun 0 4) (stBin cDrain 1)) (fun t => Memory.nat t.phys 0x4002_0914 4 == 43 && Memory.nat t.phys 0x4002_004C 4 == 0)
      = true
    ∧ after (exec (.scataddAppendRun 0 4) (stBin cApp 0)) (fun t => Memory.nat t.phys 0x4002_080C 4 == 7 && Memory.nat t.phys 0x4002_004C 4 == 1)
      = true := by decide

/-- R315: A and B hold 1.0 and 2.0 in BF16, then zeros; K is 8. -/
def stMx (c : Cmd) : State := stEng c (fun s => { s with scratch := put descs [(sk 0x800, 4, 0x4000_3F80)], cycle := 1 })
def cMma (f : Cmd → Cmd) : Cmd := cmdAt 1 .mma 0x380 64 f
def cRet : Cmd := cMma (fun c => { c with retired := true })
/-- Its k-step. -/
def mxRead : List Byte × Eng Unit :=
  let s := beginning (stMx (cMma id)) (cMma id)
  readRanges (begun (cMma id)) (rangesLeft (stepBytes s (begun (cMma id))).length (stepRanges s (begun (cMma id)) 0 8)) [] s
/-- A command above the threshold of leave: 128 by 128 by 128. -/
def cBig : Cmd := cMma (fun c => { c with desc := c.desc.take 30 ++ [128, 0, 127, 127] ++ c.desc.drop 34 })

theorem test_matrix_hyp : (∀ c ∈ [cMma id, cRet, cBig], mxHead (stMx c) 0 = some c ∧ canRun (stMx c) c = true ∧ mxInPlace (stMx c) c = true
      ∧ c.stop = none)
    ∧ cRet.retired = true ∧ (cMma id).retired = false ∧ mxM (cMma id).desc * mxN (cMma id).desc * mxK (cMma id).desc ≤ Config.leaveThreshold
    ∧ Config.leaveThreshold < mxM cBig.desc * mxN cBig.desc * mxK cBig.desc ∧ cBig.leave = none
    ∧ mxPoisoned (beginning (stMx (cMma id)) (cMma id)) (begun (cMma id)) = false ∧ okB mxRead.2 = true
    ∧ (begun (cMma id)).at_ < mxK (begun (cMma id)).desc := by decide

/-- Ranges that the engine reads to the end are read one after another. -/
theorem rangesRead_of (c : Cmd) : ∀ (rs : List (Option (Nat × Nat) × Nat)) (got : List Byte) (s : State),
    okB (readRanges c rs got s).2 = true →
    ∃ bs, (readRanges c rs got s).1 = got ++ bs ∧ RangesRead c rs bs s (st (readRanges c rs got s).2)
  | [], got, s, _ => ⟨[], by simp [readRanges], rfl, rfl⟩
  | (none, n) :: rs, got, s, h => by
    obtain ⟨xs, h1, h2⟩ := rangesRead_of c rs (got ++ List.replicate n 0) s h
    exact ⟨_, by simp only [readRanges, h1, List.append_assoc], xs, rfl, h2⟩
  | (some (a, n), m) :: rs, got, s, h => by
    simp only [readRanges] at h ⊢
    split at h
    · rename_i x u hx
      obtain ⟨xs, h1, h2⟩ := rangesRead_of c rs (got ++ x) u h
      exact ⟨x ++ xs, by simp only [h1, List.append_assoc], x, u, xs, hx, rfl, h2⟩
    all_goals simp [okB] at h

theorem test_ksteps : ∃ q, KSteps 1 (begun (cMma id), beginning (stMx (cMma id)) (cMma id)) q ∧ mxK (cMma id).desc ≤ q.1.at_ := by
  obtain ⟨bs, hb, h⟩ := rangesRead_of (begun (cMma id)) _ [] _ (show okB mxRead.2 = true by decide)
  obtain rfl : bs = mxRead.1 := hb.symm
  exact ⟨_, ⟨by decide, _, ⟨by decide, mxRead.1, _, h, rfl⟩, rfl⟩, by decide⟩

/-- What the k-step of `cMma` read stands in its partial sum, from a memory that it names. -/
def cPartial : Cmd := cMma (fun c => { c with started := true, at_ := 8, cfg := mxRead.1 })
def memPartial (a : Nat) : Byte := Memory.read (stMx cPartial).scratch (sk (a % 2 ^ 20))

theorem test_terms_hyp : cPartial.ks ≤ cPartial.at_ ∧ 0 < mxM cPartial.desc ∧ 0 < mxN cPartial.desc ∧ sourceRow cPartial 0 = some 0
    ∧ cPartial.cfg = (List.range 1).flatMap (fun t => (stepRanges (stMx cPartial) cPartial (8 * t) (min 8 (8 * t + 8))).flatMap (fun x =>
      match x.1 with
      | some (a, n) => (List.range n).map (fun y => memPartial (a + y))
      | none => List.replicate x.2 0))
    ∧ (openTerms (stMx cPartial) cPartial 0 0).length = 8 := by decide

/-- 1 × 1 and 2 × 2 make 5.0 in tile 0. -/
theorem test_mma : after (exec (.mmaRun 0 1) (stMx (cMma id))) (fun t => accGet t 0 == 0x40A00000) = true := by decide

/-- R320 and R321: a stop for a swap, one for CKPT; R380: the oldest request for leave. -/
def cStop (b : Bool) : Cmd := cMma (fun c => { c with started := true, status := 1, stop := some b })
def cAsk : Cmd := cMma (fun c => { c with started := true, status := 1, leave := some false })
def stLeave (g : Nat) : State := { stMx cAsk with diesT := [(0, { Die.reset with tlb := pages, gmax := g, leaveQ := [(0, leaveKey 0 4)] })] }

theorem test_stop_hyp : (∀ b ∈ [true, false], ((stMx (cStop b)).core 0).cmds.find? (fun p => p.2.cls == 1 && decide (p.2.status < 2)
      && p.2.stop.isSome) = some (cmdKey 1 4, cStop b))
    ∧ ((stLeave 1).die 0).leaveQ = [(0, leaveKey 0 4)] ∧ 0 < (stLeave 1).now ∧ ((stLeave 1).die 0).grants.length < ((stLeave 1).die 0).gmax
    ∧ ((stLeave 0).die 0).gmax ≤ ((stLeave 0).die 0).grants.length ∧ getCmd (stLeave 1) 0 1 4 = some cAsk ∧ cAsk.cls = 1 := by decide

/-- R325: azero of the one row left, ald and ast of a row, mgld. -/
def cTile (op : Op) (a : Nat) (b : Word) (n : Nat) : Cmd :=
  { Cmd.fresh 1 4 0 op th0 false with addr := BitVec.ofNat 64 a, opnd := b, at_ := n }
/-- ast is to store one row; its address is 0x2_0000. -/
def cAst : Cmd := cTile .ast 0x2_0000 0 0
def cAld : Cmd := cTile .ald 0x2_0000 3 0
def cMgld : Cmd := cTile .mgld 0x2_0000 0x0008_03F8 0
def cAzero : Cmd := cTile .azero 0 3 127

theorem test_tile_hyp : (∀ c ∈ [cAst, cAld, cMgld, cAzero], mxHead (stMx c) 0 = some c ∧ canRun (stMx c) c = true ∧ mxInPlace (stMx c) c = true)
    ∧ okB (engRead (begun cAld) 0x2_0000 512 (beginning (stMx cAld) cAld)) = true
    ∧ poisonedRange (beginning (stMx cAst) cAst) poisonAcc (accKey 0 0 0 0) 128 = false
    ∧ okB (engWrites (begun cAst) [(0x2_0000, rowGet (beginning (stMx cAst) cAst) 0 0 0)] (beginning (stMx cAst) cAst)) = true
    ∧ okB (engRead (begun cMgld) 0x2_0000 8 (beginning (stMx cMgld) cMgld)) = true := by decide

theorem test_tile_rows : (∃ t, RowsOver (fun r u v => v = rowSet u 0 3 r []) 1 127 (beginning (stMx cAzero) cAzero) t)
    ∧ ∃ t, RowsOver (fun r u v => ∃ bs w, engRead (begun cAld) (0x2_0000 + BitVec.ofNat 64 (512 * r)) 512 u = .ok bs w
      ∧ v = rowSet w 0 3 r bs) 1 0 (beginning (stMx cAld) cAld) t :=
  ⟨⟨_, _, rfl, rfl⟩, ⟨_, _, ⟨_, _, ok_of [] (by decide), rfl⟩, rfl⟩⟩

/-- R107 and R329: a command that ends, alone on its core, with and without .evt, its descriptor in the scratchpad. -/
theorem test_commandEnds_hyp : (cMma id).recorded = false ∧ (cMma id).held = false ∧ (cMma id).op ≠ .lgproj
    ∧ (∀ p ∈ ((stMx (cMma id)).core 0).cmds, p.1 ≠ cmdKey 1 4 → p.2.recorded = true) ∧ (stMx (cMma id)).scratch.wf = true
    ∧ (cMma id).evt = false ∧ (cMma (fun c => { c with evt := true })).evt = true ∧ writesDesc Op.cpy = true
    ∧ ((stEng cCpy id).core 0).cmds.length = 1 ∧ (stEng cCpy id).scratch.wf = true
    ∧ (match window cCpy.addr with | .scr i o => (scratchAt (stEng cCpy id) 0 i o 64).isSome | _ => false) = true := by decide

/-- Class 3 on set 0, generation 1, its record taken at issue. -/
def cLig (op : Op) (o n : Nat) (f : Cmd → Cmd) : Cmd := cmdAt 3 op o n (fun c => f { c with gen := 1, cfg := lgRec })
/-- The Well holds the pool block and, in the bucket that a signature of 1 picks, one id: 5. -/
def stLig (c : Cmd) (n : Nat) : State :=
  stEng c (fun s => { s with
    scratch := put descs [(sk 0x800, 4, 0x4000_3F80)]
    well := put [] [(0x8_0040, 2, 1), (0x8_0042, 2, n), (0x8_004C, 4, 5), (0x8_1000, 8, 0x2_0000), (0x8_1008, 4, 2)] })

def cStore : Cmd := cLig .kstore 0x480 64 id
def cGather : Cmd := cLig .lgather 0x4C0 64 id
def cSig : Cmd := cLig .lgsig 0x500 64 id
def cProj (a : Nat) : Cmd := { Cmd.fresh 3 4 0 .lgproj th0 false with gen := 1, cfg := lgRec, addr := BitVec.ofNat 64 a }
def cPool : Cmd := cLig .lgpool 0x540 16 id

/-- R361 and R359: the row of a key is written, then its token is linked as the second id of its bucket. -/
def ks1 : Eng (List Byte) := engRead (begun cStore) (BitVec.ofNat 64 (scr 0x800)) 16 (beginning (stLig cStore 1) cStore)
def ks2 : Eng Unit := engWrites (begun cStore) [(0x2_0000, val ks1 [])] (st ks1)
def ksS : State := bumpStat (st ks2) 0 0 0 1
def ksC : Cmd := { begun cStore with at_ := 1, ks := 1 }
def ks4 : Eng (List Byte) := engRead ksC (headVa ksS ksC 0 1 0) 64 ksS
def ks5 : Eng Unit :=
  engWrites ksC [(headVa ksS ksC 0 1 0, natToBytes 2 1 ++ natToBytes 2 2 ++ natToBytes 8 0 ++ patch ((val ks4 []).drop 12) 4 (natToBytes 4 0))]
    (st ks4)

theorem test_kstore_hyp : ligHead (stLig cStore 1) 0 4 .kstore = some cStore ∧ okB ks1 = true ∧ okB ks2 = true
    ∧ okB ks4 = true ∧ okB ks5 = true ∧ signature (st ks1) (begun cStore) (val ks1 []) = some 1
    ∧ descNat cStore 24 2 * (lgT cStore.cfg + 1) = 2
    ∧ hdEmpty (val ks4 []) = false ∧ hdGen (val ks4 []) = 1 ∧ hdSat (val ks4 []) = false ∧ hdN (val ks4 []) = 1
    ∧ hdChain (val ks4 []) = 0 := by decide

theorem test_kstore_step1 : StoreStep (begun cStore, beginning (stLig cStore 1) cStore) (ksC, ksS) := by
  obtain ⟨-, h1, h2, -, -, s1, -⟩ := test_kstore_hyp
  unfold StoreStep
  simp only
  rw [if_pos (by decide)]
  exact ⟨by decide, _, _, 1, _, ok_of [] h1, s1, ok_of () h2, rfl⟩

theorem test_kstore_step2 : StoreStep (ksC, ksS) (({ ksC with at_ := 2, idx := [] } : Cmd), bumpStat (st ks5) 0 0 1 1) := by
  obtain ⟨-, -, -, h4, h5, -⟩ := test_kstore_hyp
  unfold StoreStep
  simp only
  rw [if_neg (by decide)]
  exact ⟨by decide, .inr ⟨[1], [], st ks5, ⟨_, _, ok_of [] h4, .inr (.inl ⟨by decide, by decide, rfl, rfl, ok_of () h5⟩)⟩, rfl⟩⟩

theorem test_kstore_steps : ∃ q, StoreSteps 2 (begun cStore, beginning (stLig cStore 1) cStore) q ∧ 2 * 1 ≤ q.1.at_ :=
  ⟨_, ⟨_, test_kstore_step1, _, test_kstore_step2, rfl⟩, by decide⟩

/-- R359: a bucket of 13 ids takes a block of the pool: NEXT is then 1, and the link holds the head. -/
def stChain : State := stLig cStore 13
def kc1 : Eng (List Byte) := engRead (begun cStore) (BitVec.ofNat 64 (scr 0x800)) 16 (beginning stChain cStore)
def kcS : State := bumpStat (st (engWrites (begun cStore) [(0x2_0000, val kc1 [])] (st kc1))) 0 0 0 1
def kc2 : Eng (List Byte) := engRead ksC (headVa kcS ksC 0 1 0) 64 kcS
def kc3 : Eng (List Byte) := engRead ksC (poolVa (st kc2) ksC) 16 (st kc2)
def kc4 : Eng Unit := engWrites ksC [(poolVa (st kc3) ksC + 12, natToBytes 4 1)] (st kc3)

theorem test_blockTaken : ∃ c' t, BlockTaken ksC c' (headVa kcS ksC 0 1 0) kcS t :=
  ⟨_, _, _, _, _, _, _, ok_of [] (show okB kc2 = true by decide), by decide, by decide, by decide, by decide, by decide, by decide,
    ok_of [] (show okB kc3 = true by decide), by decide, ok_of () (show okB kc4 = true by decide), rfl, rfl⟩

/-- The row 3F80, 4000 is written, and the bucket holds 2 ids. -/
theorem test_kstore : after (exec (.kstoreRun 0 4) (stLig cStore 1)) (fun t =>
    Memory.nat t.phys 0x4002_0000 4 == 0x4000_3F80 && Memory.nat t.well 0x8_0042 2 == 2) = true := by decide

/-- R362 to R366: one query whose bucket holds id 5, and one whose bucket is saturated. -/
def lgFound (n : Nat) : Eng Found :=
  readQueries (begun cGather) (List.range 1) ⟨[], false, false, false⟩ (beginning (stLig cGather n) cGather)
def lgW : Eng Unit :=
  engWrites (begun cGather) [(BitVec.ofNat 64 (scr 0xA00), [1, 5].flatMap (natToBytes 4))] (st (lgFound 1))

theorem test_lgather_hyp : (∀ n ∈ [1, 0x8001], ligHead (stLig cGather n) 0 4 .lgather = some cGather ∧ okB (lgFound n) = true)
    ∧ (val (lgFound 1) ⟨[], false, false, false⟩).ids = [5] ∧ (val (lgFound 1) ⟨[], false, false, false⟩).sat = false
    ∧ (val (lgFound 0x8001) ⟨[], false, false, false⟩).sat = true ∧ okB lgW = true ∧ descNat cGather 34 1 = 1
    ∧ descNat cGather 16 8 = 0 ∧ descNat cGather 8 8 = scr 0xA00 ∧ descNat cGather 41 1 % 2 = 0 := by decide

theorem test_lgather : after (exec (.lgatherRun 0 4) (stLig cGather 1)) (fun t => Memory.nat t.scratch (sk 0xA00) 8 == 0x5_0000_0001) = true := by
  decide

/-- R356, R366, R352, R360: one signature; a projection that loads, and one from an address outside; the pool block. -/
def sg1 : Eng (List Byte) := engRead (begun cSig) (BitVec.ofNat 64 (scr 0x800)) 16 (beginning (stLig cSig 1) cSig)
def sg2 : Eng Unit := engWrites (begun cSig) [(BitVec.ofNat 64 (scr 0xA00), natToBytes 8 1)] (st sg1)

theorem test_ligOthers_hyp : ligHead (stLig cSig 1) 0 4 .lgsig = some cSig ∧ okB sg1 = true ∧ signature (st sg1) (begun cSig) (val sg1 []) = some 1
    ∧ okB sg2 = true ∧ ligHead (stLig (cProj 0x2_0000) 1) 0 4 .lgproj = some (cProj 0x2_0000)
    ∧ (∀ x ∈ ligRunning (stLig (cProj 0x2_0000) 1) 0 0, (x.core, x.seq) ∉ (cProj 0x2_0000).drains)
    ∧ okB (engRead (begun (cProj 0x2_0000)) 0x2_0000 16 (beginning (stLig (cProj 0x2_0000) 1) (cProj 0x2_0000))) = true
    ∧ ligHead (stLig (cProj (scr 0xF_0000)) 1) 0 4 .lgproj = some (cProj (scr 0xF_0000))
    ∧ (match engRead (begun (cProj (scr 0xF_0000))) (BitVec.ofNat 64 (scr 0xF_0000)) 16
          (beginning (stLig (cProj (scr 0xF_0000)) 1) (cProj (scr 0xF_0000))) with
        | .fail _ _ _ _ => true
        | _ => false) = true
    ∧ ligHead (stLig cPool 1) 0 4 .lgpool = some cPool
    ∧ okB (engWrites (begun cPool) [(poolVa (beginning (stLig cPool 1) cPool) (begun cPool), cPool.desc.take 12 ++ natToBytes 4 0)]
      (beginning (stLig cPool 1) cPool)) = true := by decide

theorem test_lgsig_rows : ∃ t, RowsOver (fun _ u v => ∃ row w sig, engRead (begun cSig) (BitVec.ofNat 64 (scr 0x800)) 16 u = .ok row w
    ∧ signature w (begun cSig) row = some sig
    ∧ engWrites (begun cSig) [(BitVec.ofNat 64 (scr 0xA00), natToBytes 8 sig)] w = .ok () v) 1 0 (beginning (stLig cSig 1) cSig) t :=
  ⟨_, _, ⟨_, _, 1, ok_of [] (show okB sg1 = true by decide), by decide, ok_of () (show okB sg2 = true by decide)⟩, rfl⟩

/-! ### Small steps

v1 is 5, v2 0x3_FFFF_FFFE, v3 the FP32 pair 3.0 and 1.0, v4 0x8000_0000_0000_0001, v6 2; the results in v7 are worked out by
hand from R180 (elements), R253 to R260, R270 to R283. -/

def resultsIn7 (l : List (Instr × Word)) : Bool := l.all (fun p => after (exec p.1 st0) (fun t => (t.thread 0).getV 7 == p.2))

theorem test_integer_results : resultsIn7 [
    (.sub false .w32 7 1 (.v 6), 3), (.sub false .w64 7 6 (.v 1), 0xFFFF_FFFF_FFFF_FFFD), (.add false .w16 7 2 (.imm 1), 0x0001_0004_0000_FFFF),
    (.mul false .w32 7 2 (.v 1), 0xFFFF_FFF6), (.or false 7 4 (.v 2), 0x8000_0003_FFFF_FFFF), (.xor false 7 4 (.v 4), 0),
    (.shl false .w64 7 6 (.imm 15), 0x1_0000), (.sar false .w32 7 4 (.imm 4), 0xF800_0000_0000_0000),
    (.shr false .w32 7 4 (.imm 4), 0x0800_0000_0000_0000), (.rol false .w8 7 4 (.imm 1), 0x0100_0000_0000_0002),
    (.max false .i32 7 4 (.v 1), 5), (.max false .n32 7 4 (.v 1), 0x8000_0000_0000_0005), (.addSat false .i32 7 4 (.v 4), 0x8000_0000_0000_0002),
    (.addSat false .n32 7 4 (.v 4), 0xFFFF_FFFF_0000_0002), (.mulh false .n32 7 2 (.v 1), 4), (.clz false 7 .n32 (.v 1), 0x20_0000_001D),
    (.popc false 7 .n64 (.v 2), 33), (.not false 7 (.v 4), 0x7FFF_FFFF_FFFF_FFFE), (.abs false 7 .i8 (.v 4), 0x8000_0000_0000_0001)]
    = true := by decide

theorem test_float_results : resultsIn7 [
    (.addF false .f32 7 3 (.v 3), 0x40C0_0000_4000_0000), (.mulF false .f32 7 3 (.v 3), 0x4110_0000_3F80_0000),
    (.subF false .f32 7 3 (.v 3), 0), (.negF false .f32 7 (.v 3), 0xC040_0000_BF80_0000), (.maxF false .f32 7 3 (.zero), 0x4040_0000_3F80_0000)]
    = true := by decide

/-- R185 and R209: what a load is to return: the scratchpad holds F8 F7 F6 F5 ... F1 from the address in v9. -/
theorem test_load_results : [((.ld false .n64 7 9 0 0 0 : Instr), (0xF1F2_F3F4_F5F6_F7F8 : Word)), (.ld false .i8 7 9 0 0 0, 0xFFFF_FFFF_FFFF_FFF8),
    (.ld false .n32 7 9 0 0 0, 0xF5F6_F7F8), (.ld false .i16 7 8 0 0 3, 0x0708)].all (fun p => after (exec p.1 st0) (fun t =>
      (t.thread 0).outs.map Outst.value == [some p.2])) = true := by decide

theorem test_store_result : after (exec (.st false .n16 2 9 0 0 0) st0) (fun t => Memory.nat t.scratch (sk 0x100) 8 == 0xF1F2_F3F4_F5F6_FFFE)
    = true := by decide

/-- R240 to R244: targets from the word after; a branch whose mask bit is 0 goes on; a call and its frame depth. -/
theorem test_control_results : after (exec (.jmp false 0x1FFFFFF) st0) (fun t => (t.thread 0).pc == 0x1_0000) = true
    ∧ after (exec (.br false 1 true 5) st0) (fun t => (t.thread 0).pc == 0x1_0004) = true
    ∧ after (exec (.br false 1 false 5) st0) (fun t => (t.thread 0).pc == 0x1_0018) = true
    ∧ after (exec (.call false 5) st0) (fun t => (t.thread 0).pc == 0x1_0018 && (t.thread 0).fd == 1) = true
    ∧ after (exec (.exit false) st0) (fun t => (t.thread 0).status == .exited) = true := by decide

/-- R386: the handler begins at TRAPBASE, with the frame busy. -/
theorem test_trap_result : after (exec (.trap false (.imm 3)) st0) (fun t => (t.thread 0).pc == 0x1_0100 && (t.thread 0).handler
    && (slotInfo t 0 0 0).frame == [0]) = true := by decide

/-! ### The hypotheses of the statements about launches, residency and host -/

/-- A launch record: ENTRY 0x1_0000, one cluster of one team of one group of allotment 8, 4 KiB of scratchpad, node 7 of a ring
of 2 at VA 0x9_3000 (R371, R372, R378). -/
def recOf (fl z coal ctmo colo : Nat) : List Byte :=
  natToBytes 8 0x1_0000 ++ natToBytes 16 0 ++ natToBytes 8 colo ++ natToBytes 4 1 ++ [1, 0x11, 1, 0, 8, 1, 0, 0, 0, 0]
    ++ natToBytes 1 fl ++ natToBytes 1 z ++ List.replicate 20 0 ++ natToBytes 2 7 ++ natToBytes 2 coal ++ natToBytes 4 ctmo
    ++ natToBytes 8 0x9_3000 ++ natToBytes 4 2 ++ List.replicate 168 0

/-- VA 0x9_0000 maps through the tables of `stWalk`: a queue of launch records there, the event queue at 0x9_1000 and the
sample buffer at 0x9_2000. -/
def stQueue (r : List Byte) (f : Ctx → Ctx) : State :=
  { stWalk with
    phys := put stWalk.phys [(0x4009_0000, 256, bytesToNat r)]
    ctxs := [(0, f { cx0 with lq := [(0, 0x9_0008), (1, 1)], evqbase := 0x9_1000, sampbuf := 0x9_2000 })] }

def event0 (c : Option (Nat × Nat × Nat)) : EventRec := ⟨5, 2, 0, 9, c⟩
def stEvents (c : Option (Nat × Nat × Nat)) : State :=
  { stQueue [] (fun x => { x with events := [event0 c] }) with
    cores := [(0, { co0 with seqs := [(1, 4)], cmds := [(cmdKey 1 4, { cmd1 2 false with held := true })] })]
    mevqbase := 0x4000_0000, mevents := [event0 none] }

theorem test_events_hyp : ((stEvents none).ctx 0).events = [event0 none]
    ∧ eventRoom (stEvents none) 0 = some 0 ∧ eventRoom (stEvents (some (0, 1, 4))) 0 = some 0 ∧ moduleRoom (stEvents none) = some 0
    ∧ getCmd (stEvents (some (0, 1, 4))) 0 1 4 = some { cmd1 2 false with held := true } := by decide

/-- The handle stands in the first record and TAIL is 1. -/
theorem test_eventPost : after (exec (.eventRecordPost 0) (stEvents none)) (fun t =>
    Memory.nat t.phys 0x4009_1040 8 == 5 && Memory.nat t.phys 0x4009_1000 8 == 1) = true := by decide

/-- R372 and R373: a record that keeps every limit, and one whose reserved byte 47 is the first that does not. -/
theorem test_limits_hyp : (recOf 0 0 0 0 0).length = 256 ∧ (∀ x ∈ recordLimits (recOf 0 0 0 0 0), x.2)
    ∧ (∀ x ∈ (recordLimits (recOf 0 1 0 0 0)).take 14, x.2) ∧ (recordLimits (recOf 0 1 0 0 0))[14]?.map (fun x => x.1) = some 47
    ∧ fieldAt (recOf 0 1 0 0 0) 47 1 ≠ 0 := by
  refine ⟨by decide, ?_, ?_, rfl, by decide⟩ <;>
    (simp only [recordLimits, legalAllotment, List.take_succ_cons, List.take_zero, List.forall_mem_cons]
     repeat' apply And.intro
     all_goals first | decide | simp)

/-- R373: the good record with 2²⁴ clusters of 48 teams, with a return stack at the end of the window, and with 33 groups on a core. -/
def recWith (o n x : Nat) : List Byte := let r := recOf 0 0 0 0 0; r.take o ++ natToBytes n x ++ r.drop (o + n)
theorem test_refusals : recBad (recWith 32 5 (2 ^ 24 + 2 ^ 32 * 48)) = some 32 ∧ recBad (recWith 16 8 (2 ^ 56 - 2 ^ 16)) = some 32
    ∧ recBad (recWith 36 3 (3 + 2 ^ 8 * 0x11 + 2 ^ 16 * 11)) = some 38 ∧ recBad (recWith 36 1 0) = some 36
    ∧ (∀ x ∈ (recordResources (recWith 36 3 (3 + 2 ^ 8 * 0x11 + 2 ^ 16 * 10))), x.1 * 3 ≤ x.2.1) := by decide

/-- R378: a node's team has its batch in c32 and c33. -/
theorem test_batch : (let t := placeTeam st0 9 { Launch.fresh 0 0 0 (recOf 64 0 1 5 0) [] with node := some 7, batch := (0x9_3020, 2) } 0 0 0 0 0 0
    ((t.team st0.uid).getC 32, (t.team st0.uid).getC 33, (t.team st0.uid).getC 34)) = (0x9_3020, 2, 0) := by decide

/-- R371 to R373, R378: a record with a byte that is not zero, a launch, and a node; LQTAIL at the greatest and past it. -/
theorem test_fetchRecord_hyp : (∀ r ∈ [recOf 0 1 0 0 0, recOf 0 0 0 0 0, recOf 64 0 1 5 0], fetchDue (stQueue r id) 0 0 = true)
    ∧ recBad (recOf 0 1 0 0 0) = some 47 ∧ recBad (recOf 0 0 0 0 0) = none ∧ recBad (recOf 64 0 1 5 0) = none
    ∧ (∀ r ∈ [recOf 0 1 0 0 0, recOf 0 0 0 0 0, recOf 64 0 1 5 0], (match devRead (stQueue r id) 0 0x9_0000 256 with
      | (.ok bs, _) => bs == r
      | _ => false) = true)
    ∧ fieldAt (recOf 0 0 0 0 0) 8 8 = 0 ∧ recFlag (recOf 0 0 0 0 0) 6 = false ∧ recFlag (recOf 64 0 1 5 0) 6 = true
    ∧ nodeHolds ((stQueue (recOf 64 0 1 5 0) id).ctx 0) 7 = false := by decide

theorem test_lqtail : after (exec (.lqtailWrite 0 0 16) (stQueue [] id)) (fun t => lqReg (t.ctx 0) 0 1 == 16) = true
    ∧ after (exec (.lqtailWrite 0 0 17) (stQueue [] id)) (fun t => lqReg (t.ctx 0) 0 1 == 1) = true := by decide

/-- R374 to R379: a launch to place on an empty core; a gang that has waited; a launch whose one team has exited. -/
def launchOf (r : List Byte) (f : Launch → Launch) : Launch :=
  f ⟨0, 0, 0, r, [], 0, 0, 0, none, 0, 0, false, [], [], 0, (0, 0), none, false⟩
def lPlace : Launch := launchOf (recOf 0 0 0 0 0) id
def lGang : Launch := launchOf (recOf 1 0 0 0 0) (fun l => { l with waited := 0x10_0000, rects := [(0, 0, 0)] })
def lDone : Launch := launchOf (recOf 4 0 0 0 0x9_4000) (fun l => { l with next := 1, placed := 1, exits := 1, start := some 0 })
def stLaunch (l : Launch) : State := { stQueue [] id with teams := [], threads := [], launches := [(0, l)], cores := [], uid := 5 }

theorem test_placement_hyp : nextPlaced (stLaunch lPlace) = some 0 ∧ recFlag lPlace.record 0 = false
    ∧ rectFits (stLaunch lPlace) 0 lPlace (0, 4, 7) = true ∧ rectangle lPlace.record (0, 4, 7) = [39] ∧ recPer lPlace.record = 1
    ∧ gangDue (stLaunch lGang) lGang = true ∧ lDone.done = false ∧ recNcl lDone.record ≤ lDone.next ∧ recTeams lDone.record ≤ lDone.exits
    ∧ recFlag lDone.record 2 = true ∧ recFlag lPlace.record 2 = false := by decide

/-- Team 5 stands on core 39, its 32 threads at ENTRY. -/
theorem test_teamPlacement : after (exec (.teamPlacement 0 0 4 7) (stLaunch lPlace)) (fun t => (t.team 5).core == 39
    && t.threads.length == 32 && (t.thread (threadKey 5 31)).pc == 0x1_0000 && (t.team 5).scrSize == 4096) = true := by decide

/-- R375: a gang of two teams that becomes aged, and one of a single team that waits on the same core; what has become free there, and
then what is open. -/
def lTwo : Launch := { lGang with record := patch lGang.record 32 [2] }
def stGangs (opens : Tbl Nat) : State :=
  { stLaunch lGang with launches := [(0, lTwo), (1, { lGang with queue := 1 })], cores := [(0, { Core.reset with opens := opens })] }

theorem test_gangs : gangDue (stGangs []) lTwo = true
    ∧ recTeams lGang.record < recTeams lTwo.record ∧ rectangle lTwo.record (0, 0, 0) = [0]
    ∧ after (exec (.gangAged 0) (stGangs [])) (fun t => (t.launch 0).any (fun l => l.aged && Tbl.get? l.holds 0 == some 1)
      && (t.launch 1).any (fun l => !l.aged && Tbl.get? l.holds 0 == some 1) && Tbl.get? (t.core 0).opens 0 == some 30) = true
    ∧ after (exec (.gangAged 0) (stGangs [(0, 32)])) (fun t => (t.launch 0).any (fun l => Tbl.get? l.holds 0 == some 1)
      && (t.launch 1).any (fun l => Tbl.get? l.holds 0 == some 0) && Tbl.get? (t.core 0).opens 0 == some 31) = true := by decide

/-- R378: a node whose batch is full, and one whose oldest record has waited. -/
def nodeOf (coal : Nat) : Node := ⟨recOf 64 0 coal 5 0, [], 0, 0, 1, [0], [], 0, 0⟩
def stNode (coal : Nat) : State := { stQueue [] (fun c => { c with nodes := [(7, nodeOf coal)] }) with cycle := 5 }

theorem test_nodes_hyp : Tbl.get? ((stNode 1).ctx 0).nodes 7 = some (nodeOf 1) ∧ Tbl.get? ((stNode 2).ctx 0).nodes 7 = some (nodeOf 2)
    ∧ (nodeOf 1).record.length = 256 ∧ (nodeOf 2).record.length = 256 ∧ fieldAt (nodeOf 1).record 70 2 ≤ (nodeOf 1).waiting.length
    ∧ fieldAt (nodeOf 2).record 72 4 = 5 ∧ (nodeOf 2).waiting.length < fieldAt (nodeOf 2).record 70 2 ∧ 0 + 5 ≤ (stNode 2).now := by decide

/-- R377, R389 and R390: an expired slice; a swap to context 1, with nothing open, with an open sum, with class 3 at work; a
block to restore, with the outgoing context's page absent and with the context stopped. -/
def stSwap (cmds : Tbl Cmd) : State :=
  { st0 with
    cores := [(0, { co0 with shadow := some 1, expired := true, slice := 262144, cmds := cmds })]
    ctxs := [(0, cx0), (1, cx0)], teams := [(0, tm0), (1, { tm0 with ctx := 1 })]
    threads := [(0, th0), (1024, { th0 with ctx := 1, team := 1 })] }
def cOpen : Cmd := cMma (fun c => { c with started := true, status := 1, at_ := 8 })
def cLigRun : Cmd := { cStore with started := true, status := 1 }

theorem test_swap_hyp : sliceDue ((stSwap []).updCore 0 (fun c => { c with expired := false })) 0 = true
    ∧ (∀ x ∈ [[], [(cmdKey 1 4, cOpen)], [(cmdKey 3 4, cLigRun)]], swapDue (stSwap x) 0 = true)
    ∧ haltFirst (stSwap []) ((stSwap []).threads.filter (fun p => p.2.core == 0 && p.2.ctx == 0)) = none
    ∧ mxOpen (stSwap []) 0 0 = none ∧ ligBusy (stSwap []) 0 0 = false ∧ mxOpen (stSwap [(cmdKey 1 4, cOpen)]) 0 0 = some cOpen
    ∧ ligBusy (stSwap [(cmdKey 1 4, cOpen)]) 0 0 = false
    ∧ cOpen.stop = none ∧ mxOpen (stSwap [(cmdKey 3 4, cLigRun)]) 0 0 = none ∧ ligBusy (stSwap [(cmdKey 3 4, cLigRun)]) 0 0 = true := by
  decide

/-- The spill area of core 0 for SAVEBASE 0 begins at VA 0x1400_0000: a 2 MiB page of the tables of `stWalk`, or none. -/
def stSpill (mapped : Bool) (wait : List Nat) : State :=
  { stSwap [] with
    phys := if mapped then put stWalk.phys [(0x12_0500, 8, 0x4020_0607)] else phys0
    cores := [(0, { co0 with shadow := some 1, unrestored := [0], unspilled := wait })]
    ctxs := [(0, cx0), (1, { cx0 with savebase := 0 })]
    threads := [(0, { th0 with status := .blocked (waitFor (.restore 0 0) 2) })] }

theorem test_spill_hyp : (∀ w ∈ [[], [0]], (0 ∈ ((stSpill true w).core 0).unrestored) ∧ ((stSpill true w).core 0).spillWait = none
      ∧ ((stSpill true w).core 0).swapping = 0 ∧ ((stSpill true w).thread 0).why? = some (.restore 0 0))
    ∧ ((stSpill false [0]).core 0).unspilled.contains 0 = true ∧ ((stSpill false [0]).core 0).shadow = some 1
    ∧ ((stSpill false [0]).ctx 1).stopped = false ∧ (match devRange (stSpill false [0]) 1 true (spillVa (stSpill false [0]) 0 1 0) 4096 with
      | (.error (.page k _, _), _) => k == 0
      | _ => false) = true := by decide

/-- A block that needs no copy is in place; a copy that can be made, and one that meets a fault. -/
theorem test_spill : after (exec (.spillRestore 0 0) (stSpill true [])) (fun t =>
      (t.core 0).unrestored == [] && (t.core 0).unspilled == [] && (t.thread 0).status == .waking (waitFor (.restore 0 0) 2)) = true
    ∧ after (exec (.spillRestore 0 0) (stSpill false [0])) (fun t => (t.core 0).spillWait.isSome && (t.ctx 1).faults.length == 1) = true := by
  decide

/-- R59 and R390: block 1 was demanded, so it is restored before block 0; its context, of CTXID 3, is then its last owner. -/
def stDemand : State :=
  { stSpill true [] with cores := [(0, { co0 with shadow := some 1, unrestored := [0, 1], demands := [(0, 1)] })] }

theorem test_demand : exec (.spillRestore 0 0) stDemand = .next stDemand
    ∧ after (exec (.spillRestore 0 1) stDemand) (fun t => (t.core 0).unrestored == [0] && Tbl.get? (t.core 0).owner 1 == some 4) = true :=
  ⟨rfl, by decide⟩

theorem test_spillBlock_hyp : (spillBlock (stSpill true [0]) 0 0).1 = true := by decide +kernel

/-- R391: a third context's team on the core; and a free shadow bank for the second context. -/
def stThird : State :=
  { stSwap [] with teams := [(0, tm0), (1, { tm0 with ctx := 1 }), (2, { tm0 with ctx := 2 })], threads := [(0, th0)] }

theorem test_third_hyp : thirdNeeds stThird 0 = true ∧ (stThird.core 0).shadow = some 1 ∧ (stThird.core 0).unrestored = []
    ∧ (stThird.core 0).unspilled = [] ∧ (spillWrite { stThird with ctxs := [(0, cx0), (1, { cx0 with stopped := true })] } 0 1
      (registerVa stThird 0 1) 0).1 = true
    ∧ ((stSwap []).updCore 0 (fun c => { c with shadow := none }) |>.core 0).active ≠ some 1
    ∧ coreTeams ((stSwap []).updCore 0 (fun c => { c with shadow := none })) 0 1 ≠ []
    ∧ (∀ r ∈ (coreUsed ((stSwap []).updCore 0 (fun c => { c with shadow := none })) 0 1).zip [32, 131072, 256, 8, 256, 32], r.1 ≤ r.2) := by
  decide

/-- R406: a sample that is due, with room, and with a full buffer of 32. -/
def stSample (tail : Nat) : State :=
  { stQueue [] (fun c => { c with sampcfg := 0x6401 }) with
    cores := [(0, { co0 with sampCount := [(0, 100)] })], phys := put stWalk.phys [(0x4009_2000, 8, tail)] }

theorem test_sample_hyp : (∀ n ∈ [31, 32], sampleDue (stSample n) 0 = true ∧ sampleSlot (stSample n) 0 0 (Tbl.getD ((stSample n).core 0).sampLast 0 0) = some 0
      ∧ lowestThread (slotThreads (stSample n) 0 0 0) = some th0
      ∧ (match devRead (stSample n) 0 0x9_2000 24 with
        | (.ok h, _) => fieldAt h 0 8 == n && fieldAt h 8 8 == 0
        | _ => false) = true)
    ∧ (2 : Nat) ^ ((((stSample 0).ctx 0).sampbuf.extractLsb' 0 4).toNat + 5) = 32 := by decide

/-- R411 to R414 and R427: host's and peers' addresses, the aperture's last word of the Well, a slot in use, an open fault. -/
theorem test_host_hyp : hostReaches 0 4096 = true ∧ hostReaches 0x1_0000_0000_0000 8 = true ∧ st0.phys.wf = true
    ∧ st0.wellFrom = none ∧ st0.well.wf = true
    ∧ (0 : Nat) * 0x100_0000 + 0xFF_FFF8 / 8 * 8 % 0x100_0000 + 8 ≤ st0.wellCur * 2 ^ 23 ∧ 0x5FF_FFFF_FFFF / 8 * 8 < 0x600_0000_0000
    ∧ slotInUse State.reset 0 = false ∧ slotInUse st0 0 = true ∧ openFaultOf stFault 0 3 = some fault3 ∧ (3 : Nat) < 2 ^ 32 := by decide

/-- The last bytes of die 7's slice under the aperture, as host reads and writes them. -/
theorem test_aperture : after (exec (.wellApertureAccess 0xFF_FFF8 true 0x0102_0304_0506_0708) { st0 with winsel := 0xE3 }) (fun t =>
    Memory.nat t.well (wellKey 7 0x3FF_FFF8) 8 == 0x0102_0304_0506_0708) = true := by decide

/-! ### The hypotheses of the statements about steps -/

/-- add.n32 v3, v1, #5 stands at the PC; a move names slot 0 of core 0. -/
def stStep (m : List Move) : State :=
  { st0 with phys := put phys0 [(0x4001_0000, 4, 0x108181C5)], bundle := none, inbox := m }

def choice0 : Choice := ((pick (stStep []) 0 0).getD ⟨0, [], 0, 0, 0, false⟩)

theorem test_step_hyp : (stStep [.slot 0 0]).stop = none ∧ (stStep [.slot 0 0]).inbox = [.slot 0 0] ∧ (stStep []).cursor ≤ 0 ∧ (0 : Nat) ∉ (stStep []).taken
    ∧ overdue (stStep []) 0 0 = [] ∧ breakChoice (stStep []) 0 0 = none ∧ pick (stStep []) 0 0 = some choice0
    ∧ (match fetchInstr (startBundle (stStep []) 0 0 choice0).2 (startBundle (stStep []) 0 0 choice0).1 with
      | (.instr i, _) => i == .add false .w32 3 1 (.imm 5)
      | _ => false) = true
    ∧ ((startBundle (stStep []) 0 0 choice0).2.core 0).tlb.find? (fun t => t.covers 3 0x1_0008) = some (page 1 0x4001 0xC)
    ∧ (match (page 1 0x4001 0xC).reached (stStep []) with | .ok t => t == page 1 0x4001 0xC | _ => false) = true
    ∧ leafX (page 1 0x4001 0xC).leaf = true
    ∧ decodeWords [codeWord (stStep []) (page 1 0x4001 0xC) bd0 0, codeWord (stStep []) (page 1 0x4001 0xC) bd0 1,
        codeWord (stStep []) (page 1 0x4001 0xC) bd0 2] = .ok (.add false .w32 3 1 (.imm 5), [0, 0]) := by decide

/-- With no move from outside, the slot is next as well. -/
theorem test_slotNext : (stStep []).inbox = [] ∧ (wakeStep (stStep [])).isNone = true ∧ (firstChange (stStep []) (dueEvents (stStep []))).isNone = true
    ∧ ((stStep []).cores.findSome? (fun p => engineStep (stStep []) p.2)).isNone = true ∧ (homeOver (stStep [])).isNone = true ∧ nextNib (stStep []) = some 0 := by decide

/-- Two elements of 32 bits: 5 and 5, 0 and 5. -/
theorem test_step : after (step (stStep [])) (fun t => (t.thread 0).getV 3 == 0x5_0000_000A && (t.thread 0).pc == 0x1_0004) = true := by decide

/-- The first step after reset with that word placed runs it: v1 is 0 there. -/
theorem test_firstStep : after (step (State.reset.withFetchWord 32 0x108181C5)) (fun t => t.threads.any (fun p => p.2.getV 3 == 0x5_0000_0005)) = true := by
  decide

theorem test_memWf : State.reset.MemWf ∧ (match step State.reset with | .next _ => true | _ => false) = true :=
  ⟨by simp [State.MemWf, State.reset, Memory.wf, Memory.wfFrom], by decide⟩
/-! ### The hypotheses of completion in the Ligature unit -/

/-- One key of the scratchpad, its row kept in the scratchpad: its token is linked as the second id. -/
def cStore1 : Cmd := { cStore with desc := cStore.desc.take 8 ++ natToBytes 8 (scr 0xB00) ++ cStore.desc.drop 16 }

/-- R361: the key, the row's place, and the head of the one table. -/
theorem test_kstore_completes : let s := stLig cStore1 1
    let c := cStore1
    let b := Memory.readN s.well (wellKey 0 0x8_0040) 64
    s.scratch.wf = true ∧ s.well.wf = true ∧ ligHead s 0 4 .kstore = some c ∧ c.at_ = 0 ∧ descNat c 24 2 = 1
    ∧ c.near s (BitVec.ofNat 64 (descNat c 0 8)) (2 * lgD c.cfg) = some (false, sk 0x800)
    ∧ c.near s (BitVec.ofNat 64 (descNat c 8 8)) (2 * lgD c.cfg) = some (false, sk 0xB00)
    ∧ signature s c (Memory.readN s.scratch (sk 0x800) (2 * lgD c.cfg)) = some 1
    ∧ (∀ j, j < lgT c.cfg → windowOf (headVa s c (headNo c 26) 1 j) 64 = .well 0 0x8_0040
      ∧ c.near s (headVa s c (headNo c 26) 1 j) 64 = some (true, wellKey 0 0x8_0040))
    ∧ hdSat b = false ∧ hdN b < 13 ∧ lgT c.cfg = 1 := by
  decide

/-- The bucket holds 2 ids, the second one 0, and the row stands in the scratchpad. -/
theorem test_kstore_near : after (exec (.kstoreRun 0 4) (stLig cStore1 1)) (fun t =>
    Memory.nat t.scratch (sk 0xB00) 4 == 0x4000_3F80 && Memory.nat t.well 0x8_0042 2 == 2) = true := by decide

/-- R362 to R364: the row of the one query, its head without a chain, and the one id. -/
theorem test_lgather_completes : let s := stLig cGather 1
    let c := cGather
    let b := Memory.readN s.well (wellKey 0 0x8_0040) 64
    s.scratch.wf = true ∧ s.well.wf = true ∧ ligHead s 0 4 .lgather = some c ∧ descNat c 16 8 = 0 ∧ descNat c 34 1 = 1
    ∧ c.near s (BitVec.ofNat 64 (descNat c 0 8)) (2 * lgD c.cfg) = some (false, sk 0x800)
    ∧ signature s c (Memory.readN s.scratch (sk 0x800) (2 * lgD c.cfg)) = some 1
    ∧ (∀ j, j < lgT c.cfg → c.near s (headVa s c (headNo c 42) 1 j) 64 = some (true, wellKey 0 0x8_0040))
    ∧ hdGen b = c.gen ∧ hdSat b = false ∧ hdN b = 1 ∧ fieldAt b 12 4 = 5 ∧ lgT c.cfg = 1 ∧ 1 ≤ lgKmax c.cfg
    ∧ c.near s (BitVec.ofNat 64 (descNat c 8 8)) 8 = some (false, sk 0xA00) := by decide

theorem test_lgather_ids : ∀ a : Nat, a ∈ [5] ↔ ∃ r j i : Nat, r < 1 ∧ j < 1 ∧ i < 1
    ∧ a = fieldAt (Memory.readN (stLig cGather 1).well (wellKey 0 0x8_0040) 64) (12 + 4 * i) 4 := by
  have h : fieldAt (Memory.readN (stLig cGather 1).well (wellKey 0 0x8_0040) 64) (12 + 4 * 0) 4 = 5 := by decide
  intro a
  constructor
  · intro ha; exact ⟨0, 0, 0, by omega, by omega, by omega, by simpa [h] using ha⟩
  · rintro ⟨r, j, i, -, -, hi, rfl⟩
    obtain rfl : i = 0 := by omega
    simp [h]

/-- R366: one row and its signature. R353: the projection of a set with no other command. R360: the pool block. -/
theorem test_lig_completes : let s := stLig cSig 1
    (ligHead s 0 4 .lgsig = some cSig ∧ cSig.at_ = 0 ∧ descNat cSig 18 2 = 1
      ∧ cSig.near s (BitVec.ofNat 64 (descNat cSig 0 8)) (2 * lgD cSig.cfg) = some (false, sk 0x800)
      ∧ cSig.near s (BitVec.ofNat 64 (descNat cSig 8 8)) 8 = some (false, sk 0xA00)
      ∧ signature s cSig (Memory.readN s.scratch (sk 0x800) (2 * lgD cSig.cfg)) = some 1 ∧ sk 0x800 + 2 * lgD cSig.cfg ≤ sk 0xA00)
    ∧ (let c := cProj (scr 0x800)
      let s := stLig c 1
      ligHead s 0 4 .lgproj = some c ∧ (∀ q ∈ ligRunning s 0 0, q.core = 0 ∧ q.seq = 4)
        ∧ c.near s c.addr (lgProjLen c.cfg) = some (false, sk 0x800))
    ∧ ligHead (stLig cPool 1) 0 4 .lgpool = some cPool ∧ cPool.desc.length = 16
    ∧ windowOf (poolVa (stLig cPool 1) cPool) 16 = .well 0 0x8_1000
    ∧ (cPool.near (stLig cPool 1) (poolVa (stLig cPool 1) cPool) 16).isSome = true := by decide

/-! ### The hypotheses of writes that may meet a snap, of storage and of reads from outside -/

/-- A snap has still to copy page 9, where the event queue stands: its leaf has F set. -/
def stHeldEvents (done : Bool) : State :=
  { stEvents none with
    phys := put (stEvents none).phys [(0x13_0048, 8, 0x4009_0E07)]
    ctxs := [(0, { (stEvents none).ctx 0 with snap := if done then none else some ⟨0, 4, [(9, 3)], 0, [], [], []⟩ })] }

theorem test_devHeld_hyp : (devHeld (stHeldEvents true) 0 [(0x9_1040, 32), (0x9_1000, 8)]).1 = false
    ∧ (devHeld (stHeldEvents false) 0 [(0x9_1040, 32), (0x9_1000, 8)]).1 = true
    ∧ (devHeld (stEvents none) 0 [(0x9_1040, 32), (0x9_1000, 8)]).2.cycle = (stEvents none).cycle
    ∧ (devHeld (stLaunch lDone) 0 [(0x9_4030, 16)]).1 = false ∧ (devHeld (stSample 31) 0 [(0x9_2040 + 31 * 32, 32), (0x9_2000, 8)]).1 = false := by
  decide

/-- R80 and R81: a line in the home ways, and one in die 0's far ways. R103: a tag of team scope. -/
def stErr : State :=
  { st0 with
    tags := [(0x80_0400, ⟨0, 1⟩)]
    diesT := [(0, { Die.reset with home := [⟨0x80_0200, 3, true, []⟩], far := [⟨0x100_0000, 4, 0, none, List.replicate 128 7, [], false⟩] })] }

theorem test_storage_hyp : homeOf 0x4001_0040 = .hbm 0 ∧ (stErr.die 0).home.any (fun h => h.line == 0x4001_0040 / 128) = true
    ∧ (stErr.die 0).far.any (fun l => l.line == 0x8000_0000 / 128) = true ∧ 0x8000_0000 < 2 ^ 52
    ∧ Tbl.get? (promoteCore stErr 0).tags 0x80_0400 = some ⟨0, 1⟩ ∧ replyNext ((stColl replyE).core 0).coll 0 = true
    ∧ ((stColl replyE).core 0).coll.length = 1 := by decide

/-- Block 1 of the home-way line is poisoned, and of die 0's far copy. -/
theorem test_softError_l2 : after (exec (.softError 2 0x4001_0040 true) stErr) (fun t => (t.die 0).home.map (fun h => h.bad) == [[1]]) = true
    ∧ after (exec (.softError 2 (2 ^ 52 + 0x8000_0040) true) stErr) (fun t => (t.die 0).far.map (fun l => l.bad) == [[1]]) = true := by decide

/-- R404, R408 and R417: what the gloss port and the window show. -/
def stRead (r : HostRead) : State := { st0 with winsel := 0xE3, inbox := [.read r, .tick] }

theorem test_reads : [((.gloss 0 0 (.v 1) : HostRead), (5 : Word)), (.gloss 0 0 .pc, 0x1_0000), (.window 0x08, 0xE3), (.window 0x10_0000, 3),
      (.window 0x10_2048, 0), (.gloss 0 0 .handler, 0), (.gloss 0 0 .status, 0), (.gloss 0 0 .appendOrd, 0), (.headStat 3 5 2, 0), (.window 9, 0), (.window 0x200_0000, 40), (.scratch 0 0x100, 0xF1F2_F3F4_F5F6_F7F8),
      (.margin 0 0x3F8, 0), (.acc 0 3 16383, 0), (.proj 0 0, 0)].all (fun p => after (step (stRead p.1)) (fun t =>
        t.hostReads == [(p.1, wordBytes 8 p.2)] && t.inbox == [.tick] && t.threads == st0.threads)) = true := by decide

/-- R359: a link holds the head at Well offset 0 of die 0, and host's access waits. -/
def stLinked : State := stEng { cStore with link := some (wellKey 0 0, 0) } id

theorem test_heldHead : hostCan stLinked = true ∧ headHeld stLinked (wellKey 0 0) 8 noCmd = true
    ∧ headHeld st0 (wellKey 0 0x1000) 8 noCmd = false := by decide

/-- R420: host gives a slot that nothing uses another CTXID. -/
theorem test_ctxid : slotInUse State.reset 2 = false ∧ (State.reset.ctx 2).ctxid ≠ 9
    ∧ after (exec (.registerWrite 0x30_0000 9) { State.reset with steps := 127, ports := [0] }) (fun t => (t.ctx 2).ctxid == 9) = true := by decide

/-- R321: a command with no index vector, and one that a swap stopped. -/
def cIndexed : Cmd := cMma (fun c => { c with desc := c.desc.take 16 ++ natToBytes 8 (scr 0x900) ++ c.desc.drop 24 })

theorem test_indexRead_hyp : IndexRead (stMx (cMma id)) (cMma id) (begun (cMma id)) (beginning (stMx (cMma id)) (cMma id))
    ∧ ∃ c1 s1, IndexRead (stMx cIndexed) cIndexed c1 s1 :=
  ⟨.inl ⟨by decide, rfl, rfl⟩, _, _, .inr ⟨by decide, rfl, _, ok_of []
    (show okB (engRead (begun cIndexed) (BitVec.ofNat 64 (descNat cIndexed 16 8)) (4 * mxM cIndexed.desc)
      (beginning (stMx cIndexed) cIndexed)) = true by decide), rfl⟩⟩

/-- R389, R405 and R408: what stands pending in a thread, its ticket and its wait, a collective under way. -/
theorem test_readWaits :
    readWord (stWait (.inkTicket 7 4 0x2000 0x5_0000) 9 (fun t => { t with ckptPend := some 1 })) (.gloss 0 0 .ticket) = 0x8000_0000_0000_0004
    ∧ readWord (stWait (.inkTicket 7 4 0x2000 0x5_0000) 9 (fun t => { t with ckptPend := some 1 })) (.gloss 0 0 .pends) = 2
    ∧ readWord (stWait .coll 9 id) (.gloss 0 0 .waited) = 9
    ∧ readWord stCollTmo (.rendezvous 0 0 true) = 0x0000_0003_0000_0001 := by decide

/-- R20 and R59: the scratchpad of a team that has exited is reached no more, once its commands are complete. -/
def stGone (n : Nat) : State := { st0 with teams := [(0, { tm0 with exited := true, counters := [(1, n)] })] }

theorem test_gone : scratchAt (stGone 0) 0 0 0x100 8 = none ∧ scratchAt (stGone 1) 0 0 0x100 8 = some (sk 0x100, 0)
    ∧ scratchAt st0 0 0 0x100 8 = some (sk 0x100, 0) := by decide

/-- R308: of two matrix commands of one cycle that of the lower nib is first, and none in the cycle of its issue. -/
def stNibs (a b now : Nat) : State :=
  { st0 with
    cycle := BitVec.ofNat 64 now
    cores := [(0, { co0 with cmds := [(cmdKey 1 4, { cmd1 0 false with issued := a, slot := 9 }),
      (cmdKey 1 5, { cmd1 0 false with issued := b, seq := 5, slot := 0 })] })] }

theorem test_nibOrder : (mxHead (stNibs 3 3 4) 0).map (fun c => c.seq) = some 5 ∧ (mxHead (stNibs 2 3 4) 0).map (fun c => c.seq) = some 4
    ∧ (mxHead (stNibs 3 3 3) 0).isNone = true := by decide

/-- R421: the first waiting lane's core, that of lanes which wait no more passed over. -/
theorem test_faultCore : faultCore stFault { fault3 with lanes := [41, 0] } = 0 ∧ faultCore stFault { fault3 with lanes := [41] } = 0xFF := by
  decide

/-- R186, R244 and R377: a thread of the shadow bank that stands at exit with its results back is ready there. -/
theorem test_parkOver :
    let b (w : Why) : Blocked := { waitFor w 3 with instr := .exit false }
    readyInBank (stWait .parkFirst 3 id) { th0 with status := .blocked (b .parkFirst) } = true
      ∧ readyInBank (stWait .parkFirst 3 id) { th0 with status := .blocked (b .coll) } = false := by decide

/-- R116: two threads of core 0 wait at one monitor; CKPT voids both tickets, and the core's bit is cleared. -/
def stTickets : State :=
  let w (n : Nat) (e : Env) : Status := .blocked { waitFor (.inkTicket 7 n 0x2000 0x5_0000) 9 with env := e }
  { st0 with
    well := put [] [(0x2000, 8, 2 ^ 63 + 99), (0x2008, 8, 0x0000_0003_0000_0006), (0x2018, 8, 1)]
    threads := [(0, { th0 with status := w 4 env0, ckptPend := some 1 }),
      (1, { th0 with tid := 1, pos := 1, tag := 78, status := w 5 { env0 with tid := 1 }, ckptPend := some 1 })] }

theorem test_ticketsVoid : monRead stTickets 0x2000 3 = 1
    ∧ monRead (takeCkpt stTickets 0) 0x2000 3 = 0 ∧ (takeCkpt stTickets 0).voids = [(0x2000, 4), (0x2000, 5)] := by decide
end Sys2Proof.Tests
end

section
/-! Integer forms of R257 to R260 and R262: shifts, compares, sel, the unary forms and the bit fields. First what the model's
arithmetic is in terms of bit vectors, then the forms' words and their ILLEGAL units, then the shapes of their results. -/

namespace Sys2Proof

theorem W.bits_pos (w : W) : 0 < w.bits := by cases w <;> decide
theorem IT.bits_pos (t : IT) : 0 < t.bits := by cases t <;> decide

end Sys2Proof

namespace Sys2Proof.Machine

/-! ### Numbers of a width, as bit vectors (R201) -/

theorem toSigned_eq_toInt (w x : Nat) : toSigned w x = (BitVec.ofNat w x).toInt := by
  rw [toSigned, BitVec.toInt_eq_toNat_cond, BitVec.toNat_ofNat]
  cases w with
  | zero => simp [Nat.mod_one]
  | succ n =>
    have hpow : 2 ^ (n + 1) = 2 * 2 ^ n := Nat.pow_succ'
    rw [Nat.add_sub_cancel]
    split <;> split
    · omega
    · push_cast; rfl
    · rfl
    · omega

theorem toBits_eq_toNat (w : Nat) (v : Int) : toBits w v = (BitVec.ofInt w v).toNat := by
  rw [toBits, BitVec.toNat_ofInt]; push_cast; rfl

theorem toBits_lt (w : Nat) (v : Int) : toBits w v < 2 ^ w := toBits_eq_toNat w v ▸ BitVec.isLt _

theorem toBits_eq_wrapTo (w : Nat) (v : Int) : toBits w v = wrapTo w v := rfl

theorem intOf_eq_value {t : IT} {x : Nat} (h : x < 2 ^ t.bits) : intOf t x = t.value x := by
  rw [intOf, IT.value, toSigned_eq_toInt, Nat.mod_eq_of_lt h]

/-! ### Shifts of a sub-element (R257) -/

theorem shl_elem (w x c : Nat) :
    (if w ≤ c then 0 else x * 2 ^ c) % 2 ^ w = if w ≤ c then 0 else (BitVec.ofNat w x <<< c).toNat := by
  split
  · exact Nat.zero_mod _
  · rw [BitVec.toNat_shiftLeft, BitVec.toNat_ofNat, Nat.shiftLeft_eq, Nat.mod_mul_mod]

theorem shr_elem {w x : Nat} (c : Nat) (hx : x < 2 ^ w) :
    (if w ≤ c then 0 else x / 2 ^ c) % 2 ^ w = if w ≤ c then 0 else (BitVec.ofNat w x >>> c).toNat := by
  split
  · exact Nat.zero_mod _
  · rw [BitVec.toNat_ushiftRight, BitVec.toNat_ofNat, Nat.mod_eq_of_lt hx, Nat.shiftRight_eq_div_pow,
      Nat.mod_eq_of_lt (Nat.lt_of_le_of_lt (Nat.div_le_self _ _) hx)]

/-- The floor of a signed number by a power of two is the arithmetic shift. -/
theorem toBits_toSigned_div (w x n : Nat) :
    toBits w (toSigned w x / 2 ^ n) = ((BitVec.ofNat w x).sshiftRight n).toNat := by
  have hdiv : toSigned w x / 2 ^ n = ((BitVec.ofNat w x).sshiftRight n).toInt := by
    rw [BitVec.toInt_sshiftRight, toSigned_eq_toInt, Int.shiftRight_eq_div_pow]; push_cast; rfl
  rw [hdiv, toBits_eq_toNat, BitVec.ofInt_toInt]

/-- Shifted by its whole width, a number leaves copies of its sign bit. -/
theorem toNat_sshiftRight_width {w : Nat} (x : BitVec w) :
    (x.sshiftRight w).toNat = if x.msb then 2 ^ w - 1 else 0 := by
  have hpos : 0 < 2 ^ w := Nat.two_pow_pos w
  have hlt : 2 ^ w - 1 - x.toNat < 2 ^ w := by omega
  rw [BitVec.toNat_sshiftRight, Nat.shiftRight_eq_div_pow, Nat.shiftRight_eq_div_pow, Nat.div_eq_of_lt hlt,
    Nat.div_eq_of_lt x.isLt, Nat.sub_zero]

theorem sar_elem (w x c : Nat) :
    toBits w (toSigned w x / 2 ^ min c w) % 2 ^ w =
      if w ≤ c then (if (BitVec.ofNat w x).msb then 2 ^ w - 1 else 0) else ((BitVec.ofNat w x).sshiftRight c).toNat := by
  rw [Nat.mod_eq_of_lt (toBits_lt w _), toBits_toSigned_div]
  split
  case isTrue h => rw [Nat.min_eq_right h, toNat_sshiftRight_width]
  case isFalse h => rw [Nat.min_eq_left (by omega)]

/-- The two halves of a rotation do not overlap, so that their sum is their disjunction. -/
theorem rol_elem {w x : Nat} (c : Nat) (hw : 0 < w) (hx : x < 2 ^ w) :
    (x * 2 ^ (c % w) + x / 2 ^ (w - c % w)) % 2 ^ w = ((BitVec.ofNat w x).rotateLeft (c % w)).toNat := by
  have hr : c % w < w := Nat.mod_lt _ hw
  generalize c % w = r at hr
  have hpow : 2 ^ w = 2 ^ r * 2 ^ (w - r) := by rw [← Nat.pow_add]; congr 1; omega
  have hlow : x / 2 ^ (w - r) < 2 ^ r := Nat.div_lt_of_lt_mul (by rwa [Nat.mul_comm, ← hpow])
  have hhigh : x * 2 ^ r % 2 ^ w = (x % 2 ^ (w - r)) <<< r := by
    rw [hpow, Nat.mul_comm x, Nat.mul_mod_mul_left, Nat.shiftLeft_eq, Nat.mul_comm]
  have hsum : (x % 2 ^ (w - r)) <<< r + x / 2 ^ (w - r) < 2 ^ w := by
    have hrest : x % 2 ^ (w - r) + 1 ≤ 2 ^ (w - r) := Nat.mod_lt _ (Nat.two_pow_pos _)
    have := Nat.mul_le_mul_right (2 ^ r) hrest
    rw [Nat.shiftLeft_eq, hpow, Nat.mul_comm (2 ^ r)]
    rw [Nat.add_mul, Nat.one_mul] at this
    omega
  rw [BitVec.toNat_rotateLeft, BitVec.toNat_ofNat, Nat.mod_eq_of_lt hx, Nat.mod_eq_of_lt hr, Nat.shiftLeft_eq, hhigh,
    Nat.shiftRight_eq_div_pow, ← Nat.shiftLeft_add_eq_or_of_lt hlow, ← Nat.mod_eq_of_lt hsum, ← hhigh, Nat.mod_add_mod]

/-! ### Unary operations on a sub-element (R260) -/

theorem abs_elem {t : IT} {y : Nat} (hy : y < 2 ^ t.bits) :
    toBits t.bits (intOf t y).natAbs % 2 ^ t.bits = wrapTo t.bits |t.value y| := by
  rw [Nat.mod_eq_of_lt (toBits_lt _ _), Int.natCast_natAbs, intOf_eq_value hy, toBits_eq_wrapTo]

theorem neg_elem {w y : Nat} (hy : y < 2 ^ w) : (2 ^ w - y) % 2 ^ w = wrapTo w (-(y : Int)) := by
  have hcast : ((2 ^ w - y : Nat) : Int) = 2 ^ w + -(y : Int) := by
    rw [Nat.cast_sub (Nat.le_of_lt hy)]; push_cast; omega
  rw [wrapTo, ← Int.add_emod_left, ← hcast]
  exact_mod_cast rfl

theorem bitLen_zero : bitLen 0 = 0 := rfl

theorem bitLen_eq {m k : Nat} (hlow : 2 ^ k ≤ m) (hhigh : m < 2 ^ (k + 1)) : bitLen m = k + 1 := by
  have hm : m ≠ 0 := by have := Nat.two_pow_pos k; omega
  rw [bitLen, if_neg hm, (Nat.log2_eq_iff hm).2 ⟨hlow, hhigh⟩]

theorem clz_elem {w y : Nat} (hw : 0 < w) (hy : y < 2 ^ w) :
    leadingZeros w y % 2 ^ w = (BitVec.ofNat w y).clz.toNat := by
  have htoNat : (BitVec.ofNat w y).toNat = y := by rw [BitVec.toNat_ofNat, Nat.mod_eq_of_lt hy]
  rw [leadingZeros, Nat.mod_eq_of_lt hy]
  by_cases h0 : y = 0
  · subst h0
    rw [BitVec.clz_eq_iff_eq_zero.2 rfl, bitLen_zero, Nat.sub_zero]
    exact (BitVec.toNat_ofNat w w).symm
  · have hne : BitVec.ofNat w y ≠ 0#w := fun h => h0 (by rw [← htoNat, h]; rfl)
    have hlow := BitVec.two_pow_sub_clz_le_toNat_of_ne_zero hw hne
    have hhigh := BitVec.toNat_lt_two_pow_sub_clz (x := BitVec.ofNat w y)
    have hclt := (BitVec.ofNat w y).clz.isLt
    rw [htoNat] at hlow hhigh
    generalize (BitVec.ofNat w y).clz.toNat = c at *
    have hc : c < w := by
      by_contra h
      rw [Nat.sub_eq_zero_of_le (by omega : w ≤ c)] at hhigh
      omega
    rw [bitLen_eq (k := w - 1 - c) hlow (by rwa [(by omega : w - 1 - c + 1 = w - c)]),
      (by omega : w - (w - 1 - c + 1) = c), Nat.mod_eq_of_lt hclt]

theorem popc_elem (w y : Nat) : popCount w y % 2 ^ w = (List.range w).countP (fun k => y.testBit k) := by
  have hle : (List.range w).countP (fun k => y.testBit k) ≤ w := by
    simpa using (List.range w).countP_le_length (p := fun k => y.testBit k)
  rw [popCount, ← List.countP_eq_length_filter, Nat.mod_eq_of_lt (Nat.lt_of_le_of_lt hle Nat.lt_two_pow_self)]

/-! ### Compares (R201, R258) -/

theorem condHolds_eq {c : BitVec 3} (hc : c.toNat ≤ 5) (x y : Int) :
    condHolds c x y = ((c == 0#3 && decide (x = y)) || (c == 1#3 && decide (x ≠ y)) || (c == 2#3 && decide (x < y))
      || (c == 3#3 && decide (x ≤ y)) || (c == 4#3 && decide (y < x)) || (c == 5#3 && decide (y ≤ x))) := by
  have hcodes : ∀ c : BitVec 3, c.toNat ≤ 5 → c = 0#3 ∨ c = 1#3 ∨ c = 2#3 ∨ c = 3#3 ∨ c = 4#3 ∨ c = 5#3 := by decide
  obtain rfl | rfl | rfl | rfl | rfl | rfl := hcodes c hc
  · simp [condHolds, Bool.beq_eq_decide_eq]
  · simp [condHolds, bne, Bool.beq_eq_decide_eq]
  · simp [condHolds]
  · simp [condHolds]
  · simp [condHolds]
  · simp [condHolds]

/-- The sub-element in which a byte falls: a type has whole bytes. -/
theorem byte_elem (t : IT) (k : Nat) : k * 8 / t.bits = k / (t.bits / 8) := by
  have h8 : t.bits = 8 * (t.bits / 8) := by cases t <;> rfl
  conv_lhs => rw [h8, Nat.mul_comm k]
  exact Nat.mul_div_mul_left _ _ (by decide)

/-! ### Bit fields (R262) -/

/-- The bounds of the field that operand b names: `[high − 1 : low]`. -/
def fieldLow (b : Word) : Nat := (b.extractLsb' 0 6).toNat
def fieldHigh (b : Word) : Nat := min (fieldLow b + min (b.extractLsb' 8 7).toNat 64) 64

theorem bitsOf_eq_extractLsb' (x : Word) (hi lo : Nat) : bitsOf x hi lo = (x.extractLsb' lo (hi + 1 - lo)).toNat := by
  rw [bitsOf, BitVec.extractLsb'_toNat, Nat.shiftRight_eq_div_pow]

theorem fieldRange_eq (b : Word) : fieldRange b = (fieldLow b, fieldHigh b) := by
  simp only [fieldRange, bitsOf_eq_extractLsb']; rfl

theorem fieldHigh_le (b : Word) : fieldHigh b ≤ 64 := Nat.min_le_right _ _

theorem ofNat_field (a : Word) (p n : Nat) : BitVec.ofNat n (a.toNat / 2 ^ p % 2 ^ n) = a.extractLsb' p n := by
  apply BitVec.eq_of_toNat_eq
  rw [BitVec.toNat_ofNat, Nat.mod_mod, BitVec.extractLsb'_toNat, Nat.shiftRight_eq_div_pow]

theorem extractField_unsigned (a b : Word) :
    extractField false a b = (a.extractLsb' (fieldLow b) (fieldHigh b - fieldLow b)).setWidth 64 := by
  simp only [extractField, fieldRange_eq]
  split
  case isTrue h => rw [Nat.sub_eq_zero_of_le h]; exact BitVec.eq_of_toNat_eq (by simp)
  case isFalse =>
    apply BitVec.eq_of_toNat_eq
    rw [if_neg Bool.false_ne_true, BitVec.toNat_ofNat, BitVec.toNat_setWidth, BitVec.extractLsb'_toNat,
      Nat.shiftRight_eq_div_pow]

theorem extractField_signed (a b : Word) :
    extractField true a b = (a.extractLsb' (fieldLow b) (fieldHigh b - fieldLow b)).signExtend 64 := by
  simp only [extractField, fieldRange_eq]
  split
  case isTrue h => rw [Nat.sub_eq_zero_of_le h, BitVec.of_length_zero (x := a.extractLsb' _ 0)]; rfl
  case isFalse => rw [if_pos trivial, toSigned_eq_toInt, ofNat_field, BitVec.signExtend]

/-- A number with the `n` bits from bit `lo` up replaced, in its three parts. -/
theorem replaceField_eq (x lo n y : Nat) :
    x - x / 2 ^ lo % 2 ^ n * 2 ^ lo + y * 2 ^ lo = 2 ^ lo * (2 ^ n * (x / 2 ^ lo / 2 ^ n) + y) + x % 2 ^ lo := by
  have hlow := Nat.div_add_mod x (2 ^ lo)
  have hmid := Nat.div_add_mod (x / 2 ^ lo) (2 ^ n)
  generalize x / 2 ^ lo / 2 ^ n = high at *
  generalize x / 2 ^ lo % 2 ^ n = mid at *
  rw [← hmid, Nat.mul_add, Nat.mul_comm _ mid] at hlow
  rw [Nat.mul_add, Nat.mul_comm (2 ^ lo) y]
  omega

theorem getLsbD_setBits (x : Word) {hi lo : Nat} (hle : lo ≤ hi + 1) (y k : Nat) (hk : k < 64) :
    (setBits x hi lo y).getLsbD k = if lo ≤ k ∧ k < hi + 1 then y.testBit (k - lo) else x.getLsbD k := by
  have hy : y % 2 ^ (hi + 1 - lo) < 2 ^ (hi + 1 - lo) := Nat.mod_lt _ (Nat.two_pow_pos _)
  have hx : x.toNat % 2 ^ lo < 2 ^ lo := Nat.mod_lt _ (Nat.two_pow_pos _)
  rw [setBits, BitVec.getLsbD_ofNat, decide_eq_true hk, Bool.true_and, bitsOf, replaceField_eq,
    Nat.testBit_two_pow_mul_add _ hx, Nat.testBit_two_pow_mul_add _ hy, BitVec.getLsbD]
  rcases Nat.lt_or_ge k lo with h1 | h1
  · rw [if_pos h1, if_neg (by omega), Nat.testBit_mod_two_pow, decide_eq_true h1, Bool.true_and]
  · rcases Nat.lt_or_ge k (hi + 1) with h2 | h2
    · have h3 : k - lo < hi + 1 - lo := by omega
      rw [if_neg (by omega), if_pos h3, if_pos ⟨h1, h2⟩, Nat.testBit_mod_two_pow, decide_eq_true h3, Bool.true_and]
    · rw [if_neg (by omega), if_neg (by omega), if_neg (by omega), Nat.testBit_div_two_pow, Nat.testBit_div_two_pow]
      congr 1
      omega

theorem getLsbD_insertField (a b d : Word) {k : Nat} (hk : k < 64) :
    (insertField a b d).getLsbD k =
      if fieldLow b ≤ k ∧ k < fieldHigh b then a.getLsbD (k - fieldLow b) else d.getLsbD k := by
  simp only [insertField, fieldRange_eq]
  split
  case isTrue h => rw [if_neg (by omega)]
  case isFalse h =>
    have hhi : fieldHigh b - 1 + 1 = fieldHigh b := by omega
    rw [getLsbD_setBits _ (by omega) _ _ hk, hhi]
    split
    case isTrue hin => rw [Nat.testBit_mod_two_pow, decide_eq_true (by omega), Bool.true_and, BitVec.getLsbD]
    case isFalse => rfl

/-! ### Words (R176, R181, R202) -/

theorem flag_eq_getLsbD (x : W32) (i : Nat) : x.flag i = x.getLsbD i := by
  rw [W32.flag, W32.bits]
  cases h : x.getLsbD i
  · exact beq_false_of_ne fun hone => by simpa [h] using congrArg (BitVec.getLsbD · 0) hone
  · exact beq_iff_eq.2 (BitVec.eq_of_getLsbD_eq fun k hk => by
      obtain rfl : k = 0 := by omega
      simpa using h)

theorem bit_eq_one_iff (x : W32) (i : Nat) : x.bits i 1 = 1#1 ↔ x.getLsbD i = true := by
  rw [← flag_eq_getLsbD, W32.flag, beq_iff_eq]

theorem bit_eq_zero_iff (x : W32) (i : Nat) : x.bits i 1 = 0#1 ↔ x.getLsbD i = false := by
  rw [← Bool.not_eq_true, ← bit_eq_one_iff]
  have hbit : ∀ y : BitVec 1, y = 0#1 ↔ ¬ y = 1#1 := by decide
  exact hbit _

theorem wordReads_of_opndWord {x : W32} {ws : List W32} {f : Opnd → Instr} (h : decodeWord x ws = opndWord x ws true f) :
    WordReads x ws f := by
  intro b rest hb
  have hb' : Opnd.read (x.bits 0 8) ws = .ok (b, rest) := hb
  rw [h, opndWord, if_pos rfl, hb']

theorem opndWord_reserved (x : W32) (ws : List W32) (f : Opnd → Instr) :
    opndWord x ws false f = .error .reservedField := rfl

section
variable {x : W32} (ws : List W32)

theorem decodeWord_op0F (h : x.extractLsb' 25 6 = 0x0F#6) : decodeWord x ws = decodeOp0F x ws := by
  rw [decodeWord, W32.bits, h]; rfl
theorem decodeWord_op10 (h : x.extractLsb' 25 6 = 0x10#6) : decodeWord x ws = decodeOp10 x ws := by
  rw [decodeWord, W32.bits, h]; rfl
theorem decodeWord_op13 (h : x.extractLsb' 25 6 = 0x13#6) : decodeWord x ws = decodeOp13 x ws := by
  rw [decodeWord, W32.bits, h]; rfl
theorem decodeWord_op14 (h : x.extractLsb' 25 6 = 0x14#6) : decodeWord x ws = decodeOp14 x ws := by
  rw [decodeWord, W32.bits, h]; rfl
theorem decodeWord_op15 (h : x.extractLsb' 25 6 = 0x15#6) : decodeWord x ws = decodeOp15 x ws := by
  rw [decodeWord, W32.bits, h]; rfl
theorem decodeWord_op16 (h : x.extractLsb' 25 6 = 0x16#6) : decodeWord x ws = decodeOp16 x ws := by
  rw [decodeWord, W32.bits, h]; rfl

end

/-! ### Units that are ILLEGAL (R178) -/

theorem isIllegal_of_formCheck {h : Hints} {i : Instr} (hf : (formCheck h i).isSome = true) : IsIllegal h i := by
  intro s th
  simp only [issueCheck, hf, Bool.true_or, if_true]

section
variable {h : Hints} {i : Instr} (hi : i.isHint = false)
include hi

/-- An instruction may not write m0 (R182). -/
theorem formCheck_writesM0 (hm : i.mWrites = some 0#3) : (formCheck h i).isSome = true := by
  simp only [formCheck, hi, hm, Bool.false_eq_true, if_false, beq_self_eq_true, if_true]
  repeat' split
  all_goals rfl

/-- What the form's own fields may not hold, the unit may not. -/
theorem formCheck_fieldCheck (hf : (fieldCheck i).isSome = true) : (formCheck h i).isSome = true := by
  obtain ⟨e, he⟩ := Option.isSome_iff_exists.1 hf
  simp only [formCheck, hi, he, Bool.false_eq_true, if_false]
  repeat' split
  all_goals rfl

/-- No PRE may stand before a form that accepts none (R190). -/
theorem formCheck_preUnaccepted (ha : i.acceptsPre = false) (hp : h.pre ≠ none) : (formCheck h i).isSome = true := by
  obtain ⟨p, hp⟩ := Option.ne_none_iff_exists'.1 hp
  have hpre : preCheck h i = some .preUnaccepted := by simp only [preCheck, hp, ha, Bool.not_false, if_true]
  simp only [formCheck, hi, hpre, Bool.false_eq_true, if_false]
  repeat' split
  all_goals rfl

end

/-- An instruction that issues to some thread holds nothing in its fields that its form does not allow. -/
theorem Issues.fieldCheck_none {s : State} {bd : Bundle} {i : Instr} (h : Issues s bd i) (hi : i.isHint = false) {tid : Nat}
    (hm : tid ∈ bd.tids) : fieldCheck i = none := by
  obtain ⟨th, -, -, -, -, -, -, -, hgo⟩ := h.threads tid hm
  refine Option.not_isSome_iff_eq_none.1 fun hf => ?_
  simp only [issueCheck, formCheck_fieldCheck hi hf, Bool.true_or, if_true, reduceCtorEq] at hgo

/-! ### The shapes of the results -/

/-- The one form with an operand that its unit must supply takes no mask (R214). -/
theorem ne_ldb_of_acceptsMask {i : Instr} (hm : i.acceptsMask = true) : ∀ sw z d a o p, i ≠ .ldb sw z d a o p := by
  rintro sw z d a o p rfl
  exact Bool.false_ne_true hm

section
variable {s : State} {bd : Bundle} {i : Instr} (h : Issues s bd i) {d a : BitVec 7} {b : Opnd} {w : Nat}
include h

/-- A short form of the registers a and b. -/
theorem shortForm_binary {f' f : Nat → Nat → Nat} (hrun : exec i s = runEach i (shortOp i d w (fun x y _ => f' x y)) s)
    (hd : i.dReg = some d) (ha : i.aReg = some a) (hb : i.opnd = some b) (hm : i.acceptsMask = true)
    (hf : ∀ x y, x < 2 ^ w → y < 2 ^ w → f' x y % 2 ^ w = f x y) :
    ShortForm s bd i d w (fun th => th.getV a.toNat) (s.opndB i b) (fun x y _ => f x y) :=
  shortOp_form h d w _ _ _ _ hrun hd (ne_ldb_of_acceptsMask hm) hm (operands_opA ha) (operands_opB hb)
    (Nat.mul_div_le 64 w) (fun x y _ hx hy _ => hf x y hx hy) (.inr fun _ _ _ _ => rfl)

/-- A short form of operand b alone. -/
theorem shortForm_unary {f' f : Nat → Nat} (hrun : exec i s = runEach i (shortOp i d w (fun _ y _ => f' y)) s)
    (hd : i.dReg = some d) (ha : ∀ tid, (s.operands bd i tid).opA = 0) (hb : i.opnd = some b) (hm : i.acceptsMask = true)
    (hf : ∀ y, y < 2 ^ w → f' y % 2 ^ w = f y) :
    ShortForm s bd i d w (fun _ => 0) (s.opndB i b) (fun _ y _ => f y) :=
  shortOp_form h d w _ _ _ _ hrun hd (ne_ldb_of_acceptsMask hm) hm ha (operands_opB hb)
    (Nat.mul_div_le 64 w) (fun _ y _ _ hy _ => hf y hy) (.inr fun _ _ _ _ => rfl)

end

/-- A merge byte by byte, bit by bit (R238). -/
theorem getLsbD_mergeMask_bytes (m : BitVec 8) (z : Bool) (old new : Word) {k : Nat} (hk : k < 64) :
    (mergeMask 8 m z old (elems 8 new)).getLsbD k =
      if m.getLsbD (k / 8) then new.getLsbD k else if z then false else old.getLsbD k := by
  have hbyte : k / 8 < (elems 8 new).length := by simp only [elems, List.length_map, List.length_range]; omega
  rw [getLsbD_of_elem, elemAt_mergeMask _ _ _ _ _ _ hbyte (by simp [elems]), governed, Nat.mul_div_cancel _ (by decide)]
  simp only [elems, List.getElem_map, List.getElem_range, Nat.mod_eq_of_lt (elemAt_lt _ _ _)]
  split
  · rw [getLsbD_of_elem new]
  · split
    · exact Nat.zero_testBit _
    · rw [getLsbD_of_elem old]

/-- A condition code above 5 does not issue (R258). -/
theorem Issues.condition_le {s : State} {bd : Bundle} {sw : Bool} {t : IT} {c m : BitVec 3} {a : BitVec 7} {b : Opnd}
    (h : Issues s bd (.cmp sw t c m a b)) {tid : Nat} (hm : tid ∈ bd.tids) : c.toNat ≤ 5 := by
  have hfield := h.fieldCheck_none rfl hm
  simp only [fieldCheck] at hfield
  split at hfield
  case isTrue hc => exact hc
  case isFalse => exact absurd hfield (Option.some_ne_none _)

/-! ### Shifts (R257) -/

/-- The words of op 0x0F: x[24] tells shl from shr. -/
theorem shiftWords_op0F {x : W32} (ws : List W32) (h : x.extractLsb' 25 6 = 0x0F#6) :
    WordReads x ws (fun b =>
      if x.getLsbD 24 then .shr (x.getLsbD 31) (W.ofBits (x.extractLsb' 22 2)) (x.extractLsb' 15 7) (x.extractLsb' 8 7) b
      else .shl (x.getLsbD 31) (W.ofBits (x.extractLsb' 22 2)) (x.extractLsb' 15 7) (x.extractLsb' 8 7) b) := by
  apply wordReads_of_opndWord
  rw [decodeWord_op0F ws h, decodeOp0F, flag_eq_getLsbD]
  cases h24 : x.getLsbD 24
  case false => rw [if_pos ((bit_eq_zero_iff x 24).2 h24)]; rfl
  case true => rw [(bit_eq_one_iff x 24).2 h24]; rfl

/-- The words of op 0x10: x[24] tells sar from rol. -/
theorem shiftWords_op10 {x : W32} (ws : List W32) (h : x.extractLsb' 25 6 = 0x10#6) :
    WordReads x ws (fun b =>
      if x.getLsbD 24 then .rol (x.getLsbD 31) (W.ofBits (x.extractLsb' 22 2)) (x.extractLsb' 15 7) (x.extractLsb' 8 7) b
      else .sar (x.getLsbD 31) (W.ofBits (x.extractLsb' 22 2)) (x.extractLsb' 15 7) (x.extractLsb' 8 7) b) := by
  apply wordReads_of_opndWord
  rw [decodeWord_op10 ws h, decodeOp10, flag_eq_getLsbD]
  cases h24 : x.getLsbD 24
  case false => rw [if_pos ((bit_eq_zero_iff x 24).2 h24)]; rfl
  case true => rw [(bit_eq_one_iff x 24).2 h24]; rfl

/-- Settles O5: each shift of the model, computed on numbers, is the bit vector's own, and the words of both ops name it. -/
theorem shifts : Obligations.Shifts := by
  unfold Obligations.Shifts
  refine ⟨fun s bd sw w d a b => ⟨fun h => ?_, fun h => ?_, fun h => ?_, fun h => ?_⟩,
    fun x ws => ⟨shiftWords_op0F ws, shiftWords_op10 ws⟩⟩
  · exact shortForm_binary h rfl rfl rfl rfl rfl fun x c _ _ => shl_elem w.bits x c
  · exact shortForm_binary h rfl rfl rfl rfl rfl fun x c hx _ => shr_elem c hx
  · exact shortForm_binary h rfl rfl rfl rfl rfl fun x c _ _ => sar_elem w.bits x c
  · exact shortForm_binary h rfl rfl rfl rfl rfl fun x c hx _ => rol_elem c (W.bits_pos w) hx

/-! ### Integer compares (R258) -/

theorem cmp_maskForm {s : State} {bd : Bundle} {sw : Bool} {t : IT} {c m : BitVec 3} {a : BitVec 7} {b : Opnd}
    (h : Issues s bd (.cmp sw t c m a b)) :
    MaskForm s bd (.cmp sw t c m a b) m (fun th k =>
      let x := t.value (elemAt t.bits (th.getV a.toNat) (k / (t.bits / 8)))
      let y := t.value (elemAt t.bits (s.opndB (.cmp sw t c m a b) b th) (k / (t.bits / 8)))
      (c == 0#3 && decide (x = y)) || (c == 1#3 && decide (x ≠ y)) || (c == 2#3 && decide (x < y))
        || (c == 3#3 && decide (x ≤ y)) || (c == 4#3 && decide (y < x)) || (c == 5#3 && decide (y ≤ x))) := by
  refine maskForm_of h (laneCmp (.cmp sw t c m a b) t c m) m
    (fun tid => maskBits t.bits (fun j =>
      condHolds c (intOf t (elemAt t.bits (s.operands bd (.cmp sw t c m a b) tid).opA j))
        (intOf t (elemAt t.bits (s.operands bd (.cmp sw t c m a b) tid).opB j))))
    _ rfl (fun _ _ _ _ _ => rfl) fun tid hm k hk => ?_
  rw [getLsbD_maskBits _ _ _ hk, byte_elem, intOf_eq_value (elemAt_lt _ _ _), intOf_eq_value (elemAt_lt _ _ _),
    condHolds_eq (h.condition_le hm), operands_opA rfl, operands_opB rfl]

theorem cmp_words {x : W32} (ws : List W32) (h : x.extractLsb' 25 6 = 0x13#6) (h21 : x.getLsbD 21 = false) :
    WordReads x ws (fun b => .cmp (x.getLsbD 31) (IT.ofBits (x.extractLsb' 22 3)) (x.extractLsb' 18 3) (x.extractLsb' 15 3)
      (x.extractLsb' 8 7) b) := by
  apply wordReads_of_opndWord
  rw [decodeWord_op13 ws h, decodeOp13, flag_eq_getLsbD, (bit_eq_zero_iff x 21).2 h21]
  rfl

theorem cmp_isIllegal {h : Hints} {sw : Bool} {t : IT} {c m : BitVec 3} {a : BitVec 7} {b : Opnd}
    (hill : h.pre ≠ none ∨ m = 0#3) : IsIllegal h (.cmp sw t c m a b) := by
  apply isIllegal_of_formCheck
  obtain hp | rfl := hill
  · exact formCheck_preUnaccepted rfl rfl hp
  · exact formCheck_writesM0 rfl rfl

/-- Settles O6: bit k of the mask is the test of the sub-element in which byte k falls. -/
theorem integerCompare : Obligations.IntegerCompare :=
  ⟨fun _ _ _ _ _ _ _ _ h => cmp_maskForm h, fun _ ws => cmp_words ws, fun _ _ _ _ _ _ _ => cmp_isIllegal⟩

/-! ### sel and the bit fields (R259, R262) -/

theorem sel_eachThread {s : State} {bd : Bundle} {sw : Bool} {m : BitVec 3} {d a : BitVec 7} {b : Opnd}
    (h : Issues s bd (.sel sw m d a b)) :
    EachThread s bd (.sel sw m d a b) (fun e th th' => ∃ x : Word,
      th' = th.wroteV s.now (.sel sw m d a b) e d.toNat x ∧ ∀ k, k < 64 → x.getLsbD k =
        if (th.getM m.toNat).getLsbD (k / 8) then (th.getV a.toNat).getLsbD k
        else (s.opndB (.sel sw m d a b) b th).getLsbD k) := by
  obtain ⟨t, hexec, honly, hthreads⟩ := runEach_writeV h (laneSel (.sel sw m d a b) m d) d.toNat
    (fun tid => mergeMask 8 ((s.thread (threadKey bd.team tid)).getM m.toNat) false
      (s.operands bd (.sel sw m d a b) tid).opB (elems 8 (s.operands bd (.sel sw m d a b) tid).opA)) rfl (by
    intro tid hm u _ hs
    simp only [laneSel, operands_key h hm, hs])
  refine ⟨t, hexec, honly, fun tid hm => ⟨_, hthreads tid hm, fun k hk => ?_⟩⟩
  rw [getLsbD_mergeMask_bytes _ _ _ _ hk, operands_opA rfl, operands_opB rfl, if_neg Bool.false_ne_true]

theorem bfi_eachThread {s : State} {bd : Bundle} {sw : Bool} {d a : BitVec 7} {b : Opnd} (h : Issues s bd (.bfi sw d a b)) :
    EachThread s bd (.bfi sw d a b) (fun e th th' => ∃ x : Word,
      th' = th.wroteV s.now (.bfi sw d a b) e d.toNat x ∧ ∀ k, k < 64 → x.getLsbD k =
        let y := s.opndB (.bfi sw d a b) b th
        if th.unitMask.getLsbD (k / 8) then
          if fieldLow y ≤ k ∧ k < fieldHigh y then (th.getV a.toNat).getLsbD (k - fieldLow y) else (th.getV d.toNat).getLsbD k
        else if th.unitZ then false else (th.getV d.toNat).getLsbD k) := by
  have hwide : WideForm s bd (.bfi sw d a b) d (fun th =>
      insertField (th.getV a.toNat) (s.opndB (.bfi sw d a b) b th) (th.getV d.toNat)) :=
    wideOp_form h d insertField _ rfl rfl (ne_ldb_of_acceptsMask rfl) rfl fun tid => by
      rw [operands_opA rfl, operands_opB rfl, operands_opC rfl (ne_ldb_of_acceptsMask rfl) tid (.inl rfl)]
  obtain ⟨t, hexec, honly, hthreads⟩ := hwide
  refine ⟨t, hexec, honly, fun tid hm => ?_⟩
  obtain ⟨x, hwrote, hbits⟩ := hthreads tid hm
  exact ⟨x, hwrote, fun k hk => by rw [hbits k hk, getLsbD_insertField _ _ _ hk]⟩

theorem bfe_wideForm {s : State} {bd : Bundle} {sw : Bool} {d a : BitVec 7} {b : Opnd} (h : Issues s bd (.bfe sw d a b)) :
    WideForm s bd (.bfe sw d a b) d (fun th =>
      let y := s.opndB (.bfe sw d a b) b th
      ((th.getV a.toNat).extractLsb' (fieldLow y) (fieldHigh y - fieldLow y)).setWidth 64) :=
  wideOp_form h d (fun a b _ => extractField false a b) _ rfl rfl (ne_ldb_of_acceptsMask rfl) rfl fun tid => by
    rw [extractField_unsigned, operands_opA rfl, operands_opB rfl]

theorem bfeI_wideForm {s : State} {bd : Bundle} {sw : Bool} {d a : BitVec 7} {b : Opnd} (h : Issues s bd (.bfeI sw d a b)) :
    WideForm s bd (.bfeI sw d a b) d (fun th =>
      let y := s.opndB (.bfeI sw d a b) b th
      ((th.getV a.toNat).extractLsb' (fieldLow y) (fieldHigh y - fieldLow y)).signExtend 64) :=
  wideOp_form h d (fun a b _ => extractField true a b) _ rfl rfl (ne_ldb_of_acceptsMask rfl) rfl fun tid => by
    rw [extractField_signed, operands_opA rfl, operands_opB rfl]

theorem sel_words {x : W32} (ws : List W32) (h : x.extractLsb' 25 6 = 0x15#6) :
    WordReads x ws (fun b => .sel (x.getLsbD 31) (x.extractLsb' 22 3) (x.extractLsb' 15 7) (x.extractLsb' 8 7) b) := by
  apply wordReads_of_opndWord
  rw [decodeWord_op15 ws h, decodeOp15, flag_eq_getLsbD]
  rfl

/-- The words of op 0x16: x[24:22] names the form. -/
theorem bitField_words (x : W32) (ws : List W32) :
    let sw := x.getLsbD 31
    let k := x.extractLsb' 22 3
    let d := x.extractLsb' 15 7
    let a := x.extractLsb' 8 7
    (x.extractLsb' 25 6 = 0x16#6 → k = 0#3 → WordReads x ws (fun b => .bfe sw d a b))
      ∧ (x.extractLsb' 25 6 = 0x16#6 → k = 1#3 → WordReads x ws (fun b => .bfeI sw d a b))
      ∧ (x.extractLsb' 25 6 = 0x16#6 → k = 2#3 → WordReads x ws (fun b => .bfi sw d a b)) := by
  refine ⟨fun h hk => ?_, fun h hk => ?_, fun h hk => ?_⟩ <;>
  · apply wordReads_of_opndWord
    rw [decodeWord_op16 ws h, decodeOp16, flag_eq_getLsbD, show x.bits 22 3 = _ from hk]
    rfl

/-- Settles O7: a byte-wise merge under mX for sel; for the bit fields, the field of R262 as a slice of the word. -/
theorem selectAndBitFields : Obligations.SelectAndBitFields :=
  ⟨fun _ _ _ _ _ _ _ => ⟨sel_eachThread, bfe_wideForm, bfeI_wideForm, bfi_eachThread⟩,
    fun x ws => ⟨sel_words ws, bitField_words x ws⟩,
    fun _ _ _ _ _ _ hp => isIllegal_of_formCheck (formCheck_preUnaccepted rfl rfl hp)⟩

/-! ### Unary forms (R260) -/

/-- The words of op 0x14 with a[6:3] zero: x[24:22] names the form. -/
theorem unary_words {x : W32} (ws : List W32) (h : x.extractLsb' 25 6 = 0x14#6) (ha : x.extractLsb' 11 4 = 0#4) :
    let sw := x.getLsbD 31
    let k := x.extractLsb' 22 3
    let d := x.extractLsb' 15 7
    let t := IT.ofBits (x.extractLsb' 8 3)
    (k = 0#3 → WordReads x ws (fun b => .abs sw d t b)) ∧ (k = 1#3 → WordReads x ws (fun b => .neg sw d t b))
      ∧ (k = 2#3 → WordReads x ws (fun b => .clz sw d t b)) ∧ (k = 3#3 → WordReads x ws (fun b => .popc sw d t b)) := by
  refine ⟨fun hk => ?_, fun hk => ?_, fun hk => ?_, fun hk => ?_⟩ <;>
  · apply wordReads_of_opndWord
    rw [decodeWord_op14 ws h, decodeOp14, flag_eq_getLsbD, show x.bits 22 3 = _ from hk, show x.bits 11 4 = _ from ha]
    rfl

/-- A unary form has no other use for a[6:3]. -/
theorem unary_reserved {x : W32} (ws : List W32) (h : x.extractLsb' 25 6 = 0x14#6) (hk : (x.extractLsb' 22 3).toNat < 4)
    (ha : x.extractLsb' 11 4 ≠ 0#4) : decodeWord x ws = .error .reservedField := by
  have hcodes : ∀ k : BitVec 3, k.toNat < 4 → k = 0#3 ∨ k = 1#3 ∨ k = 2#3 ∨ k = 3#3 := by decide
  have hzero : (x.bits 11 4 == 0#4) = false := beq_false_of_ne ha
  rw [decodeWord_op14 ws h, decodeOp14, hzero]
  obtain hk | hk | hk | hk := hcodes _ hk <;>
  · rw [show x.bits 22 3 = _ from hk]
    rfl

/-- Settles O8: each unary form on the sub-elements of b, and the words and units that are none. -/
theorem integerUnary : Obligations.IntegerUnary := by
  unfold Obligations.IntegerUnary
  refine ⟨fun s bd sw d t b => ⟨fun h => ?_, fun h => ?_, fun h => ?_, fun h => ?_⟩, fun x ws => ?_, fun hs sw d t b ht => ?_⟩
  · exact shortForm_unary h rfl rfl (fun _ => rfl) rfl rfl fun y hy => abs_elem hy
  · exact shortForm_unary h rfl rfl (fun _ => rfl) rfl rfl fun y hy => neg_elem hy
  · exact shortForm_unary h rfl rfl (fun _ => rfl) rfl rfl fun y hy => clz_elem (IT.bits_pos t) hy
  · exact shortForm_unary h rfl rfl (fun _ => rfl) rfl rfl fun y _ => popc_elem t.bits y
  · exact fun h => ⟨fun hk ha => ⟨_, unary_reserved ws h hk ha⟩, unary_words ws h⟩
  · apply isIllegal_of_formCheck
    apply formCheck_fieldCheck rfl
    simp only [fieldCheck, ht, Bool.false_eq_true, if_false, Option.isSome_some]

end Sys2Proof.Machine

end
